-- ==== Sys2Proof/Word.lean ====
section
/-! DEFINITION. The word types of the device (00_scope R4) and the keyed list in which sparse state is held. -/

namespace Sys2Proof

/-- A byte, 8 bits (R4). -/
abbrev Byte := BitVec 8

/-- A word, 32 bits (R4); also one slot (R25). -/
abbrev Word := BitVec 32

/-- A doubleword, 64 bits (R4). -/
abbrev Dword := BitVec 64

/-- Sparse state by number: (key, value) pairs. A key that is not listed reads as the value its reader names. -/
abbrev KV (α : Type) := List (Nat × α)

end Sys2Proof
end

