-- ==== Sys2Proof/Config.lean ====
section
/-! DEFINITION. The values that the manual leaves open: constants without a body, of which nothing can be evaluated or
proved, each named in the assumption log; and the fixed figures of the device. -/

namespace Sys2Proof

/-- The cycles a variable-latency operation takes beyond the least (02_words R38), by draw number (log 4). -/
opaque Config.latency : Nat → Nat

/-- Which of the values within 2 ulp of the exact one an SFU function returns (07_scalar R163), taken modulo their number,
by function code and argument (log 9). -/
opaque Config.sfuOffset : Nat → Word → Nat

/-- The key that slot 0 draws at a boot, by draw number (11_translation R240) (log 10). -/
opaque Config.bootKey : Nat → BitVec 512

/-- The set of a TLB that a page takes, by the number of sets, context and page address (11_translation R238 states no
index) (log 19). -/
opaque Config.tlbSet : Nat → Nat → Nat → Nat

/-- How a queue of another device of the domain answers a window access, by draw number: accepted, and the counts that it
returns (05_queues R117, R119) (log 54). -/
opaque Config.farQueue : Nat → Bool × Word

/-- How many slots of its revolution a stream command misses: open (R361, R363; log 40). -/
opaque Config.missed : Nat → Nat

/-- Where company identifiers start (04_work R88 asks only that they differ and are not 0) (log 11). -/
opaque Config.companyBase : Nat

/-- Which of several allowed choices is taken, by draw number (18_schedule R400, 11_translation R234) (log 12). -/
opaque Config.pick : Nat → Nat

/-- The body of an SPDM response that the manual takes from DMTF SPDM 1.3 (21_frames R457), by request code and
operand (log 13). -/
opaque Config.spdmBody : Nat → Nat → BitVec 384

/-- The security version fused into the device for a boot stage (21_frames R456) (log 13). -/
opaque Config.fusedVersion : Nat → Nat

/-- The fault value of a trap for which the manual states none (19_traps R402), by cause, detail and cycle (log 14). -/
opaque Config.faultValue : Nat → Nat → Nat → Dword

/-- The HBM4E stack that holds a 128-byte line (01_resources R12 gives no interleaving) (log 15). -/
opaque Config.stackOf : Nat → Nat

/-- The device whose memory a physical line is (16_engines R365 gives no map) (log 15). -/
opaque Config.deviceOf : Nat → Nat

/-- A byte that the device writes into a save pool or an overflow area (R253, R254, R418): their layout is open (log 37). -/
opaque Config.poolByte : Nat → Nat → Byte

/-- A byte of a tracked tile's own record in the history, by draw number and place (17_sketch R368 gives no layout) (log 28). -/
opaque Config.entryRecord : Nat → Nat → Byte

/-- A field of the entry that the 64 bytes of such a record give once software has stored to them (R368) (log 28). -/
opaque Config.entryField : List Byte → Nat → Nat

/-- The digest of the boot ROM, which is fused (21_frames R456) (log 13). -/
opaque Config.fusedDigest : BitVec 384

/-- The boot stage that brings up the function of a READY bit (21_frames R455, R456 name the stages and not their functions)
(log 13). -/
opaque Config.stageOf : Nat → Nat

/-- The other devices of the domain that have EN and LOCK set, by draw number (21_frames R446): no event of this device tells them
(log 38). -/
opaque Config.lockPeers : Nat → List Nat

/-- A measurement extended by a digest (21_frames R456 states no function) (log 13). -/
opaque Config.extend : BitVec 384 → BitVec 384 → BitVec 384

end Sys2Proof
end

