-- ==== Sys2Proof/Syntax.lean ====
section
/-! DEFINITION. The instruction type: one constructor for each row of the opcode table. Rows 0 to 272 are 32-bit slots
(02_words R31, R51); the others are the operations and events of 95_what_each_step_holds, which have no encoding and
carry what identifies them. The events that carry data stand first and those without stand last, for the compiler's sake. -/

namespace Sys2Proof

/-- H form header (R31, R36). -/
structure HdrF where
  stop : BitVec 1
  wait : BitVec 12
  setx : BitVec 4
  sety : BitVec 4
  len : BitVec 6
deriving DecidableEq, Repr

/-- G form guard (R31, R41). -/
structure GrdF where
  stop : BitVec 1
  pred : BitVec 3
  neg : BitVec 1
deriving DecidableEq, Repr

/-- R form with D, A, B and both K bits (R31). -/
structure RegF where
  stop : BitVec 1
  d : BitVec 6
  a : BitVec 6
  b : BitVec 6
  port : BitVec 2
  ka : BitVec 1
  kb : BitVec 1
deriving DecidableEq, Repr

/-- R form with B unused (R31, R33). -/
structure UnF where
  stop : BitVec 1
  d : BitVec 6
  a : BitVec 6
  port : BitVec 2
  ka : BitVec 1
deriving DecidableEq, Repr

/-- I form (R31). -/
structure ImmF where
  stop : BitVec 1
  d : BitVec 6
  a : BitVec 6
  imm : BitVec 9
  ka : BitVec 1
  port : BitVec 2
deriving DecidableEq, Repr

/-- L form (R31). -/
structure LongF where
  stop : BitVec 1
  d : BitVec 6
  imm : BitVec 16
deriving DecidableEq, Repr

/-- R form with only A used, no K bit. -/
structure SrcF where
  stop : BitVec 1
  a : BitVec 6
  port : BitVec 2
deriving DecidableEq, Repr

/-- R form with D and A, no K bit. -/
structure DaF where
  stop : BitVec 1
  d : BitVec 6
  a : BitVec 6
  port : BitVec 2
deriving DecidableEq, Repr

/-- R form whose D names a predicate (R33). -/
structure CmpF where
  stop : BitVec 1
  d : BitVec 3
  a : BitVec 6
  b : BitVec 6
  port : BitVec 2
  ka : BitVec 1
  kb : BitVec 1
deriving DecidableEq, Repr

/-- R form over three predicates (R155). -/
structure Pred3F where
  stop : BitVec 1
  d : BitVec 3
  a : BitVec 3
  b : BitVec 3
deriving DecidableEq, Repr

/-- R form over two predicates (R155). -/
structure Pred2F where
  stop : BitVec 1
  d : BitVec 3
  a : BitVec 3
deriving DecidableEq, Repr

/-- R form of `pset` (R155). -/
structure PsetF where
  stop : BitVec 1
  d : BitVec 3
  a : BitVec 6
  port : BitVec 2
  ka : BitVec 1
deriving DecidableEq, Repr

/-- R form with a raw byte index in B (R143). -/
structure Byte4F where
  stop : BitVec 1
  d : BitVec 6
  a : BitVec 6
  idx : BitVec 2
  port : BitVec 2
  ka : BitVec 1
deriving DecidableEq, Repr

/-- R form with a raw nibble index in B (R143). -/
structure Nib8F where
  stop : BitVec 1
  d : BitVec 6
  a : BitVec 6
  idx : BitVec 3
  port : BitVec 2
  ka : BitVec 1
deriving DecidableEq, Repr

/-- R form with B unused and KB the flag selector (R162). -/
structure SfuF where
  stop : BitVec 1
  d : BitVec 6
  a : BitVec 6
  port : BitVec 2
  ka : BitVec 1
  kb : BitVec 1
deriving DecidableEq, Repr

/-- B form with P = 7 and NEG = 0 (R74). -/
structure JumpF where
  stop : BitVec 1
  off : BitVec 18
deriving DecidableEq, Repr

/-- B form with a predicate (R74). -/
structure CondF where
  stop : BitVec 1
  pred : BitVec 3
  neg : BitVec 1
  off : BitVec 18
deriving DecidableEq, Repr

/-- a slot without operands. -/
structure StopF where
  stop : BitVec 1
deriving DecidableEq, Repr

/-- B form of `loop` (R76). -/
structure LoopF where
  stop : BitVec 1
  ctr : BitVec 3
  off : BitVec 18
deriving DecidableEq, Repr

/-- R form of `take` (R77). -/
structure TakeF where
  stop : BitVec 1
  d : BitVec 6
  pred : BitVec 3
deriving DecidableEq, Repr

/-- R form of `steal` (R77). -/
structure StealF where
  stop : BitVec 1
  d : BitVec 6
  a : BitVec 6
  pred : BitVec 3
  port : BitVec 2
deriving DecidableEq, Repr

/-- R form with D, A and B, no K bits. -/
structure DabF where
  stop : BitVec 1
  d : BitVec 6
  a : BitVec 6
  b : BitVec 6
  port : BitVec 2
deriving DecidableEq, Repr

/-- R form with only D used. -/
structure DstF where
  stop : BitVec 1
  d : BitVec 6
deriving DecidableEq, Repr

/-- R form with only a raw B (R289, R302). -/
structure RawBF where
  stop : BitVec 1
  b : BitVec 6
deriving DecidableEq, Repr

/-- R form of `scope` (R289). -/
structure ScopeF where
  stop : BitVec 1
  d : BitVec 6
  b : BitVec 6
deriving DecidableEq, Repr

/-- MEM form of LD (R224). -/
structure LdF where
  stop : BitVec 1
  ka : BitVec 1
  d : BitVec 5
  a : BitVec 6
  gb : BitVec 3
  off : BitVec 4
  port : BitVec 2
  size : BitVec 2
deriving DecidableEq, Repr

/-- MEM form of ST (R224). -/
structure StF where
  stop : BitVec 1
  d : BitVec 6
  a : BitVec 6
  gb : BitVec 3
  off : BitVec 4
  port : BitVec 2
  size : BitVec 2
deriving DecidableEq, Repr

/-- R form of RED (R317). -/
structure RedF where
  stop : BitVec 1
  a : BitVec 6
  b : BitVec 6
  port : BitVec 2
  ka : BitVec 1
  kb : BitVec 1
deriving DecidableEq, Repr

/-- R form of `osleave` (R328). -/
structure KeyF where
  stop : BitVec 1
  a : BitVec 6
  port : BitVec 2
  ka : BitVec 1
deriving DecidableEq, Repr

/-- R form of `osquery` (R328). -/
structure QueryF where
  stop : BitVec 1
  d : BitVec 6
  a : BitVec 6
  idx : BitVec 1
  port : BitVec 2
  ka : BitVec 1
deriving DecidableEq, Repr

/-- R form of the CPY transfers (R342). -/
structure CpyF where
  stop : BitVec 1
  d : BitVec 6
  a : BitVec 6
  b : BitVec 6
  port : BitVec 2
  tagHi : BitVec 1
  tagLo : BitVec 1
deriving DecidableEq, Repr

/-- R form of `waittag` (R347). -/
structure TagF where
  stop : BitVec 1
  tag : BitVec 2
deriving DecidableEq, Repr

/-- R form of `tagcnt` (R347). -/
structure TagDF where
  stop : BitVec 1
  d : BitVec 6
  tag : BitVec 2
deriving DecidableEq, Repr

/-- R form of `enq` (R348). -/
structure EnqF where
  stop : BitVec 1
  d : BitVec 6
  a : BitVec 5
  engine : BitVec 3
  port : BitVec 2
  ka : BitVec 1
deriving DecidableEq, Repr

/-- R form of `enqstat` (R348). -/
structure EngF where
  stop : BitVec 1
  d : BitVec 6
  engine : BitVec 3
deriving DecidableEq, Repr

/-- V form of the vector arithmetic (R172). -/
structure VarF where
  stop : BitVec 1
  d : BitVec 5
  a : BitVec 5
  b : BitVec 5
  vp : BitVec 1
  sub : BitVec 5
deriving DecidableEq, Repr

/-- V form with VB and SUB unused (R173). -/
structure VunF where
  stop : BitVec 1
  d : BitVec 5
  a : BitVec 5
  vp : BitVec 1
deriving DecidableEq, Repr

/-- V form with all of SUB (R174, R178). -/
structure VsubF where
  stop : BitVec 1
  d : BitVec 5
  a : BitVec 5
  b : BitVec 5
  vp : BitVec 1
  sub : BitVec 6
deriving DecidableEq, Repr

/-- V form of `vred` (R177). -/
structure VredF where
  stop : BitVec 1
  d : BitVec 5
  a : BitVec 5
  vp : BitVec 1
  sub : BitVec 6
deriving DecidableEq, Repr

/-- V form with VD and VA only. -/
structure VdaF where
  stop : BitVec 1
  d : BitVec 5
  a : BitVec 5
deriving DecidableEq, Repr

/-- V form with VD, VA, VB and VP. -/
structure VdabvF where
  stop : BitVec 1
  d : BitVec 5
  a : BitVec 5
  b : BitVec 5
  vp : BitVec 1
deriving DecidableEq, Repr

/-- V form of `vscan` (R178). -/
structure VscanF where
  stop : BitVec 1
  d : BitVec 5
  a : BitVec 5
  vp : BitVec 1
  sub : BitVec 4
deriving DecidableEq, Repr

/-- V form with VD, VA and VB. -/
structure VdabF where
  stop : BitVec 1
  d : BitVec 5
  a : BitVec 5
  b : BitVec 5
deriving DecidableEq, Repr

/-- V form with an index register in SUB (R179). -/
structure VidxF where
  stop : BitVec 1
  d : BitVec 5
  a : BitVec 5
  b : BitVec 5
  vp : BitVec 1
  idx : BitVec 5
deriving DecidableEq, Repr

/-- V form of `mload` (R197). -/
structure MloadF where
  stop : BitVec 1
  bank : BitVec 1
  a : BitVec 5
  b : BitVec 5
  sety : BitVec 1
  a17 : BitVec 1
deriving DecidableEq, Repr

/-- V form of `mpass` and `mjoin` (R197). -/
structure MpassF where
  stop : BitVec 1
  acc : BitVec 3
  a : BitVec 5
  b : BitVec 5
  sety : BitVec 1
  zero : BitVec 1
deriving DecidableEq, Repr

/-- V form of `mdrain` (R197, R202). -/
structure MdrainF where
  stop : BitVec 1
  d : BitVec 5
  acc : BitVec 3
  b : BitVec 5
  sety : BitVec 1
  clr : BitVec 1
  fmt : BitVec 2
deriving DecidableEq, Repr

/-- V form naming an accumulator (R197). -/
structure AccF where
  stop : BitVec 1
  acc : BitVec 3
deriving DecidableEq, Repr

/-- V form naming a bank (R197). -/
structure BankF where
  stop : BitVec 1
  bank : BitVec 1
deriving DecidableEq, Repr

/-- V form with VA only (R197). -/
structure VaF where
  stop : BitVec 1
  a : BitVec 5
deriving DecidableEq, Repr

/-- V form of `tplane` (R208). -/
structure TplaneF where
  stop : BitVec 1
  d : BitVec 5
  a : BitVec 5
  b : BitVec 5
  weight : BitVec 1
deriving DecidableEq, Repr

/-- V form of `tunplane` (R208). -/
structure TunF where
  stop : BitVec 1
  d : BitVec 5
  a : BitVec 5
  b : BitVec 5
  tf : BitVec 2
deriving DecidableEq, Repr

/-- V form of `trot` (R208). -/
structure TrotF where
  stop : BitVec 1
  d : BitVec 5
  a : BitVec 5
  b : BitVec 5
  inv : BitVec 1
deriving DecidableEq, Repr

/-- V form of `ttrans` (R208). -/
structure TtransF where
  stop : BitVec 1
  d : BitVec 5
  a : BitVec 5
  b : BitVec 5
  half : BitVec 1
deriving DecidableEq, Repr

/-- V form of `xfmt` (R141). -/
structure XfmtF where
  stop : BitVec 1
  d : BitVec 5
  a : BitVec 5
  mask : BitVec 5
deriving DecidableEq, Repr

/-- R form of `trap` (R425). -/
structure TrapF where
  stop : BitVec 1
  a : BitVec 6
  code : BitVec 6
  port : BitVec 2
  ka : BitVec 1
deriving DecidableEq, Repr

/-- R form of `resolve` (R425). -/
structure ResolveF where
  stop : BitVec 1
  how : BitVec 2
  a : BitVec 6
  b : BitVec 6
  port : BitVec 2
  ka : BitVec 1
  kb : BitVec 1
deriving DecidableEq, Repr

/-- R form of `xrd` (R425). -/
structure XrdF where
  stop : BitVec 1
  d : BitVec 6
  hi : BitVec 6
  lo : BitVec 6
deriving DecidableEq, Repr

/-- R form of `xwr` (R425). -/
structure XwrF where
  stop : BitVec 1
  d : BitVec 6
  hi : BitVec 6
  lo : BitVec 6
  port : BitVec 2
deriving DecidableEq, Repr

/-- What arrives at a reserved queue position (R97, R229): a word, or an error mark with its cause and address. -/
inductive FillVal where
  | word (v : BitVec 32)
  | error (cause : Nat) (ea : BitVec 64)
deriving DecidableEq, Repr

/-- One reserved position of one thread and what fills it. -/
structure Fill where
  thread : Nat
  queue : Nat
  id : Nat
  val : FillVal
deriving DecidableEq, Repr

/-- The results of one long-latency slot that arrive together (R39, R97, R104). `op` is the slot's outstanding
operation; `last` says that its completion flag falls. -/
structure Arrival where
  troupe : Nat
  gen : Nat
  op : Nat
  fills : List Fill
  gdst : Option (Nat × BitVec 64)
  fp : BitVec 5
  last : Bool
  /-- The result of the entry at the head of the troupe's replay list, which leaves the list with it (R247). -/
  replayed : Bool := false
deriving DecidableEq, Repr

/-- A VMEM operation under way: the number of its operation (R39), and the vector registers that it names (R112). -/
structure VmemOp where
  op : Nat
  regs : List Nat
deriving DecidableEq, Repr

/-- A remote `semarr` on its way (R312). -/
structure RemoteArr where
  troupe : Nat
  comp : Nat
  linear : Nat
  index : Nat
  bytes : Nat
deriving DecidableEq, Repr

/-- A window push (R116, R117): requester's context, window address, one or two words, generation carried; and who pushed:
the thread of a troupe under a generation, with its ensemble, or an engine command with an identifier. -/
structure PushReq where
  ctx : Nat
  addr : Nat
  words : List (BitVec 32)
  gen : Nat
  source : Option (Nat × Nat × Nat) := none
  ens : Option Nat := none
  cmd : Option Nat := none
deriving DecidableEq, Repr

/-- A window load or scratch-window access (R119, R231). A load fills position `id` of the requester's queue. -/
structure WinReq where
  ctx : Nat
  addr : Nat
  store : Bool
  size : Nat
  data : BitVec 64
  troupe : Nat
  thread : Nat
  queue : Nat
  id : Nat
deriving DecidableEq, Repr

/-- A per-thread transfer that has issued (R343, R345): addresses as the slot formed them, and as they were translated. -/
structure CopyOp where
  troupe : Nat
  gen : Nat
  op : Nat
  ens : Nat
  threads : List Nat
  tag : Nat
  toScratch : Bool
  ga : BitVec 64
  sa : BitVec 64
  pa : Nat
  key : Nat
  off : Nat
  size : Nat
  count : Nat
  /-- The page mode of the mapping of `ga` (R264). -/
  pmode : Bool := false
  /-- The transfer of the entry at the head of the troupe's replay list (R247). -/
  replayed : Bool := false
deriving DecidableEq, Repr

/-- What another device posts to a collective (R366). -/
structure Peer where
  device : Nat
  op : Nat
  ty : Nat
  red : Nat
  group : Nat
  seq : BitVec 32
  count : Nat
  data : List (BitVec 32)
deriving DecidableEq, Repr

/-- A boot image as its verifier sees it (R456). -/
structure BootImage where
  rsaOk : Bool
  slhOk : Bool
  version : Nat
  digest : BitVec 384
deriving DecidableEq, Repr

/-- What KEY_SLOT_LOAD carries: the slot and its 512-bit key (R240, R457). -/
structure KeyLoad where
  slot : Nat
  key : BitVec 512
deriving DecidableEq, Repr

/-- What a write to a register block carries: the low n bytes of v (R6). -/
structure RegData where
  v : BitVec 64
  n : Nat := 8
deriving DecidableEq, Repr

/-- The instruction set: every row of the opcode table. -/
inductive Instr where
  /-- BUNDLE_REENTRY (R69): A held or split bundle re-enters at its resume slot once its hold ends or its origins are resolved. -/
  | bundleReentry (troupe : Nat)
  /-- WAIT_END (R92): A troupe waiting in its own instruction (semaphore, barrier, section, cwait, sleepto and the like) is released when its condition holds. -/
  | waitEnd (troupe : Nat)
  /-- RESULT_ARRIVAL (R97): A long-latency result arrives, fills its reserved position (or is discarded for its generation) and decrements its flag. -/
  | resultArrival (a : Arrival)
  /-- PAGE_WALK_COMPLETE (R239): A page walk ends, fills the TLBs and serves the misses waiting on it. -/
  | pageWalkComplete (core ctx va : Nat)
  /-- REPLAY (R247): A woken troupe translates and performs its replay entries in order, then resumes. -/
  | replay (troupe : Nat)
  /-- ENSEMBLE_SWAP_OUT (R253): A chosen ensemble drains, makes barrier shells and is saved to the save pool. -/
  | ensembleSwapOut (ens : Nat)
  /-- READMISSION (R259): An eligible swapped-out ensemble is restored to a tile and replays its snapshot, matrix and replay entries. -/
  | readmission (ens : Nat)
  /-- SHELL_ARRIVAL (R256): An arrival reaches a barrier shell and may complete a phase there. -/
  | shellArrival (ens bar : Nat)
  /-- FORWARDED_ARRIVAL (R306): A member barrier's arrival is counted at its home. -/
  | forwardedArrival (ens bar : Nat)
  /-- BARRIER_RELEASE (R306): A home's phase completion reaches a member, which advances its PHASES. -/
  | barrierRelease (ens bar : Nat)
  /-- REMOTE_ARRIVAL (R312): A remote semarr reaches the target semaphore and returns a reply. -/
  | remoteArrival (r : RemoteArr)
  /-- WINDOW_PUSH (R117): A queue-window store reaches its target queue and is accepted, held, discarded or refused. -/
  | windowPush (p : PushReq)
  /-- HELD_PUSH_ENTRY (R118): A window push held at a full queue enters once pops free room. -/
  | heldPushEntry (core : Nat)
  /-- WINDOW_LOAD (R119): A queue-window load returns the queue counts. -/
  | windowLoad (w : WinReq)
  /-- SCRATCH_WINDOW_ACCESS (R231): A scratch-window access reaches the target tile and is accepted or refused. -/
  | scratchWindowAccess (w : WinReq)
  /-- PARTIAL_FLUSH (R319): A reduction partial goes to the home after 64 cycles or on another trigger. -/
  | partialFlush (unit : Nat)
  /-- COPY_PERFORM (R346): A per-thread transfer performs or fails, its tag counter falls and ERR is recorded. -/
  | copyPerform (c : CopyOp)
  /-- VMEM_COMPLETE (R168): A VMEM op completes 11 + Rw cycles after issue and releases its flag. -/
  | vmemComplete (troupe : Nat) (op : VmemOp)
  /-- PLANE_COMPLETE (R206): A plane operation completes 8·R cycles after issue. -/
  | planeComplete (troupe : Nat)
  /-- MATRIX_GRANT (R191): The arbiter grants the eligible head operation of an ensemble, passes by priority. -/
  | matrixGrant (unit : Nat)
  /-- GRANT_PRIORITY_RISE (R191): After 4,096 cycles of eligible waiting, a pass's priority rises to 8. -/
  | grantPriorityRise (unit op : Nat)
  /-- MATRIX_OP_COMPLETE (R185): A granted pass, load, drain or zero finishes its writes; faults set the latch. -/
  | matrixOpComplete (unit op : Nat)
  /-- TILE_COPY (R353): Tile copier command: copy rows between spaces, optionally on a static stream. -/
  | tileCopy (core : Nat)
  /-- DIE_COPY (R353): Die copier command: copy rows between any spaces. -/
  | dieCopy (core : Nat)
  /-- BRIDGE_STREAM (R361): Bridge streamer command: send a guide tile in reserved or free bridge slots. -/
  | bridgeStream (core : Nat)
  /-- ALL_REDUCE (R366): Collective all-reduce in a fixed tree across devices. -/
  | allReduce (core : Nat) (peers : List Peer)
  /-- BROADCAST (R366): Collective broadcast from ROOT. -/
  | broadcast (core : Nat) (peers : List Peer)
  /-- ALL_GATHER (R366): Collective all-gather. -/
  | allGather (core : Nat) (peers : List Peer)
  /-- REDUCE_SCATTER (R366): Collective reduce-scatter. -/
  | reduceScatter (core : Nat) (peers : List Peer)
  /-- COMPARE (R379): Proof-engine compare of a real tile against the sketch, then decide and post. -/
  | compare (core : Nat)
  /-- SQUASH_RESTART (R381): A squashed troupe, once the predicted version is posted, copies it in and resumes non-speculative. -/
  | squashRestart (troupe : Nat)
  /-- PRESENT (R451): Frame-presenter command that copies a frame image for scan-out. -/
  | present (core : Nat)
  /-- COMMAND_COMPLETION (R354): An engine command completes, makes its semaphore delivery and writes its done record. -/
  | commandCompletion (core engine : Nat)
  /-- PROMISE_BROKEN (R358): A command not complete by its promised cycle breaks its promise, to be raised as PROMISE_LATE. -/
  | promiseBroken (core engine cmd : Nat)
  /-- ASYNCHRONOUS_TRAP (R407): A trap raised at a bundle issue, before any slot: PROMISE_LATE, a failed store, or a bad edited entry. -/
  | asynchronousTrap (troupe : Nat)
  /-- ORIGIN_ARRIVAL (R409): Faulting threads reach the handler collector when the bundle's occupancy ends. -/
  | originArrival (troupe : Nat)
  /-- HANDLER_LAUNCH (R410): A handler slot launches a handler troupe at 16 origins or 2 µs after its oldest. -/
  | handlerLaunch (core : Nat)
  /-- ENSEMBLE_ADMISSION (R85): A waiting ensemble is admitted whole onto a unit and its troupes are placed. -/
  | ensembleAdmission (comp : Nat)
  /-- ADMISSION_HOLD (R400): After the top-ranked ensemble has waited 100 µs, lower-ranked ones are held back. -/
  | admissionHold (part : Nat)
  /-- SEGMENT_EXPANSION (R393): A core expands a kernel segment into a segment frame for a troupe that needs it. -/
  | segmentExpansion (core ctx text seg : Nat)
  /-- ENSEMBLE_RETIREMENT (R87): An ensemble retires when all its troupes have exited and their work has performed. -/
  | ensembleRetirement (ens : Nat)
  /-- COMPANY_RETIREMENT (R89): A company retires and writes its completion status. -/
  | companyRetirement (comp : Nat)
  /-- SEQUENCER_PASS (R388): The sequencer passes over a partition's queue state blocks, taking at most one packet from each. -/
  | sequencerPass (part : Nat)
  /-- TAIL_REPORT (R387): A home slice reports a TAIL store to the sequencer, making packets visible. -/
  | tailReport (block : Nat)
  /-- PARTITION_SWAP (R417): A new CTX written to a running partition record stops, saves and exchanges the partition's contexts. -/
  | partitionSwap (part : Nat)
  /-- LOCK_MEASUREMENT (R446): A per-frame measurement of the offset from the lock master. -/
  | lockMeasurement (master : Nat) (skew : BitVec 32)
  /-- STEP_RELEASE (R398): The sequencer writes CUE and releases a timetable step, recording a slip if late. -/
  | stepRelease (comp : Nat)
  /-- STEP_COMPLETION (R398): A step completes when barrier 0 of every ensemble completes its phase. -/
  | stepCompletion (comp : Nat)
  /-- DEADLINE_MISS (R449): At tick DEADLINE, a timetable whose last step has not completed misses the frame. -/
  | deadlineMiss (comp : Nat)
  /-- POWER_THROTTLE (R454): The power manager holds matrix grants and VEC acceptance to stay within its limits. -/
  | powerThrottle (vec : Bool) (until_ : Nat)
  /-- BOOT_STAGE (R456): A boot stage verifies, measures and runs the next stage, or stays in recovery. -/
  | bootStage (index : Nat) (image : BootImage)
  /-- FUNCTION_READY (R455): A function reports ready in its READY bit. -/
  | functionReady (bit : Nat)
  /-- GET_CERTIFICATE (R457): SPDM GET_CERTIFICATE request. -/
  | getCertificate (slot : Nat)
  /-- CHALLENGE (R457): SPDM CHALLENGE request. -/
  | challenge (nonce : BitVec 256)
  /-- GET_MEASUREMENTS (R457): SPDM GET_MEASUREMENTS request returning boot measurement blocks 0–5. -/
  | getMeasurements (block : Nat)
  /-- KEY_EXCHANGE (R457): SPDM KEY_EXCHANGE request establishing a session. -/
  | keyExchange (session : BitVec 32)
  /-- FINISH (R457): SPDM FINISH request. -/
  | finish (session : BitVec 32)
  /-- END_SESSION (R457): SPDM END_SESSION request. -/
  | endSession (session : BitVec 32)
  /-- KEY_SLOT_LOAD (R457): In-session command that loads a key slot after writing back its lines. -/
  | keySlotLoad (session : BitVec 32) (load : KeyLoad)
  /-- KEY_SLOT_CLEAR (R457): In-session command that clears a key slot after writing back its lines. -/
  | keySlotClear (session : BitVec 32) (slot : Nat)
  /-- DEVICE_DRAIN (R453): The management controller drains a device from the domain before removal. -/
  | deviceDrain (device : Nat)
  /-- DEVICE_JOIN (R453): A device joins the domain and takes its number from fabric training. -/
  | deviceJoin (device : Nat)
  /-- PFRING_WRITE (R246): A write of pfring configures the ring and writes the held fault records. -/
  | pfringWrite (ctx : Nat) (v : BitVec 64)
  /-- PFHEAD_WRITE (R246): A write of PHEAD, clamped to PTAIL, frees ring room for held records. -/
  | pfheadWrite (ctx : Nat) (v : BitVec 64)
  /-- SCOPE_TABLE_WRITE (R283): A write to the scope-table window completes when every core of the partition holds it. -/
  | scopeTableWrite (ctx entry word : Nat) (v : BitVec 64)
  /-- REGISTER_WRITE (R6): A write of n bytes at a physical address of a register with no row of its own, under its access
  codes. -/
  | registerWrite (pa : Nat) (data : RegData)
  /-- FIRMWARE_UPDATE (R456): While in recovery after a failed boot check, the management controller accepts a firmware update over its port. -/
  | firmwareUpdate (index : Nat) (image : BootImage)
  /-- .clause (R37). -/
  | clause (x : HdrF)
  /-- (pN) (R41). -/
  | guard (x : GrdF)
  /-- add (R148). -/
  | add (x : RegF)
  /-- sub (R148). -/
  | sub (x : RegF)
  /-- and (R148). -/
  | andB (x : RegF)
  /-- or (R148). -/
  | orB (x : RegF)
  /-- xor (R148). -/
  | xorB (x : RegF)
  /-- andn (R148). -/
  | andn (x : RegF)
  /-- shl (R149). -/
  | shl (x : RegF)
  /-- shr (R149). -/
  | shr (x : RegF)
  /-- sar (R149). -/
  | sar (x : RegF)
  /-- min.i32 (R148). -/
  | minI32 (x : RegF)
  /-- max.i32 (R148). -/
  | maxI32 (x : RegF)
  /-- min.n32 (R148). -/
  | minN32 (x : RegF)
  /-- max.n32 (R148). -/
  | maxN32 (x : RegF)
  /-- abs.i32 (R148). -/
  | absI32 (x : UnF)
  /-- mad (R148). -/
  | mad (x : RegF)
  /-- mul (R150). -/
  | mul (x : RegF)
  /-- mulh.i32 (R150). -/
  | mulhI32 (x : RegF)
  /-- mulh.n32 (R150). -/
  | mulhN32 (x : RegF)
  /-- div.i32 (R151). -/
  | divI32 (x : RegF)
  /-- div.n32 (R151). -/
  | divN32 (x : RegF)
  /-- rem.i32 (R151). -/
  | remI32 (x : RegF)
  /-- rem.n32 (R151). -/
  | remN32 (x : RegF)
  /-- popc (R150). -/
  | popc (x : UnF)
  /-- clz (R150). -/
  | clz (x : UnF)
  /-- brev (R150). -/
  | brev (x : UnF)
  /-- bfe.n32 (R152). -/
  | bfeN32 (x : RegF)
  /-- bfe.i32 (R152). -/
  | bfeI32 (x : RegF)
  /-- bfi (R152). -/
  | bfi (x : RegF)
  /-- addsat.i32 (R150). -/
  | addsatI32 (x : RegF)
  /-- subsat.i32 (R150). -/
  | subsatI32 (x : RegF)
  /-- addi (R153). -/
  | addi (x : ImmF)
  /-- andi (R153). -/
  | andi (x : ImmF)
  /-- ori (R153). -/
  | ori (x : ImmF)
  /-- xori (R153). -/
  | xori (x : ImmF)
  /-- shli (R153). -/
  | shli (x : ImmF)
  /-- shri (R153). -/
  | shri (x : ImmF)
  /-- sari (R153). -/
  | sari (x : ImmF)
  /-- muli (R153). -/
  | muli (x : ImmF)
  /-- movi (R109). -/
  | movi (x : LongF)
  /-- movh (R109). -/
  | movh (x : LongF)
  /-- mov (R109). -/
  | mov (x : UnF)
  /-- mov (R109). -/
  | movPair (x : RegF)
  /-- drop (R109). -/
  | drop (x : SrcF)
  /-- dup (R109). -/
  | dup (x : UnF)
  /-- qcnt (R109). -/
  | qcnt (x : DaF)
  /-- qclr (R109). -/
  | qclr (x : SrcF)
  /-- eq (R154). -/
  | eq (x : CmpF)
  /-- ne (R154). -/
  | ne (x : CmpF)
  /-- lt.i32 (R154). -/
  | ltI32 (x : CmpF)
  /-- le.i32 (R154). -/
  | leI32 (x : CmpF)
  /-- lt.n32 (R154). -/
  | ltN32 (x : CmpF)
  /-- le.n32 (R154). -/
  | leN32 (x : CmpF)
  /-- feq (R154). -/
  | feq (x : CmpF)
  /-- flt (R154). -/
  | flt (x : CmpF)
  /-- fle (R154). -/
  | fle (x : CmpF)
  /-- fun (R154). -/
  | funF (x : CmpF)
  /-- pand (R155). -/
  | pand (x : Pred3F)
  /-- por (R155). -/
  | por (x : Pred3F)
  /-- pxor (R155). -/
  | pxor (x : Pred3F)
  /-- pnot (R155). -/
  | pnot (x : Pred2F)
  /-- pset (R155). -/
  | pset (x : PsetF)
  /-- pvote (R155). -/
  | pvote (x : Pred2F)
  /-- fadd (R159). -/
  | fadd (x : RegF)
  /-- fsub (R159). -/
  | fsub (x : RegF)
  /-- fmul (R159). -/
  | fmul (x : RegF)
  /-- ffma (R159). -/
  | ffma (x : RegF)
  /-- fmin (R160). -/
  | fmin (x : RegF)
  /-- fmax (R160). -/
  | fmax (x : RegF)
  /-- fabs (R159). -/
  | fabs (x : UnF)
  /-- fneg (R159). -/
  | fneg (x : UnF)
  /-- fcopysign (R159). -/
  | fcopysign (x : RegF)
  /-- ffloor (R159). -/
  | ffloor (x : UnF)
  /-- fceil (R159). -/
  | fceil (x : UnF)
  /-- ftrunc (R159). -/
  | ftrunc (x : UnF)
  /-- frint (R159). -/
  | frint (x : UnF)
  /-- fsat (R159). -/
  | fsat (x : UnF)
  /-- hadd.f16x2 (R161). -/
  | haddF16x2 (x : RegF)
  /-- hmul.f16x2 (R161). -/
  | hmulF16x2 (x : RegF)
  /-- hfma.f16x2 (R161). -/
  | hfmaF16x2 (x : RegF)
  /-- hmin.f16x2 (R161). -/
  | hminF16x2 (x : RegF)
  /-- hmax.f16x2 (R161). -/
  | hmaxF16x2 (x : RegF)
  /-- hadd.bf16x2 (R161). -/
  | haddBf16x2 (x : RegF)
  /-- hmul.bf16x2 (R161). -/
  | hmulBf16x2 (x : RegF)
  /-- hfma.bf16x2 (R161). -/
  | hfmaBf16x2 (x : RegF)
  /-- hmin.bf16x2 (R161). -/
  | hminBf16x2 (x : RegF)
  /-- hmax.bf16x2 (R161). -/
  | hmaxBf16x2 (x : RegF)
  /-- cvt.f32.i32 (R143). -/
  | cvtF32I32 (x : UnF)
  /-- cvt.f32.n32 (R143). -/
  | cvtF32N32 (x : UnF)
  /-- cvt.i32.f32 (R143). -/
  | cvtI32F32 (x : UnF)
  /-- cvt.n32.f32 (R143). -/
  | cvtN32F32 (x : UnF)
  /-- cvt.i32.f32.rz (R143). -/
  | cvtI32F32Rz (x : UnF)
  /-- cvt.f16x2.f32 (R143). -/
  | cvtF16x2F32 (x : RegF)
  /-- cvt.bf16x2.f32 (R143). -/
  | cvtBf16x2F32 (x : RegF)
  /-- cvt.f32.f16 (R143). -/
  | cvtF32F16 (x : UnF)
  /-- cvt.f32.f16h (R143). -/
  | cvtF32F16h (x : UnF)
  /-- cvt.f32.bf16 (R143). -/
  | cvtF32Bf16 (x : UnF)
  /-- cvt.f32.bf16h (R143). -/
  | cvtF32Bf16h (x : UnF)
  /-- cvt.f32.e4m3 (R143). -/
  | cvtF32E4m3 (x : Byte4F)
  /-- cvt.f32.e5m2 (R143). -/
  | cvtF32E5m2 (x : Byte4F)
  /-- cvt.f32.e2m1 (R143). -/
  | cvtF32E2m1 (x : Nib8F)
  /-- cvt.e4m3.f32 (R143). -/
  | cvtE4m3F32 (x : UnF)
  /-- cvt.e5m2.f32 (R143). -/
  | cvtE5m2F32 (x : UnF)
  /-- rcp (R164). -/
  | rcp (x : SfuF)
  /-- rsqrt (R164). -/
  | rsqrt (x : SfuF)
  /-- sqrt (R164). -/
  | sqrt (x : SfuF)
  /-- exp2 (R164). -/
  | exp2 (x : SfuF)
  /-- log2 (R164). -/
  | log2 (x : SfuF)
  /-- sin (R164). -/
  | sin (x : SfuF)
  /-- cos (R164). -/
  | cos (x : SfuF)
  /-- tanh (R164). -/
  | tanh (x : SfuF)
  /-- sigm (R164). -/
  | sigm (x : SfuF)
  /-- div.f32 (R164). -/
  | divF32 (x : RegF)
  /-- br (R74). -/
  | br (x : JumpF)
  /-- bpa (R74). -/
  | bpa (x : CondF)
  /-- bpn (R74). -/
  | bpn (x : CondF)
  /-- bif (R73). -/
  | bif (x : CondF)
  /-- belse (R73). -/
  | belse (x : JumpF)
  /-- bjoin (R73). -/
  | bjoin (x : StopF)
  /-- call (R75). -/
  | call (x : JumpF)
  /-- ret (R75). -/
  | ret (x : StopF)
  /-- brx (R75). -/
  | brx (x : SrcF)
  /-- loop (R76). -/
  | loopG (x : LoopF)
  /-- fork (R80). -/
  | fork (x : SrcF)
  /-- take (R81). -/
  | takeT (x : TakeF)
  /-- steal (R82). -/
  | steal (x : StealF)
  /-- dqconf (R79). -/
  | dqconf (x : DabF)
  /-- dqcount (R83). -/
  | dqcount (x : DstF)
  /-- launch (R88). -/
  | launch (x : DaF)
  /-- cwait (R90). -/
  | cwait (x : DaF)
  /-- exit (R86). -/
  | exitT (x : StopF)
  /-- yield (R95). -/
  | yield (x : StopF)
  /-- vclaim (R112). -/
  | vclaim (x : DaF)
  /-- vgive (R112). -/
  | vgive (x : DaF)
  /-- role (R115). -/
  | role (x : DaF)
  /-- bar.arrive (R303). -/
  | barArrive (x : RawBF)
  /-- bar.wait (R303). -/
  | barWait (x : RawBF)
  /-- bar.sync (R303). -/
  | barSync (x : RawBF)
  /-- bar.link (R305). -/
  | barLink (x : DabF)
  /-- fence.acq (R290). -/
  | fenceAcq (x : RawBF)
  /-- fence.rel (R290). -/
  | fenceRel (x : RawBF)
  /-- fence.ar (R290). -/
  | fenceAr (x : RawBF)
  /-- mark (R281). -/
  | mark (x : StopF)
  /-- scope (R290). -/
  | scope (x : ScopeF)
  /-- bar.count (R304). -/
  | barCount (x : DabF)
  /-- ld.s (R227). -/
  | ldS (x : LdF)
  /-- ld.g (R227). -/
  | ldG (x : LdF)
  /-- ld.g.acq (R227). -/
  | ldGAcq (x : LdF)
  /-- ld.g.nc (R227). -/
  | ldGNc (x : LdF)
  /-- ld.w (R231). -/
  | ldW (x : LdF)
  /-- st.s (R227). -/
  | stS (x : StF)
  /-- st.g (R227). -/
  | stG (x : StF)
  /-- st.g.rel (R285). -/
  | stGRel (x : StF)
  /-- st.g.nc (R227). -/
  | stGNc (x : StF)
  /-- st.w (R231). -/
  | stW (x : StF)
  /-- atom.add (R314). -/
  | atomAdd (x : RegF)
  /-- atom.min.i32 (R314). -/
  | atomMinI32 (x : RegF)
  /-- atom.max.i32 (R314). -/
  | atomMaxI32 (x : RegF)
  /-- atom.min.n32 (R314). -/
  | atomMinN32 (x : RegF)
  /-- atom.max.n32 (R314). -/
  | atomMaxN32 (x : RegF)
  /-- atom.and (R314). -/
  | atomAnd (x : RegF)
  /-- atom.or (R314). -/
  | atomOr (x : RegF)
  /-- atom.xor (R314). -/
  | atomXor (x : RegF)
  /-- atom.xchg (R314). -/
  | atomXchg (x : RegF)
  /-- atom.cas (R314). -/
  | atomCas (x : RegF)
  /-- atom.fadd.f32 (R314). -/
  | atomFaddF32 (x : RegF)
  /-- atom.incw (R314). -/
  | atomIncw (x : RegF)
  /-- red.add (R317). -/
  | redAdd (x : RedF)
  /-- red.min.i32 (R317). -/
  | redMinI32 (x : RedF)
  /-- red.max.i32 (R317). -/
  | redMaxI32 (x : RedF)
  /-- red.min.n32 (R317). -/
  | redMinN32 (x : RedF)
  /-- red.max.n32 (R317). -/
  | redMaxN32 (x : RedF)
  /-- red.and (R317). -/
  | redAnd (x : RedF)
  /-- red.or (R317). -/
  | redOr (x : RedF)
  /-- red.xor (R317). -/
  | redXor (x : RedF)
  /-- red.fadd.f32 (R317). -/
  | redFaddF32 (x : RedF)
  /-- red.fadd.bf16x2 (R317). -/
  | redFaddBf16x2 (x : RedF)
  /-- osinit (R334). -/
  | osinit (x : RegF)
  /-- osenter (R330). -/
  | osenter (x : CmpF)
  /-- ostry (R331). -/
  | ostry (x : RegF)
  /-- osleave (R332). -/
  | osleave (x : KeyF)
  /-- osquery (R335). -/
  | osquery (x : QueryF)
  /-- osdrop (R334). -/
  | osdrop (x : UnF)
  /-- cpy.g2s.4 (R343). -/
  | cpyG2s4 (x : CpyF)
  /-- cpy.g2s.8 (R343). -/
  | cpyG2s8 (x : CpyF)
  /-- cpy.g2s.16 (R343). -/
  | cpyG2s16 (x : CpyF)
  /-- cpy.g2s.32 (R343). -/
  | cpyG2s32 (x : CpyF)
  /-- cpy.s2g.4 (R343). -/
  | cpyS2g4 (x : CpyF)
  /-- cpy.s2g.8 (R343). -/
  | cpyS2g8 (x : CpyF)
  /-- cpy.s2g.16 (R343). -/
  | cpyS2g16 (x : CpyF)
  /-- cpy.s2g.32 (R343). -/
  | cpyS2g32 (x : CpyF)
  /-- waittag (R347). -/
  | waittag (x : TagF)
  /-- tagcnt (R347). -/
  | tagcnt (x : TagDF)
  /-- enq (R349). -/
  | enq (x : EnqF)
  /-- sleepto (R357). -/
  | sleepto (x : UnF)
  /-- enqstat (R359). -/
  | enqstat (x : EngF)
  /-- seminit (R311). -/
  | seminit (x : DaF)
  /-- semarm (R311). -/
  | semarm (x : DabF)
  /-- semexp (R311). -/
  | semexp (x : DabF)
  /-- semarr (R312). -/
  | semarr (x : DabF)
  /-- semwait (R313). -/
  | semwait (x : DaF)
  /-- semtest (R311). -/
  | semtest (x : DaF)
  /-- vadd (R172). -/
  | vadd (x : VarF)
  /-- vsub (R172). -/
  | vsub (x : VarF)
  /-- vmul (R172). -/
  | vmul (x : VarF)
  /-- vfma (R172). -/
  | vfma (x : VarF)
  /-- vmax (R172). -/
  | vmax (x : VarF)
  /-- vmin (R172). -/
  | vmin (x : VarF)
  /-- vexp2 (R173). -/
  | vexp2 (x : VunF)
  /-- vrcp (R173). -/
  | vrcp (x : VunF)
  /-- vrsq (R173). -/
  | vrsq (x : VunF)
  /-- vtanh (R173). -/
  | vtanh (x : VunF)
  /-- vcvt (R174). -/
  | vcvt (x : VsubF)
  /-- vred (R177). -/
  | vred (x : VredF)
  /-- vbcast (R178). -/
  | vbcast (x : VdaF)
  /-- vbcast (R178). -/
  | vbcastElement (x : VdabvF)
  /-- vsel (R178). -/
  | vsel (x : VsubF)
  /-- vperm (R178). -/
  | vperm (x : VdabvF)
  /-- vscan (R178). -/
  | vscan (x : VscanF)
  /-- vld (R179). -/
  | vld (x : VdabF)
  /-- vst (R179). -/
  | vst (x : VdabF)
  /-- vld.str (R179). -/
  | vldStr (x : VdabF)
  /-- vst.str (R179). -/
  | vstStr (x : VdabF)
  /-- vgath (R179). -/
  | vgath (x : VidxF)
  /-- vscat (R179). -/
  | vscat (x : VidxF)
  /-- mload (R200). -/
  | mload (x : MloadF)
  /-- mpass (R201). -/
  | mpass (x : MpassF)
  /-- mjoin (R201). -/
  | mjoin (x : MpassF)
  /-- mdrain (R202). -/
  | mdrain (x : MdrainF)
  /-- mzero (R202). -/
  | mzero (x : AccF)
  /-- mswap (R192). -/
  | mswap (x : BankF)
  /-- mengage (R203). -/
  | mengage (x : VdaF)
  /-- mfree (R203). -/
  | mfree (x : BankF)
  /-- mfence (R193). -/
  | mfence (x : VaF)
  /-- mwait (R204). -/
  | mwait (x : VdaF)
  /-- tplane (R210). -/
  | tplane (x : TplaneF)
  /-- tunplane (R211). -/
  | tunplane (x : TunF)
  /-- trot (R212). -/
  | trot (x : TrotF)
  /-- tquant (R213). -/
  | tquant (x : VdabF)
  /-- tdequant (R211). -/
  | tdequant (x : VdabF)
  /-- twin (R215). -/
  | twin (x : VdabF)
  /-- ttrans (R214). -/
  | ttrans (x : TtransF)
  /-- xfmt (R141). -/
  | xfmt (x : XfmtF)
  /-- sktrack (R371). -/
  | sktrack (x : DabF)
  /-- skread (R373). -/
  | skread (x : DabF)
  /-- skwait (R382). -/
  | skwait (x : DaF)
  /-- skabort (R382). -/
  | skabort (x : DaF)
  /-- skstat (R382). -/
  | skstat (x : DaF)
  /-- skpost (R372). -/
  | skpost (x : DabF)
  /-- tsetup (R432). -/
  | tsetup (x : RegF)
  /-- rstep (R433). -/
  | rstep (x : RegF)
  /-- bxtest (R435). -/
  | bxtest (x : RegF)
  /-- txf (R438). -/
  | txf (x : RegF)
  /-- fgrid (R439). -/
  | fgrid (x : RegF)
  /-- tritest (R436). -/
  | tritest (x : RegF)
  /-- gwrite (R441). -/
  | gwrite (x : RegF)
  /-- nop (R52). -/
  | nop (x : StopF)
  /-- trap (R426). -/
  | trap (x : TrapF)
  /-- eret (R426). -/
  | eret (x : StopF)
  /-- resolve (R414). -/
  | resolve (x : ResolveF)
  /-- xrd (R426). -/
  | xrd (x : XrdF)
  /-- xwr (R426). -/
  | xwr (x : XwrF)
  /-- halt (R426). -/
  | halt (x : StopF)
  /-- brk (R426). -/
  | brk (x : StopF)
  /-- tlbinv (R260). -/
  | tlbinv (x : DabF)
  /-- pin (R273). -/
  | pin (x : DabF)
  /-- unpin (R273). -/
  | unpin (x : DabF)
  /-- pfch (R273). -/
  | pfch (x : DabF)
  /-- flush (R275). -/
  | flush (x : DaF)
  /-- inval (R275). -/
  | inval (x : DaF)
  /-- evload (R271). -/
  | evload (x : DabF)
  /-- pgmode (R273). -/
  | pgmode (x : DabF)
  /-- STORE_PERFORM (R276): A store reaches its point of coherence; a failure found there goes to the asynchronous trap. -/
  | storePerform
  /-- SWAP_OUT_TEST (R252): At each µs boundary the park-time and park-count test chooses ensembles for swap-out. -/
  | swapOutTest
  /-- GAP_TIMEOUT (R338): At a µs boundary a gap open longer than GAPT traps its waiters with ORD_GAP. -/
  | gapTimeout
  /-- FRAME_START (R445): TICK reaches the frame length: NUMBER advances and TICK returns to 0. -/
  | frameStart
  /-- LOCK_LOSS (R446): With no measurement for 1 ms, LOCKED clears and LOST is set. -/
  | lockLoss
  /-- DEVICE_RESET (R443): Release of device reset starts clk64 and boot. -/
  | deviceReset
  /-- GET_VERSION (R457): SPDM GET_VERSION request. -/
  | getVersion
  /-- GET_CAPABILITIES (R457): SPDM GET_CAPABILITIES request. -/
  | getCapabilities
  /-- NEGOTIATE_ALGORITHMS (R457): SPDM NEGOTIATE_ALGORITHMS request. -/
  | negotiateAlgorithms
  /-- GET_DIGESTS (R457): SPDM GET_DIGESTS request. -/
  | getDigests
  /-- DEBUG_HALT (R423): Debug command HALT halts the selected troupe. -/
  | debugHalt
  /-- RESUME (R424): Debug command RESUME, which invalidates latches and resumes the troupe. -/
  | resume
  /-- STEP (R423): Debug command STEP, which runs one bundle or the rest of a split bundle and halts again. -/
  | stepDbg
  /-- QREAD (R423): Debug command that reads a queue position. -/
  | qread
  /-- QWRITE (R423): Debug command that replaces a filled queue position. -/
  | qwrite
  /-- GREAD (R423): Debug command that reads a g register. -/
  | gread
  /-- DEBUG_GWRITE (R423): Debug command GWRITE, which writes a g register. -/
  | debugGwrite
  /-- SREAD (R423): Debug command that reads the resume PC, predicates, active mask or stat. -/
  | sread
  /-- SWRITE (R423): Debug command that writes a state item; a resume-PC write clears SLOT_RESUME and REDO. -/
  | swrite
deriving DecidableEq, Repr

end Sys2Proof
end

