-- ==== Sys2Proof/WellFormed.lean ====
section
/-! DEFINITION. Which slots are legal (02_words R32 to R34, R37, R49): the operand fields, K bits, port fields, raw fields
and SUB bits of every instruction. A slot that fails here raises ILLEGAL_SLOT. -/

namespace Sys2Proof

/-- The field names a queue register q0 to q31 (R32). -/
def isQ (x : BitVec 6) : Bool := x.toNat < 32
/-- The field names a uniform register g0 to g15 (R32). -/
def isG (x : BitVec 6) : Bool := 32 ≤ x.toNat && x.toNat < 48
/-- The field names g0 to g15 or `z`. -/
def isGZ (x : BitVec 6) : Bool := isG x || x == 56
/-- The field names the first of four g registers, g0 to g12 (R77). -/
def isG4 (x : BitVec 6) : Bool := 32 ≤ x.toNat && x.toNat ≤ 44
/-- A legal source: every name but 48 to 55 and 63 (R32). -/
def okSrc (x : BitVec 6) : Bool := x.toNat < 48 || (56 ≤ x.toNat && x.toNat ≤ 62)
/-- A legal destination: q, g or `z` (R32). -/
def okDst (x : BitVec 6) : Bool := x.toNat < 48 || x == 56
/-- A K bit stands only beside a q register (R33). -/
def kOk (k : BitVec 1) (x : BitVec 6) : Bool := k == 0 || isQ x
/-- `lit` stands in at most one field (R34). -/
def litOnce (l : List (BitVec 6)) : Bool := (l.filter (· == 61)).length ≤ 1
/-- A port field that no operand uses is 0 (R33, R43). -/
def portOk (p : BitVec 2) (l : List (BitVec 6)) : Bool := p == 0 || l.any (fun x => x.toNat < 48)
/-- SETX and SETY: 0 to 11, or 15 (R37). -/
def flagSel (x : BitVec 4) : Bool := x.toNat ≤ 11 || x == 15
/-- A g field of a V-form slot: 0 to 15, or 31 for `z` (R170). -/
def gField (x : BitVec 5) : Bool := x.toNat < 16 || x == 31
/-- BS of the vector arithmetic's SUB (R172). -/
def bsOf (sub : BitVec 5) : Bool := sub.getLsbD 3
/-- SAT of the vector arithmetic's SUB (R172). -/
def satOf (sub : BitVec 5) : Bool := sub.getLsbD 4
/-- The TYPE values of `vred` and `vscan` (R177, R178). -/
def redType (t : Nat) : Bool := t == 0 || t == 3 || t == 4
/-- The conversion codes of `vcvt` and what VB may hold beside each (R174, R175). -/
def cvtVbOk (code vb : Nat) : Bool :=
  if code == 5 || code == 6 then true
  else if 11 ≤ code && code ≤ 13 then vb ≤ 14
  else code ≤ 16 && vb == 0
/-- The control register number of `xrd` and `xwr` (R425). -/
def regNo (hi lo : BitVec 6) : Nat := hi.toNat * 64 + lo.toNat
/-- The control register numbers that the manual assigns (R426). -/
def assignedReg (n : Nat) : Bool :=
  n ≤ 5 || n == 0x10 || n == 0x11 || n == 0x20 || n == 0x21 || (0x30 ≤ n && n ≤ 0x35) || n == 0x40 || n == 0x41 ||
  (0x50 ≤ n && n ≤ 0x57) || n == 0x60 || (0x400 ≤ n && n ≤ 0x7FF)

/-- The legality of an instruction's own fields (R49). Events have no fields to refuse. -/
def wellFormed : Instr → Bool
  | .clause x => flagSel x.setx && flagSel x.sety
  | .guard _ => true
  | .add x => okDst x.d && okSrc x.a && okSrc x.b && kOk x.ka x.a && kOk x.kb x.b && litOnce [x.a, x.b] && portOk x.port [x.a, x.b]
  | .sub x => okDst x.d && okSrc x.a && okSrc x.b && kOk x.ka x.a && kOk x.kb x.b && litOnce [x.a, x.b] && portOk x.port [x.a, x.b]
  | .andB x => okDst x.d && okSrc x.a && okSrc x.b && kOk x.ka x.a && kOk x.kb x.b && litOnce [x.a, x.b] && portOk x.port [x.a, x.b]
  | .orB x => okDst x.d && okSrc x.a && okSrc x.b && kOk x.ka x.a && kOk x.kb x.b && litOnce [x.a, x.b] && portOk x.port [x.a, x.b]
  | .xorB x => okDst x.d && okSrc x.a && okSrc x.b && kOk x.ka x.a && kOk x.kb x.b && litOnce [x.a, x.b] && portOk x.port [x.a, x.b]
  | .andn x => okDst x.d && okSrc x.a && okSrc x.b && kOk x.ka x.a && kOk x.kb x.b && litOnce [x.a, x.b] && portOk x.port [x.a, x.b]
  | .shl x => okDst x.d && okSrc x.a && okSrc x.b && kOk x.ka x.a && kOk x.kb x.b && litOnce [x.a, x.b] && portOk x.port [x.a, x.b]
  | .shr x => okDst x.d && okSrc x.a && okSrc x.b && kOk x.ka x.a && kOk x.kb x.b && litOnce [x.a, x.b] && portOk x.port [x.a, x.b]
  | .sar x => okDst x.d && okSrc x.a && okSrc x.b && kOk x.ka x.a && kOk x.kb x.b && litOnce [x.a, x.b] && portOk x.port [x.a, x.b]
  | .minI32 x => okDst x.d && okSrc x.a && okSrc x.b && kOk x.ka x.a && kOk x.kb x.b && litOnce [x.a, x.b] && portOk x.port [x.a, x.b]
  | .maxI32 x => okDst x.d && okSrc x.a && okSrc x.b && kOk x.ka x.a && kOk x.kb x.b && litOnce [x.a, x.b] && portOk x.port [x.a, x.b]
  | .minN32 x => okDst x.d && okSrc x.a && okSrc x.b && kOk x.ka x.a && kOk x.kb x.b && litOnce [x.a, x.b] && portOk x.port [x.a, x.b]
  | .maxN32 x => okDst x.d && okSrc x.a && okSrc x.b && kOk x.ka x.a && kOk x.kb x.b && litOnce [x.a, x.b] && portOk x.port [x.a, x.b]
  | .absI32 x => okDst x.d && okSrc x.a && kOk x.ka x.a && portOk x.port [x.a]
  | .mad x => okDst x.d && okSrc x.a && okSrc x.b && kOk x.ka x.a && kOk x.kb x.b && litOnce [x.a, x.b] && portOk x.port [x.a, x.b, x.d]
  | .mul x => okDst x.d && okSrc x.a && okSrc x.b && kOk x.ka x.a && kOk x.kb x.b && litOnce [x.a, x.b] && portOk x.port [x.a, x.b]
  | .mulhI32 x => okDst x.d && okSrc x.a && okSrc x.b && kOk x.ka x.a && kOk x.kb x.b && litOnce [x.a, x.b] && portOk x.port [x.a, x.b]
  | .mulhN32 x => okDst x.d && okSrc x.a && okSrc x.b && kOk x.ka x.a && kOk x.kb x.b && litOnce [x.a, x.b] && portOk x.port [x.a, x.b]
  | .divI32 x => okDst x.d && okSrc x.a && okSrc x.b && kOk x.ka x.a && kOk x.kb x.b && litOnce [x.a, x.b] && portOk x.port [x.a, x.b]
  | .divN32 x => okDst x.d && okSrc x.a && okSrc x.b && kOk x.ka x.a && kOk x.kb x.b && litOnce [x.a, x.b] && portOk x.port [x.a, x.b]
  | .remI32 x => okDst x.d && okSrc x.a && okSrc x.b && kOk x.ka x.a && kOk x.kb x.b && litOnce [x.a, x.b] && portOk x.port [x.a, x.b]
  | .remN32 x => okDst x.d && okSrc x.a && okSrc x.b && kOk x.ka x.a && kOk x.kb x.b && litOnce [x.a, x.b] && portOk x.port [x.a, x.b]
  | .popc x => okDst x.d && okSrc x.a && kOk x.ka x.a && portOk x.port [x.a]
  | .clz x => okDst x.d && okSrc x.a && kOk x.ka x.a && portOk x.port [x.a]
  | .brev x => okDst x.d && okSrc x.a && kOk x.ka x.a && portOk x.port [x.a]
  | .bfeN32 x => okDst x.d && okSrc x.a && okSrc x.b && kOk x.ka x.a && kOk x.kb x.b && litOnce [x.a, x.b] && portOk x.port [x.a, x.b]
  | .bfeI32 x => okDst x.d && okSrc x.a && okSrc x.b && kOk x.ka x.a && kOk x.kb x.b && litOnce [x.a, x.b] && portOk x.port [x.a, x.b]
  | .bfi x => okDst x.d && okSrc x.a && okSrc x.b && kOk x.ka x.a && kOk x.kb x.b && litOnce [x.a, x.b] && portOk x.port [x.a, x.b, x.d]
  | .addsatI32 x => okDst x.d && okSrc x.a && okSrc x.b && kOk x.ka x.a && kOk x.kb x.b && litOnce [x.a, x.b] && portOk x.port [x.a, x.b]
  | .subsatI32 x => okDst x.d && okSrc x.a && okSrc x.b && kOk x.ka x.a && kOk x.kb x.b && litOnce [x.a, x.b] && portOk x.port [x.a, x.b]
  | .addi x => okDst x.d && okSrc x.a && kOk x.ka x.a && portOk x.port [x.a]
  | .andi x => okDst x.d && okSrc x.a && kOk x.ka x.a && portOk x.port [x.a]
  | .ori x => okDst x.d && okSrc x.a && kOk x.ka x.a && portOk x.port [x.a]
  | .xori x => okDst x.d && okSrc x.a && kOk x.ka x.a && portOk x.port [x.a]
  | .shli x => okDst x.d && okSrc x.a && kOk x.ka x.a && portOk x.port [x.a] && x.imm.toNat < 64
  | .shri x => okDst x.d && okSrc x.a && kOk x.ka x.a && portOk x.port [x.a] && x.imm.toNat < 64
  | .sari x => okDst x.d && okSrc x.a && kOk x.ka x.a && portOk x.port [x.a] && x.imm.toNat < 64
  | .muli x => okDst x.d && okSrc x.a && kOk x.ka x.a && portOk x.port [x.a]
  | .movi x => okDst x.d
  | .movh x => okDst x.d
  | .mov x => okDst x.d && okSrc x.a && kOk x.ka x.a && portOk x.port [x.a]
  | .movPair x => isG x.d && okSrc x.a && okSrc x.b && x.b != 56 && kOk x.ka x.a && kOk x.kb x.b && litOnce [x.a, x.b] && portOk x.port [x.a, x.b]
  | .drop x => isQ x.a
  | .dup x => isQ x.d && okSrc x.a && kOk x.ka x.a && portOk x.port [x.a]
  | .qcnt x => okDst x.d && isQ x.a
  | .qclr x => isQ x.a || isG x.a
  | .eq x => okSrc x.a && okSrc x.b && kOk x.ka x.a && kOk x.kb x.b && litOnce [x.a, x.b] && portOk x.port [x.a, x.b]
  | .ne x => okSrc x.a && okSrc x.b && kOk x.ka x.a && kOk x.kb x.b && litOnce [x.a, x.b] && portOk x.port [x.a, x.b]
  | .ltI32 x => okSrc x.a && okSrc x.b && kOk x.ka x.a && kOk x.kb x.b && litOnce [x.a, x.b] && portOk x.port [x.a, x.b]
  | .leI32 x => okSrc x.a && okSrc x.b && kOk x.ka x.a && kOk x.kb x.b && litOnce [x.a, x.b] && portOk x.port [x.a, x.b]
  | .ltN32 x => okSrc x.a && okSrc x.b && kOk x.ka x.a && kOk x.kb x.b && litOnce [x.a, x.b] && portOk x.port [x.a, x.b]
  | .leN32 x => okSrc x.a && okSrc x.b && kOk x.ka x.a && kOk x.kb x.b && litOnce [x.a, x.b] && portOk x.port [x.a, x.b]
  | .feq x => okSrc x.a && okSrc x.b && kOk x.ka x.a && kOk x.kb x.b && litOnce [x.a, x.b] && portOk x.port [x.a, x.b]
  | .flt x => okSrc x.a && okSrc x.b && kOk x.ka x.a && kOk x.kb x.b && litOnce [x.a, x.b] && portOk x.port [x.a, x.b]
  | .fle x => okSrc x.a && okSrc x.b && kOk x.ka x.a && kOk x.kb x.b && litOnce [x.a, x.b] && portOk x.port [x.a, x.b]
  | .funF x => okSrc x.a && okSrc x.b && kOk x.ka x.a && kOk x.kb x.b && litOnce [x.a, x.b] && portOk x.port [x.a, x.b]
  | .pand _ => true
  | .por _ => true
  | .pxor _ => true
  | .pnot _ => true
  | .pset x => okSrc x.a && kOk x.ka x.a && portOk x.port [x.a]
  | .pvote _ => true
  | .fadd x => okDst x.d && okSrc x.a && okSrc x.b && kOk x.ka x.a && kOk x.kb x.b && litOnce [x.a, x.b] && portOk x.port [x.a, x.b]
  | .fsub x => okDst x.d && okSrc x.a && okSrc x.b && kOk x.ka x.a && kOk x.kb x.b && litOnce [x.a, x.b] && portOk x.port [x.a, x.b]
  | .fmul x => okDst x.d && okSrc x.a && okSrc x.b && kOk x.ka x.a && kOk x.kb x.b && litOnce [x.a, x.b] && portOk x.port [x.a, x.b]
  | .ffma x => okDst x.d && okSrc x.a && okSrc x.b && kOk x.ka x.a && kOk x.kb x.b && litOnce [x.a, x.b] && portOk x.port [x.a, x.b, x.d]
  | .fmin x => okDst x.d && okSrc x.a && okSrc x.b && kOk x.ka x.a && kOk x.kb x.b && litOnce [x.a, x.b] && portOk x.port [x.a, x.b]
  | .fmax x => okDst x.d && okSrc x.a && okSrc x.b && kOk x.ka x.a && kOk x.kb x.b && litOnce [x.a, x.b] && portOk x.port [x.a, x.b]
  | .fabs x => okDst x.d && okSrc x.a && kOk x.ka x.a && portOk x.port [x.a]
  | .fneg x => okDst x.d && okSrc x.a && kOk x.ka x.a && portOk x.port [x.a]
  | .fcopysign x => okDst x.d && okSrc x.a && okSrc x.b && kOk x.ka x.a && kOk x.kb x.b && litOnce [x.a, x.b] && portOk x.port [x.a, x.b]
  | .ffloor x => okDst x.d && okSrc x.a && kOk x.ka x.a && portOk x.port [x.a]
  | .fceil x => okDst x.d && okSrc x.a && kOk x.ka x.a && portOk x.port [x.a]
  | .ftrunc x => okDst x.d && okSrc x.a && kOk x.ka x.a && portOk x.port [x.a]
  | .frint x => okDst x.d && okSrc x.a && kOk x.ka x.a && portOk x.port [x.a]
  | .fsat x => okDst x.d && okSrc x.a && kOk x.ka x.a && portOk x.port [x.a]
  | .haddF16x2 x => okDst x.d && okSrc x.a && okSrc x.b && kOk x.ka x.a && kOk x.kb x.b && litOnce [x.a, x.b] && portOk x.port [x.a, x.b]
  | .hmulF16x2 x => okDst x.d && okSrc x.a && okSrc x.b && kOk x.ka x.a && kOk x.kb x.b && litOnce [x.a, x.b] && portOk x.port [x.a, x.b]
  | .hfmaF16x2 x => okDst x.d && okSrc x.a && okSrc x.b && kOk x.ka x.a && kOk x.kb x.b && litOnce [x.a, x.b] && portOk x.port [x.a, x.b, x.d]
  | .hminF16x2 x => okDst x.d && okSrc x.a && okSrc x.b && kOk x.ka x.a && kOk x.kb x.b && litOnce [x.a, x.b] && portOk x.port [x.a, x.b]
  | .hmaxF16x2 x => okDst x.d && okSrc x.a && okSrc x.b && kOk x.ka x.a && kOk x.kb x.b && litOnce [x.a, x.b] && portOk x.port [x.a, x.b]
  | .haddBf16x2 x => okDst x.d && okSrc x.a && okSrc x.b && kOk x.ka x.a && kOk x.kb x.b && litOnce [x.a, x.b] && portOk x.port [x.a, x.b]
  | .hmulBf16x2 x => okDst x.d && okSrc x.a && okSrc x.b && kOk x.ka x.a && kOk x.kb x.b && litOnce [x.a, x.b] && portOk x.port [x.a, x.b]
  | .hfmaBf16x2 x => okDst x.d && okSrc x.a && okSrc x.b && kOk x.ka x.a && kOk x.kb x.b && litOnce [x.a, x.b] && portOk x.port [x.a, x.b, x.d]
  | .hminBf16x2 x => okDst x.d && okSrc x.a && okSrc x.b && kOk x.ka x.a && kOk x.kb x.b && litOnce [x.a, x.b] && portOk x.port [x.a, x.b]
  | .hmaxBf16x2 x => okDst x.d && okSrc x.a && okSrc x.b && kOk x.ka x.a && kOk x.kb x.b && litOnce [x.a, x.b] && portOk x.port [x.a, x.b]
  | .cvtF32I32 x => okDst x.d && okSrc x.a && kOk x.ka x.a && portOk x.port [x.a]
  | .cvtF32N32 x => okDst x.d && okSrc x.a && kOk x.ka x.a && portOk x.port [x.a]
  | .cvtI32F32 x => okDst x.d && okSrc x.a && kOk x.ka x.a && portOk x.port [x.a]
  | .cvtN32F32 x => okDst x.d && okSrc x.a && kOk x.ka x.a && portOk x.port [x.a]
  | .cvtI32F32Rz x => okDst x.d && okSrc x.a && kOk x.ka x.a && portOk x.port [x.a]
  | .cvtF16x2F32 x => okDst x.d && okSrc x.a && okSrc x.b && kOk x.ka x.a && kOk x.kb x.b && litOnce [x.a, x.b] && portOk x.port [x.a, x.b]
  | .cvtBf16x2F32 x => okDst x.d && okSrc x.a && okSrc x.b && kOk x.ka x.a && kOk x.kb x.b && litOnce [x.a, x.b] && portOk x.port [x.a, x.b]
  | .cvtF32F16 x => okDst x.d && okSrc x.a && kOk x.ka x.a && portOk x.port [x.a]
  | .cvtF32F16h x => okDst x.d && okSrc x.a && kOk x.ka x.a && portOk x.port [x.a]
  | .cvtF32Bf16 x => okDst x.d && okSrc x.a && kOk x.ka x.a && portOk x.port [x.a]
  | .cvtF32Bf16h x => okDst x.d && okSrc x.a && kOk x.ka x.a && portOk x.port [x.a]
  | .cvtF32E4m3 x => okDst x.d && okSrc x.a && kOk x.ka x.a && portOk x.port [x.a]
  | .cvtF32E5m2 x => okDst x.d && okSrc x.a && kOk x.ka x.a && portOk x.port [x.a]
  | .cvtF32E2m1 x => okDst x.d && okSrc x.a && kOk x.ka x.a && portOk x.port [x.a]
  | .cvtE4m3F32 x => okDst x.d && okSrc x.a && kOk x.ka x.a && portOk x.port [x.a]
  | .cvtE5m2F32 x => okDst x.d && okSrc x.a && kOk x.ka x.a && portOk x.port [x.a]
  | .rcp x => okDst x.d && okSrc x.a && kOk x.ka x.a && portOk x.port [x.a]
  | .rsqrt x => okDst x.d && okSrc x.a && kOk x.ka x.a && portOk x.port [x.a]
  | .sqrt x => okDst x.d && okSrc x.a && kOk x.ka x.a && portOk x.port [x.a]
  | .exp2 x => okDst x.d && okSrc x.a && kOk x.ka x.a && portOk x.port [x.a]
  | .log2 x => okDst x.d && okSrc x.a && kOk x.ka x.a && portOk x.port [x.a]
  | .sin x => okDst x.d && okSrc x.a && kOk x.ka x.a && portOk x.port [x.a]
  | .cos x => okDst x.d && okSrc x.a && kOk x.ka x.a && portOk x.port [x.a]
  | .tanh x => okDst x.d && okSrc x.a && kOk x.ka x.a && portOk x.port [x.a]
  | .sigm x => okDst x.d && okSrc x.a && kOk x.ka x.a && portOk x.port [x.a]
  | .divF32 x => okDst x.d && okSrc x.a && okSrc x.b && kOk x.ka x.a && litOnce [x.a, x.b] && portOk x.port [x.a, x.b]
  | .br _ => true
  | .bpa _ => true
  | .bpn _ => true
  | .bif _ => true
  | .belse _ => true
  | .bjoin _ => true
  | .call _ => true
  | .ret _ => true
  | .brx x => (isG x.a || x.a == 61) && portOk x.port [x.a]
  | .loopG _ => true
  | .fork x => isG4 x.a
  | .takeT x => isG4 x.d
  | .steal x => isG4 x.d && isG x.a
  | .dqconf x => isGZ x.d && isG x.a && isG x.b
  | .dqcount x => isG x.d
  | .launch x => isGZ x.d && isG x.a
  | .cwait x => isGZ x.d && isGZ x.a && portOk x.port [x.a]
  | .exitT _ => true
  | .yield _ => true
  | .vclaim x => isGZ x.d && isG x.a
  | .vgive x => isGZ x.d && isG x.a
  | .role x => isGZ x.d && isGZ x.a && portOk x.port [x.a]
  | .barArrive x => x.b.toNat < 32
  | .barWait x => x.b.toNat < 32
  | .barSync x => x.b.toNat < 32
  | .barLink x => isGZ x.d && isG x.a && x.b.toNat < 32
  | .fenceAcq x => x.b.toNat < 32
  | .fenceRel x => x.b.toNat < 32
  | .fenceAr x => x.b.toNat < 32
  | .mark _ => true
  | .scope x => isGZ x.d && x.b.toNat < 32
  | .barCount x => isGZ x.d && (isG x.a || x.a == 61) && x.b.toNat < 32 && portOk x.port [x.a]
  | .ldS x => okSrc x.a && kOk x.ka x.a && portOk x.port [x.a]
  | .ldG x => okSrc x.a && kOk x.ka x.a && portOk x.port [x.a]
  | .ldGAcq x => okSrc x.a && kOk x.ka x.a && portOk x.port [x.a]
  | .ldGNc x => okSrc x.a && kOk x.ka x.a && portOk x.port [x.a]
  | .ldW x => okSrc x.a && kOk x.ka x.a && portOk x.port [x.a]
  | .stS x => (isQ x.d || isGZ x.d || x.d == 61) && okSrc x.a && litOnce [x.a, x.d] && portOk x.port [x.a, x.d]
  | .stG x => (isQ x.d || isGZ x.d || x.d == 61) && okSrc x.a && litOnce [x.a, x.d] && portOk x.port [x.a, x.d]
  | .stGRel x => (isQ x.d || isGZ x.d || x.d == 61) && okSrc x.a && litOnce [x.a, x.d] && portOk x.port [x.a, x.d]
  | .stGNc x => (isQ x.d || isGZ x.d || x.d == 61) && okSrc x.a && litOnce [x.a, x.d] && portOk x.port [x.a, x.d]
  | .stW x => (isQ x.d || isGZ x.d || x.d == 61) && okSrc x.a && litOnce [x.a, x.d] && portOk x.port [x.a, x.d]
  | .atomAdd x => okDst x.d && okSrc x.a && okSrc x.b && kOk x.ka x.a && litOnce [x.a, x.b] && portOk x.port [x.a, x.b]
  | .atomMinI32 x => okDst x.d && okSrc x.a && okSrc x.b && kOk x.ka x.a && litOnce [x.a, x.b] && portOk x.port [x.a, x.b]
  | .atomMaxI32 x => okDst x.d && okSrc x.a && okSrc x.b && kOk x.ka x.a && litOnce [x.a, x.b] && portOk x.port [x.a, x.b]
  | .atomMinN32 x => okDst x.d && okSrc x.a && okSrc x.b && kOk x.ka x.a && litOnce [x.a, x.b] && portOk x.port [x.a, x.b]
  | .atomMaxN32 x => okDst x.d && okSrc x.a && okSrc x.b && kOk x.ka x.a && litOnce [x.a, x.b] && portOk x.port [x.a, x.b]
  | .atomAnd x => okDst x.d && okSrc x.a && okSrc x.b && kOk x.ka x.a && litOnce [x.a, x.b] && portOk x.port [x.a, x.b]
  | .atomOr x => okDst x.d && okSrc x.a && okSrc x.b && kOk x.ka x.a && litOnce [x.a, x.b] && portOk x.port [x.a, x.b]
  | .atomXor x => okDst x.d && okSrc x.a && okSrc x.b && kOk x.ka x.a && litOnce [x.a, x.b] && portOk x.port [x.a, x.b]
  | .atomXchg x => okDst x.d && okSrc x.a && okSrc x.b && kOk x.ka x.a && litOnce [x.a, x.b] && portOk x.port [x.a, x.b]
  | .atomCas x => okDst x.d && okSrc x.a && okSrc x.b && kOk x.ka x.a && litOnce [x.a, x.b] && portOk x.port [x.a, x.b, x.d]
  | .atomFaddF32 x => okDst x.d && okSrc x.a && okSrc x.b && kOk x.ka x.a && litOnce [x.a, x.b] && portOk x.port [x.a, x.b]
  | .atomIncw x => okDst x.d && okSrc x.a && okSrc x.b && kOk x.ka x.a && litOnce [x.a, x.b] && portOk x.port [x.a, x.b]
  | .redAdd x => okSrc x.a && okSrc x.b && kOk x.ka x.a && kOk x.kb x.b && litOnce [x.a, x.b] && portOk x.port [x.a, x.b]
  | .redMinI32 x => okSrc x.a && okSrc x.b && kOk x.ka x.a && kOk x.kb x.b && litOnce [x.a, x.b] && portOk x.port [x.a, x.b]
  | .redMaxI32 x => okSrc x.a && okSrc x.b && kOk x.ka x.a && kOk x.kb x.b && litOnce [x.a, x.b] && portOk x.port [x.a, x.b]
  | .redMinN32 x => okSrc x.a && okSrc x.b && kOk x.ka x.a && kOk x.kb x.b && litOnce [x.a, x.b] && portOk x.port [x.a, x.b]
  | .redMaxN32 x => okSrc x.a && okSrc x.b && kOk x.ka x.a && kOk x.kb x.b && litOnce [x.a, x.b] && portOk x.port [x.a, x.b]
  | .redAnd x => okSrc x.a && okSrc x.b && kOk x.ka x.a && kOk x.kb x.b && litOnce [x.a, x.b] && portOk x.port [x.a, x.b]
  | .redOr x => okSrc x.a && okSrc x.b && kOk x.ka x.a && kOk x.kb x.b && litOnce [x.a, x.b] && portOk x.port [x.a, x.b]
  | .redXor x => okSrc x.a && okSrc x.b && kOk x.ka x.a && kOk x.kb x.b && litOnce [x.a, x.b] && portOk x.port [x.a, x.b]
  | .redFaddF32 x => okSrc x.a && okSrc x.b && kOk x.ka x.a && kOk x.kb x.b && litOnce [x.a, x.b] && portOk x.port [x.a, x.b]
  | .redFaddBf16x2 x => okSrc x.a && okSrc x.b && kOk x.ka x.a && kOk x.kb x.b && litOnce [x.a, x.b] && portOk x.port [x.a, x.b]
  | .osinit x => okDst x.d && okSrc x.a && okSrc x.b && kOk x.ka x.a && kOk x.kb x.b && litOnce [x.a, x.b] && portOk x.port [x.a, x.b]
  | .osenter x => okSrc x.a && okSrc x.b && kOk x.ka x.a && kOk x.kb x.b && litOnce [x.a, x.b] && portOk x.port [x.a, x.b]
  | .ostry x => okDst x.d && okSrc x.a && okSrc x.b && kOk x.ka x.a && kOk x.kb x.b && litOnce [x.a, x.b] && portOk x.port [x.a, x.b]
  | .osleave x => okSrc x.a && kOk x.ka x.a && portOk x.port [x.a]
  | .osquery x => okDst x.d && okSrc x.a && kOk x.ka x.a && portOk x.port [x.a]
  | .osdrop x => okDst x.d && okSrc x.a && kOk x.ka x.a && portOk x.port [x.a]
  | .cpyG2s4 x => okSrc x.d && okSrc x.a && okSrc x.b && litOnce [x.a, x.b, x.d] && portOk x.port [x.a, x.b, x.d]
  | .cpyG2s8 x => okSrc x.d && okSrc x.a && okSrc x.b && litOnce [x.a, x.b, x.d] && portOk x.port [x.a, x.b, x.d]
  | .cpyG2s16 x => okSrc x.d && okSrc x.a && okSrc x.b && litOnce [x.a, x.b, x.d] && portOk x.port [x.a, x.b, x.d]
  | .cpyG2s32 x => okSrc x.d && okSrc x.a && okSrc x.b && litOnce [x.a, x.b, x.d] && portOk x.port [x.a, x.b, x.d]
  | .cpyS2g4 x => okSrc x.d && okSrc x.a && okSrc x.b && litOnce [x.a, x.b, x.d] && portOk x.port [x.a, x.b, x.d]
  | .cpyS2g8 x => okSrc x.d && okSrc x.a && okSrc x.b && litOnce [x.a, x.b, x.d] && portOk x.port [x.a, x.b, x.d]
  | .cpyS2g16 x => okSrc x.d && okSrc x.a && okSrc x.b && litOnce [x.a, x.b, x.d] && portOk x.port [x.a, x.b, x.d]
  | .cpyS2g32 x => okSrc x.d && okSrc x.a && okSrc x.b && litOnce [x.a, x.b, x.d] && portOk x.port [x.a, x.b, x.d]
  | .waittag _ => true
  | .tagcnt x => okDst x.d
  | .enq x => okDst x.d && x.a.toNat ≤ 16 && x.engine.toNat ≤ 5
  | .sleepto x => okDst x.d && (isQ x.a || isG x.a || x.a == 61) && kOk x.ka x.a && portOk x.port [x.a]
  | .enqstat x => okDst x.d && x.engine.toNat ≤ 5
  | .seminit x => isGZ x.d && (isG x.a || x.a == 61) && portOk x.port [x.a]
  | .semarm x => isGZ x.d && (isG x.a || x.a == 61) && (isGZ x.b || x.b == 61) && litOnce [x.a, x.b] && portOk x.port [x.a, x.b]
  | .semexp x => isGZ x.d && (isG x.a || x.a == 61) && (isGZ x.b || x.b == 61) && litOnce [x.a, x.b] && portOk x.port [x.a, x.b]
  | .semarr x => isGZ x.d && (isG x.a || x.a == 61) && (isGZ x.b || x.b == 61) && litOnce [x.a, x.b] && portOk x.port [x.a, x.b]
  | .semwait x => isGZ x.d && (isG x.a || x.a == 61) && portOk x.port [x.a]
  | .semtest x => isGZ x.d && (isG x.a || x.a == 61) && portOk x.port [x.a]
  | .vadd x => x.sub.toNat % 8 ≤ 4 && (!bsOf x.sub || gField x.b) && (!satOf x.sub || 3 ≤ x.sub.toNat % 8)
  | .vsub x => x.sub.toNat % 8 ≤ 4 && (!bsOf x.sub || gField x.b) && (!satOf x.sub || 3 ≤ x.sub.toNat % 8)
  | .vmul x => x.sub.toNat % 8 ≤ 4 && (!bsOf x.sub || gField x.b) && !satOf x.sub
  | .vfma x => x.sub.toNat % 8 ≤ 4 && (!bsOf x.sub || gField x.b) && !satOf x.sub
  | .vmax x => x.sub.toNat % 8 ≤ 4 && (!bsOf x.sub || gField x.b) && !satOf x.sub
  | .vmin x => x.sub.toNat % 8 ≤ 4 && (!bsOf x.sub || gField x.b) && !satOf x.sub
  | .vexp2 _ => true
  | .vrcp _ => true
  | .vrsq _ => true
  | .vtanh _ => true
  | .vcvt x => cvtVbOk x.sub.toNat x.b.toNat
  | .vred x => redType (x.sub.toNat % 8) && x.sub.toNat / 8 % 4 ≤ 2 && (x.sub.toNat < 32 || x.d.toNat < 16)
  | .vbcast x => gField x.a
  | .vbcastElement x => gField x.b
  | .vsel x => x.sub.toNat % 8 ≤ 4 && x.sub.toNat / 8 ≤ 5
  | .vperm _ => true
  | .vscan x => redType (x.sub.toNat % 8)
  | .vld x => gField x.a && gField x.b
  | .vst x => gField x.a && gField x.b
  | .vldStr x => gField x.a && gField x.b
  | .vstStr x => gField x.a && gField x.b
  | .vgath x => gField x.a && gField x.b
  | .vscat x => gField x.a && gField x.b
  | .mload x => x.a.toNat < 16 && x.b.toNat < 16
  | .mpass x => x.a.toNat < 16 && x.b.toNat < 16
  | .mjoin x => x.a.toNat < 16 && x.b.toNat < 16
  | .mdrain x => x.d.toNat < 16 && x.b.toNat < 16 && x.fmt != 3
  | .mzero _ => true
  | .mswap _ => true
  | .mengage x => gField x.d && x.a.toNat < 16
  | .mfree _ => true
  | .mfence x => x.a.toNat < 16
  | .mwait x => gField x.d && (x.a.toNat < 8 || x.a == 31)
  | .tplane x => x.d.toNat < 16 && x.a.toNat < 16 && x.b.toNat < 16
  | .tunplane x => x.d.toNat < 16 && x.a.toNat < 16 && x.b.toNat < 16 && x.tf != 3
  | .trot x => x.d.toNat < 16 && x.a.toNat < 16 && x.b.toNat ≤ 14
  | .tquant x => x.d.toNat < 16 && x.a.toNat < 16 && x.b.toNat ≤ 14
  | .tdequant x => x.d.toNat < 16 && x.a.toNat < 16 && x.b.toNat < 16
  | .twin x => x.d.toNat < 16 && x.a.toNat < 16 && x.b.toNat < 16
  | .ttrans x => x.d.toNat < 16 && x.a.toNat < 16 && x.b.toNat < 16
  | .xfmt x => gField x.d && gField x.a
  | .sktrack x => isGZ x.d && (isG x.a || x.a == 61) && (isGZ x.b || x.b == 61) && litOnce [x.a, x.b] && portOk x.port [x.a, x.b]
  | .skread x => isGZ x.d && (isG x.a || x.a == 61) && (isGZ x.b || x.b == 61) && litOnce [x.a, x.b] && portOk x.port [x.a, x.b]
  | .skwait x => isGZ x.d && (isG x.a || x.a == 61) && portOk x.port [x.a]
  | .skabort x => isGZ x.d && (isG x.a || x.a == 61) && portOk x.port [x.a]
  | .skstat x => isGZ x.d && (isG x.a || x.a == 61) && portOk x.port [x.a]
  | .skpost x => isGZ x.d && (isG x.a || x.a == 61) && (isGZ x.b || x.b == 61) && litOnce [x.a, x.b] && portOk x.port [x.a, x.b]
  | .tsetup x => okDst x.d && okSrc x.a && okSrc x.b && kOk x.ka x.a && kOk x.kb x.b && litOnce [x.a, x.b] && portOk x.port [x.a, x.b]
  | .rstep x => okDst x.d && okSrc x.a && okSrc x.b && kOk x.ka x.a && kOk x.kb x.b && litOnce [x.a, x.b] && portOk x.port [x.a, x.b]
  | .bxtest x => okDst x.d && okSrc x.a && okSrc x.b && kOk x.ka x.a && kOk x.kb x.b && litOnce [x.a, x.b] && portOk x.port [x.a, x.b]
  | .txf x => okDst x.d && okSrc x.a && okSrc x.b && kOk x.ka x.a && litOnce [x.a, x.b] && portOk x.port [x.a, x.b]
  | .fgrid x => okDst x.d && okSrc x.a && okSrc x.b && kOk x.ka x.a && litOnce [x.a, x.b] && portOk x.port [x.a, x.b]
  | .tritest x => okDst x.d && okSrc x.a && okSrc x.b && kOk x.ka x.a && kOk x.kb x.b && litOnce [x.a, x.b] && portOk x.port [x.a, x.b]
  | .gwrite x => isG x.d && isQ x.a && okSrc x.b && kOk x.kb x.b && portOk x.port [x.a, x.b, x.d]
  | .nop _ => true
  | .trap x => okSrc x.a && kOk x.ka x.a && portOk x.port [x.a]
  | .eret _ => true
  | .resolve x => x.how != 3 && okSrc x.a && okSrc x.b && kOk x.ka x.a && kOk x.kb x.b && litOnce [x.a, x.b] && portOk x.port [x.a, x.b]
  | .xrd x => okDst x.d && assignedReg (regNo x.hi x.lo)
  | .xwr x => (isG x.d || x.d == 61) && assignedReg (regNo x.hi x.lo) && portOk x.port [x.d]
  | .halt _ => true
  | .brk _ => true
  | .tlbinv x => isGZ x.d && isGZ x.a && isG x.b
  | .pin x => isGZ x.d && isG x.a && isG x.b
  | .unpin x => isGZ x.d && isG x.a && isG x.b
  | .pfch x => isGZ x.d && isG x.a && isG x.b
  | .flush x => isGZ x.d && isG x.a
  | .inval x => isGZ x.d && isG x.a
  | .evload x => isGZ x.d && isG x.a && isG x.b
  | .pgmode x => isGZ x.d && isG x.a && isG x.b
  | .bundleReentry _ => true
  | .waitEnd _ => true
  | .resultArrival _ => true
  | .storePerform => true
  | .pageWalkComplete _ _ _ => true
  | .replay _ => true
  | .swapOutTest => true
  | .ensembleSwapOut _ => true
  | .readmission _ => true
  | .shellArrival _ _ => true
  | .forwardedArrival _ _ => true
  | .barrierRelease _ _ => true
  | .remoteArrival _ => true
  | .windowPush _ => true
  | .heldPushEntry _ => true
  | .windowLoad _ => true
  | .scratchWindowAccess _ => true
  | .partialFlush _ => true
  | .copyPerform _ => true
  | .vmemComplete _ _ => true
  | .planeComplete _ => true
  | .matrixGrant _ => true
  | .grantPriorityRise _ _ => true
  | .matrixOpComplete _ _ => true
  | .tileCopy _ => true
  | .dieCopy _ => true
  | .bridgeStream _ => true
  | .allReduce _ _ => true
  | .broadcast _ _ => true
  | .allGather _ _ => true
  | .reduceScatter _ _ => true
  | .compare _ => true
  | .squashRestart _ => true
  | .present _ => true
  | .commandCompletion _ _ => true
  | .promiseBroken _ _ _ => true
  | .asynchronousTrap _ => true
  | .originArrival _ => true
  | .handlerLaunch _ => true
  | .gapTimeout => true
  | .ensembleAdmission _ => true
  | .admissionHold _ => true
  | .segmentExpansion _ _ _ _ => true
  | .ensembleRetirement _ => true
  | .companyRetirement _ => true
  | .sequencerPass _ => true
  | .tailReport _ => true
  | .partitionSwap _ => true
  | .frameStart => true
  | .lockMeasurement _ _ => true
  | .lockLoss => true
  | .stepRelease _ => true
  | .stepCompletion _ => true
  | .deadlineMiss _ => true
  | .powerThrottle _ _ => true
  | .deviceReset => true
  | .bootStage _ _ => true
  | .functionReady _ => true
  | .getVersion => true
  | .getCapabilities => true
  | .negotiateAlgorithms => true
  | .getDigests => true
  | .getCertificate _ => true
  | .challenge _ => true
  | .getMeasurements _ => true
  | .keyExchange _ => true
  | .finish _ => true
  | .endSession _ => true
  | .keySlotLoad _ _ => true
  | .keySlotClear _ _ => true
  | .deviceDrain _ => true
  | .deviceJoin _ => true
  | .debugHalt => true
  | .resume => true
  | .stepDbg => true
  | .qread => true
  | .qwrite => true
  | .gread => true
  | .debugGwrite => true
  | .sread => true
  | .swrite => true
  | .pfringWrite _ _ => true
  | .pfheadWrite _ _ => true
  | .scopeTableWrite _ _ _ _ => true
  | .registerWrite _ _ => true
  | .firmwareUpdate _ _ => true

end Sys2Proof
end

