-- ==== Sys2Proof/Decode.lean ====
section
/-! DEFINITION. Decoding of slots (02_words R25 to R34, R51) and, after it, the encoder. The decoder is total: a word that
no row of the opcode map lists is rejected by name. Operand values that a listed row forbids are the concern of WellFormed.
Some definitions are marked noncomputable only because Lean's runtime has no object for a constructor past the 245th of one
inductive type; the kernel evaluates them all. -/

namespace Sys2Proof

/-- Why a word is no slot of the opcode map; each raises ILLEGAL_SLOT (R49). -/
inductive DecodeError where
  /-- Class 31 (R49). -/
  | reservedClass
  /-- A function code that the opcode map does not list (R51). -/
  | unlistedFunction (cls fn : Nat)
  /-- A field that the row fixes holds another value (R33). -/
  | fixedField (mnemonic : String)
  /-- Fewer than four bytes. -/
  | truncated
deriving DecidableEq, Repr

/-- What a word decodes to: an instruction, or a rejection by name. -/
inductive Decoded where
  | ok (i : Instr)
  | reject (e : DecodeError)
deriving DecidableEq, Repr

/-- Bits lo to lo + n − 1 of a word, as a number. -/
def bitsAt (w : Word) (lo n : Nat) : Nat := (w.extractLsb' lo n).toNat

/-- Whether every (position, width, value) of a row's fixed fields holds in the word. -/
def fixedAt (w : Word) : List (Nat × Nat × Nat) → Bool
  | [] => true
  | (lo, n, v) :: rest => bitsAt w lo n == v && fixedAt w rest

/-- The instruction when its fixed fields hold, otherwise the rejection. -/
def whenFixed (w : Word) (l : List (Nat × Nat × Nat)) (name : String) (i : Instr) : Decoded :=
  if fixedAt w l then .ok i else .reject (.fixedField name)

/-- The fields of a word in the layout of `HdrF`. -/
def hdrFOf (w : Word) : HdrF :=
  ⟨w.extractLsb' 31 1, w.extractLsb' 14 12, w.extractLsb' 10 4, w.extractLsb' 6 4, w.extractLsb' 0 6⟩

/-- The fields of a word in the layout of `GrdF`. -/
def grdFOf (w : Word) : GrdF :=
  ⟨w.extractLsb' 31 1, w.extractLsb' 23 3, w.extractLsb' 22 1⟩

/-- The fields of a word in the layout of `RegF`. -/
def regFOf (w : Word) : RegF :=
  ⟨w.extractLsb' 31 1, w.extractLsb' 20 6, w.extractLsb' 14 6, w.extractLsb' 8 6, w.extractLsb' 6 2, w.extractLsb' 5 1, w.extractLsb' 4 1⟩

/-- The fields of a word in the layout of `UnF`. -/
def unFOf (w : Word) : UnF :=
  ⟨w.extractLsb' 31 1, w.extractLsb' 20 6, w.extractLsb' 14 6, w.extractLsb' 6 2, w.extractLsb' 5 1⟩

/-- The fields of a word in the layout of `ImmF`. -/
def immFOf (w : Word) : ImmF :=
  ⟨w.extractLsb' 31 1, w.extractLsb' 20 6, w.extractLsb' 14 6, w.extractLsb' 5 9, w.extractLsb' 4 1, w.extractLsb' 2 2⟩

/-- The fields of a word in the layout of `LongF`. -/
def longFOf (w : Word) : LongF :=
  ⟨w.extractLsb' 31 1, w.extractLsb' 20 6, w.extractLsb' 4 16⟩

/-- The fields of a word in the layout of `SrcF`. -/
def srcFOf (w : Word) : SrcF :=
  ⟨w.extractLsb' 31 1, w.extractLsb' 14 6, w.extractLsb' 6 2⟩

/-- The fields of a word in the layout of `DaF`. -/
def daFOf (w : Word) : DaF :=
  ⟨w.extractLsb' 31 1, w.extractLsb' 20 6, w.extractLsb' 14 6, w.extractLsb' 6 2⟩

/-- The fields of a word in the layout of `CmpF`. -/
def cmpFOf (w : Word) : CmpF :=
  ⟨w.extractLsb' 31 1, w.extractLsb' 20 3, w.extractLsb' 14 6, w.extractLsb' 8 6, w.extractLsb' 6 2, w.extractLsb' 5 1, w.extractLsb' 4 1⟩

/-- The fields of a word in the layout of `Pred3F`. -/
def pred3FOf (w : Word) : Pred3F :=
  ⟨w.extractLsb' 31 1, w.extractLsb' 20 3, w.extractLsb' 14 3, w.extractLsb' 8 3⟩

/-- The fields of a word in the layout of `Pred2F`. -/
def pred2FOf (w : Word) : Pred2F :=
  ⟨w.extractLsb' 31 1, w.extractLsb' 20 3, w.extractLsb' 14 3⟩

/-- The fields of a word in the layout of `PsetF`. -/
def psetFOf (w : Word) : PsetF :=
  ⟨w.extractLsb' 31 1, w.extractLsb' 20 3, w.extractLsb' 14 6, w.extractLsb' 6 2, w.extractLsb' 5 1⟩

/-- The fields of a word in the layout of `Byte4F`. -/
def byte4FOf (w : Word) : Byte4F :=
  ⟨w.extractLsb' 31 1, w.extractLsb' 20 6, w.extractLsb' 14 6, w.extractLsb' 8 2, w.extractLsb' 6 2, w.extractLsb' 5 1⟩

/-- The fields of a word in the layout of `Nib8F`. -/
def nib8FOf (w : Word) : Nib8F :=
  ⟨w.extractLsb' 31 1, w.extractLsb' 20 6, w.extractLsb' 14 6, w.extractLsb' 8 3, w.extractLsb' 6 2, w.extractLsb' 5 1⟩

/-- The fields of a word in the layout of `SfuF`. -/
def sfuFOf (w : Word) : SfuF :=
  ⟨w.extractLsb' 31 1, w.extractLsb' 20 6, w.extractLsb' 14 6, w.extractLsb' 6 2, w.extractLsb' 5 1, w.extractLsb' 4 1⟩

/-- The fields of a word in the layout of `JumpF`. -/
def jumpFOf (w : Word) : JumpF :=
  ⟨w.extractLsb' 31 1, w.extractLsb' 4 18⟩

/-- The fields of a word in the layout of `CondF`. -/
def condFOf (w : Word) : CondF :=
  ⟨w.extractLsb' 31 1, w.extractLsb' 23 3, w.extractLsb' 22 1, w.extractLsb' 4 18⟩

/-- The fields of a word in the layout of `StopF`. -/
def stopFOf (w : Word) : StopF :=
  ⟨w.extractLsb' 31 1⟩

/-- The fields of a word in the layout of `LoopF`. -/
def loopFOf (w : Word) : LoopF :=
  ⟨w.extractLsb' 31 1, w.extractLsb' 23 3, w.extractLsb' 4 18⟩

/-- The fields of a word in the layout of `TakeF`. -/
def takeFOf (w : Word) : TakeF :=
  ⟨w.extractLsb' 31 1, w.extractLsb' 20 6, w.extractLsb' 8 3⟩

/-- The fields of a word in the layout of `StealF`. -/
def stealFOf (w : Word) : StealF :=
  ⟨w.extractLsb' 31 1, w.extractLsb' 20 6, w.extractLsb' 14 6, w.extractLsb' 8 3, w.extractLsb' 6 2⟩

/-- The fields of a word in the layout of `DabF`. -/
def dabFOf (w : Word) : DabF :=
  ⟨w.extractLsb' 31 1, w.extractLsb' 20 6, w.extractLsb' 14 6, w.extractLsb' 8 6, w.extractLsb' 6 2⟩

/-- The fields of a word in the layout of `DstF`. -/
def dstFOf (w : Word) : DstF :=
  ⟨w.extractLsb' 31 1, w.extractLsb' 20 6⟩

/-- The fields of a word in the layout of `RawBF`. -/
def rawBFOf (w : Word) : RawBF :=
  ⟨w.extractLsb' 31 1, w.extractLsb' 8 6⟩

/-- The fields of a word in the layout of `ScopeF`. -/
def scopeFOf (w : Word) : ScopeF :=
  ⟨w.extractLsb' 31 1, w.extractLsb' 20 6, w.extractLsb' 8 6⟩

/-- The fields of a word in the layout of `LdF`. -/
def ldFOf (w : Word) : LdF :=
  ⟨w.extractLsb' 31 1, w.extractLsb' 25 1, w.extractLsb' 20 5, w.extractLsb' 14 6, w.extractLsb' 11 3, w.extractLsb' 7 4, w.extractLsb' 5 2, w.extractLsb' 3 2⟩

/-- The fields of a word in the layout of `StF`. -/
def stFOf (w : Word) : StF :=
  ⟨w.extractLsb' 31 1, w.extractLsb' 20 6, w.extractLsb' 14 6, w.extractLsb' 11 3, w.extractLsb' 7 4, w.extractLsb' 5 2, w.extractLsb' 3 2⟩

/-- The fields of a word in the layout of `RedF`. -/
def redFOf (w : Word) : RedF :=
  ⟨w.extractLsb' 31 1, w.extractLsb' 14 6, w.extractLsb' 8 6, w.extractLsb' 6 2, w.extractLsb' 5 1, w.extractLsb' 4 1⟩

/-- The fields of a word in the layout of `KeyF`. -/
def keyFOf (w : Word) : KeyF :=
  ⟨w.extractLsb' 31 1, w.extractLsb' 14 6, w.extractLsb' 6 2, w.extractLsb' 5 1⟩

/-- The fields of a word in the layout of `QueryF`. -/
def queryFOf (w : Word) : QueryF :=
  ⟨w.extractLsb' 31 1, w.extractLsb' 20 6, w.extractLsb' 14 6, w.extractLsb' 8 1, w.extractLsb' 6 2, w.extractLsb' 5 1⟩

/-- The fields of a word in the layout of `CpyF`. -/
def cpyFOf (w : Word) : CpyF :=
  ⟨w.extractLsb' 31 1, w.extractLsb' 20 6, w.extractLsb' 14 6, w.extractLsb' 8 6, w.extractLsb' 6 2, w.extractLsb' 5 1, w.extractLsb' 4 1⟩

/-- The fields of a word in the layout of `TagF`. -/
def tagFOf (w : Word) : TagF :=
  ⟨w.extractLsb' 31 1, w.extractLsb' 8 2⟩

/-- The fields of a word in the layout of `TagDF`. -/
def tagDFOf (w : Word) : TagDF :=
  ⟨w.extractLsb' 31 1, w.extractLsb' 20 6, w.extractLsb' 8 2⟩

/-- The fields of a word in the layout of `EnqF`. -/
def enqFOf (w : Word) : EnqF :=
  ⟨w.extractLsb' 31 1, w.extractLsb' 20 6, w.extractLsb' 14 5, w.extractLsb' 8 3, w.extractLsb' 6 2, w.extractLsb' 5 1⟩

/-- The fields of a word in the layout of `EngF`. -/
def engFOf (w : Word) : EngF :=
  ⟨w.extractLsb' 31 1, w.extractLsb' 20 6, w.extractLsb' 8 3⟩

/-- The fields of a word in the layout of `VarF`. -/
def varFOf (w : Word) : VarF :=
  ⟨w.extractLsb' 31 1, w.extractLsb' 21 5, w.extractLsb' 16 5, w.extractLsb' 11 5, w.extractLsb' 10 1, w.extractLsb' 4 5⟩

/-- The fields of a word in the layout of `VunF`. -/
def vunFOf (w : Word) : VunF :=
  ⟨w.extractLsb' 31 1, w.extractLsb' 21 5, w.extractLsb' 16 5, w.extractLsb' 10 1⟩

/-- The fields of a word in the layout of `VsubF`. -/
def vsubFOf (w : Word) : VsubF :=
  ⟨w.extractLsb' 31 1, w.extractLsb' 21 5, w.extractLsb' 16 5, w.extractLsb' 11 5, w.extractLsb' 10 1, w.extractLsb' 4 6⟩

/-- The fields of a word in the layout of `VredF`. -/
def vredFOf (w : Word) : VredF :=
  ⟨w.extractLsb' 31 1, w.extractLsb' 21 5, w.extractLsb' 16 5, w.extractLsb' 10 1, w.extractLsb' 4 6⟩

/-- The fields of a word in the layout of `VdaF`. -/
def vdaFOf (w : Word) : VdaF :=
  ⟨w.extractLsb' 31 1, w.extractLsb' 21 5, w.extractLsb' 16 5⟩

/-- The fields of a word in the layout of `VdabvF`. -/
def vdabvFOf (w : Word) : VdabvF :=
  ⟨w.extractLsb' 31 1, w.extractLsb' 21 5, w.extractLsb' 16 5, w.extractLsb' 11 5, w.extractLsb' 10 1⟩

/-- The fields of a word in the layout of `VscanF`. -/
def vscanFOf (w : Word) : VscanF :=
  ⟨w.extractLsb' 31 1, w.extractLsb' 21 5, w.extractLsb' 16 5, w.extractLsb' 10 1, w.extractLsb' 4 4⟩

/-- The fields of a word in the layout of `VdabF`. -/
def vdabFOf (w : Word) : VdabF :=
  ⟨w.extractLsb' 31 1, w.extractLsb' 21 5, w.extractLsb' 16 5, w.extractLsb' 11 5⟩

/-- The fields of a word in the layout of `VidxF`. -/
def vidxFOf (w : Word) : VidxF :=
  ⟨w.extractLsb' 31 1, w.extractLsb' 21 5, w.extractLsb' 16 5, w.extractLsb' 11 5, w.extractLsb' 10 1, w.extractLsb' 4 5⟩

/-- The fields of a word in the layout of `MloadF`. -/
def mloadFOf (w : Word) : MloadF :=
  ⟨w.extractLsb' 31 1, w.extractLsb' 21 1, w.extractLsb' 16 5, w.extractLsb' 11 5, w.extractLsb' 5 1, w.extractLsb' 4 1⟩

/-- The fields of a word in the layout of `MpassF`. -/
def mpassFOf (w : Word) : MpassF :=
  ⟨w.extractLsb' 31 1, w.extractLsb' 21 3, w.extractLsb' 16 5, w.extractLsb' 11 5, w.extractLsb' 5 1, w.extractLsb' 4 1⟩

/-- The fields of a word in the layout of `MdrainF`. -/
def mdrainFOf (w : Word) : MdrainF :=
  ⟨w.extractLsb' 31 1, w.extractLsb' 21 5, w.extractLsb' 16 3, w.extractLsb' 11 5, w.extractLsb' 7 1, w.extractLsb' 6 1, w.extractLsb' 4 2⟩

/-- The fields of a word in the layout of `AccF`. -/
def accFOf (w : Word) : AccF :=
  ⟨w.extractLsb' 31 1, w.extractLsb' 21 3⟩

/-- The fields of a word in the layout of `BankF`. -/
def bankFOf (w : Word) : BankF :=
  ⟨w.extractLsb' 31 1, w.extractLsb' 21 1⟩

/-- The fields of a word in the layout of `VaF`. -/
def vaFOf (w : Word) : VaF :=
  ⟨w.extractLsb' 31 1, w.extractLsb' 16 5⟩

/-- The fields of a word in the layout of `TplaneF`. -/
def tplaneFOf (w : Word) : TplaneF :=
  ⟨w.extractLsb' 31 1, w.extractLsb' 21 5, w.extractLsb' 16 5, w.extractLsb' 11 5, w.extractLsb' 4 1⟩

/-- The fields of a word in the layout of `TunF`. -/
def tunFOf (w : Word) : TunF :=
  ⟨w.extractLsb' 31 1, w.extractLsb' 21 5, w.extractLsb' 16 5, w.extractLsb' 11 5, w.extractLsb' 4 2⟩

/-- The fields of a word in the layout of `TrotF`. -/
def trotFOf (w : Word) : TrotF :=
  ⟨w.extractLsb' 31 1, w.extractLsb' 21 5, w.extractLsb' 16 5, w.extractLsb' 11 5, w.extractLsb' 4 1⟩

/-- The fields of a word in the layout of `TtransF`. -/
def ttransFOf (w : Word) : TtransF :=
  ⟨w.extractLsb' 31 1, w.extractLsb' 21 5, w.extractLsb' 16 5, w.extractLsb' 11 5, w.extractLsb' 4 1⟩

/-- The fields of a word in the layout of `XfmtF`. -/
def xfmtFOf (w : Word) : XfmtF :=
  ⟨w.extractLsb' 31 1, w.extractLsb' 21 5, w.extractLsb' 16 5, w.extractLsb' 4 5⟩

/-- The fields of a word in the layout of `TrapF`. -/
def trapFOf (w : Word) : TrapF :=
  ⟨w.extractLsb' 31 1, w.extractLsb' 14 6, w.extractLsb' 8 6, w.extractLsb' 6 2, w.extractLsb' 5 1⟩

/-- The fields of a word in the layout of `ResolveF`. -/
def resolveFOf (w : Word) : ResolveF :=
  ⟨w.extractLsb' 31 1, w.extractLsb' 20 2, w.extractLsb' 14 6, w.extractLsb' 8 6, w.extractLsb' 6 2, w.extractLsb' 5 1, w.extractLsb' 4 1⟩

/-- The fields of a word in the layout of `XrdF`. -/
def xrdFOf (w : Word) : XrdF :=
  ⟨w.extractLsb' 31 1, w.extractLsb' 20 6, w.extractLsb' 14 6, w.extractLsb' 8 6⟩

/-- The fields of a word in the layout of `XwrF`. -/
def xwrFOf (w : Word) : XwrF :=
  ⟨w.extractLsb' 31 1, w.extractLsb' 20 6, w.extractLsb' 14 6, w.extractLsb' 8 6, w.extractLsb' 6 2⟩

/-- Class 0, HDR (R51), by function code. -/
def decodeHdr (w : Word) : Nat → Decoded
  | _ => .ok (.clause (hdrFOf w))

/-- Class 1, GRD (R51), by function code. -/
def decodeGrd (w : Word) : Nat → Decoded
  | _ => whenFixed w [(0, 22, 0)] "GUARD" (.guard (grdFOf w))

/-- Class 2, INT (R51), by function code. -/
def decodeInt (w : Word) : Nat → Decoded
  | 0 => .ok (.add (regFOf w))
  | 1 => .ok (.sub (regFOf w))
  | 2 => .ok (.andB (regFOf w))
  | 3 => .ok (.orB (regFOf w))
  | 4 => .ok (.xorB (regFOf w))
  | 5 => .ok (.andn (regFOf w))
  | 6 => .ok (.shl (regFOf w))
  | 7 => .ok (.shr (regFOf w))
  | 8 => .ok (.sar (regFOf w))
  | 9 => .ok (.minI32 (regFOf w))
  | 10 => .ok (.maxI32 (regFOf w))
  | 11 => .ok (.minN32 (regFOf w))
  | 12 => .ok (.maxN32 (regFOf w))
  | 13 => whenFixed w [(4, 1, 0), (8, 6, 56)] "ABS_I32" (.absI32 (unFOf w))
  | 14 => .ok (.mad (regFOf w))
  | fn => .reject (.unlistedFunction 2 fn)

/-- Class 3, INT2 (R51), by function code. -/
def decodeInt2 (w : Word) : Nat → Decoded
  | 0 => .ok (.mul (regFOf w))
  | 1 => .ok (.mulhI32 (regFOf w))
  | 2 => .ok (.mulhN32 (regFOf w))
  | 3 => .ok (.divI32 (regFOf w))
  | 4 => .ok (.divN32 (regFOf w))
  | 5 => .ok (.remI32 (regFOf w))
  | 6 => .ok (.remN32 (regFOf w))
  | 7 => whenFixed w [(4, 1, 0), (8, 6, 56)] "POPC" (.popc (unFOf w))
  | 8 => whenFixed w [(4, 1, 0), (8, 6, 56)] "CLZ" (.clz (unFOf w))
  | 9 => whenFixed w [(4, 1, 0), (8, 6, 56)] "BREV" (.brev (unFOf w))
  | 10 => .ok (.bfeN32 (regFOf w))
  | 11 => .ok (.bfeI32 (regFOf w))
  | 12 => .ok (.bfi (regFOf w))
  | 13 => .ok (.addsatI32 (regFOf w))
  | 14 => .ok (.subsatI32 (regFOf w))
  | fn => .reject (.unlistedFunction 3 fn)

/-- Class 4, INTI (R51), by function code. -/
def decodeInti (w : Word) : Nat → Decoded
  | 0 => .ok (.addi (immFOf w))
  | 1 => .ok (.andi (immFOf w))
  | 2 => .ok (.ori (immFOf w))
  | 3 => .ok (.xori (immFOf w))
  | fn => .reject (.unlistedFunction 4 fn)

/-- Class 5, SHI (R51), by function code. -/
def decodeShi (w : Word) : Nat → Decoded
  | 0 => .ok (.shli (immFOf w))
  | 1 => .ok (.shri (immFOf w))
  | 2 => .ok (.sari (immFOf w))
  | 3 => .ok (.muli (immFOf w))
  | fn => .reject (.unlistedFunction 5 fn)

/-- Class 6, MOV (R51), by function code. -/
def decodeMov (w : Word) : Nat → Decoded
  | 0 => .ok (.movi (longFOf w))
  | 1 => .ok (.movh (longFOf w))
  | 2 => if fixedAt w [(4, 1, 0), (8, 6, 56)] then .ok (.mov (unFOf w)) else .ok (.movPair (regFOf w))
  | 3 => whenFixed w [(4, 2, 0), (8, 6, 56), (20, 6, 56)] "DROP" (.drop (srcFOf w))
  | 4 => whenFixed w [(4, 1, 0), (8, 6, 56)] "DUP" (.dup (unFOf w))
  | 5 => whenFixed w [(4, 2, 0), (8, 6, 56)] "QCNT" (.qcnt (daFOf w))
  | 6 => whenFixed w [(4, 2, 0), (8, 6, 56), (20, 6, 56)] "QCLR" (.qclr (srcFOf w))
  | fn => .reject (.unlistedFunction 6 fn)

/-- Class 7, CMP (R51), by function code. -/
def decodeCmp (w : Word) : Nat → Decoded
  | 0 => whenFixed w [(23, 3, 0)] "EQ" (.eq (cmpFOf w))
  | 1 => whenFixed w [(23, 3, 0)] "NE" (.ne (cmpFOf w))
  | 2 => whenFixed w [(23, 3, 0)] "LT_I32" (.ltI32 (cmpFOf w))
  | 3 => whenFixed w [(23, 3, 0)] "LE_I32" (.leI32 (cmpFOf w))
  | 4 => whenFixed w [(23, 3, 0)] "LT_N32" (.ltN32 (cmpFOf w))
  | 5 => whenFixed w [(23, 3, 0)] "LE_N32" (.leN32 (cmpFOf w))
  | 6 => whenFixed w [(23, 3, 0)] "FEQ" (.feq (cmpFOf w))
  | 7 => whenFixed w [(23, 3, 0)] "FLT" (.flt (cmpFOf w))
  | 8 => whenFixed w [(23, 3, 0)] "FLE" (.fle (cmpFOf w))
  | 9 => whenFixed w [(23, 3, 0)] "FUN" (.funF (cmpFOf w))
  | 10 => whenFixed w [(4, 4, 0), (11, 3, 0), (17, 3, 0), (23, 3, 0)] "PAND" (.pand (pred3FOf w))
  | 11 => whenFixed w [(4, 4, 0), (11, 3, 0), (17, 3, 0), (23, 3, 0)] "POR" (.por (pred3FOf w))
  | 12 => whenFixed w [(4, 4, 0), (11, 3, 0), (17, 3, 0), (23, 3, 0)] "PXOR" (.pxor (pred3FOf w))
  | 13 => whenFixed w [(4, 10, 896), (17, 3, 0), (23, 3, 0)] "PNOT" (.pnot (pred2FOf w))
  | 14 => whenFixed w [(4, 1, 0), (8, 6, 56), (23, 3, 0)] "PSET" (.pset (psetFOf w))
  | 15 => whenFixed w [(4, 10, 896), (17, 3, 0), (23, 3, 0)] "PVOTE" (.pvote (pred2FOf w))
  | fn => .reject (.unlistedFunction 7 fn)

/-- Class 8, FP (R51), by function code. -/
def decodeFp (w : Word) : Nat → Decoded
  | 0 => .ok (.fadd (regFOf w))
  | 1 => .ok (.fsub (regFOf w))
  | 2 => .ok (.fmul (regFOf w))
  | 3 => .ok (.ffma (regFOf w))
  | 4 => .ok (.fmin (regFOf w))
  | 5 => .ok (.fmax (regFOf w))
  | 6 => whenFixed w [(4, 1, 0), (8, 6, 56)] "FABS" (.fabs (unFOf w))
  | 7 => whenFixed w [(4, 1, 0), (8, 6, 56)] "FNEG" (.fneg (unFOf w))
  | 8 => .ok (.fcopysign (regFOf w))
  | 9 => whenFixed w [(4, 1, 0), (8, 6, 56)] "FFLOOR" (.ffloor (unFOf w))
  | 10 => whenFixed w [(4, 1, 0), (8, 6, 56)] "FCEIL" (.fceil (unFOf w))
  | 11 => whenFixed w [(4, 1, 0), (8, 6, 56)] "FTRUNC" (.ftrunc (unFOf w))
  | 12 => whenFixed w [(4, 1, 0), (8, 6, 56)] "FRINT" (.frint (unFOf w))
  | 13 => whenFixed w [(4, 1, 0), (8, 6, 56)] "FSAT" (.fsat (unFOf w))
  | fn => .reject (.unlistedFunction 8 fn)

/-- Class 9, FPX (R51), by function code. -/
def decodeFpx (w : Word) : Nat → Decoded
  | 0 => .ok (.haddF16x2 (regFOf w))
  | 1 => .ok (.hmulF16x2 (regFOf w))
  | 2 => .ok (.hfmaF16x2 (regFOf w))
  | 3 => .ok (.hminF16x2 (regFOf w))
  | 4 => .ok (.hmaxF16x2 (regFOf w))
  | 5 => .ok (.haddBf16x2 (regFOf w))
  | 6 => .ok (.hmulBf16x2 (regFOf w))
  | 7 => .ok (.hfmaBf16x2 (regFOf w))
  | 8 => .ok (.hminBf16x2 (regFOf w))
  | 9 => .ok (.hmaxBf16x2 (regFOf w))
  | fn => .reject (.unlistedFunction 9 fn)

/-- Class 10, CVT (R51), by function code. -/
def decodeCvt (w : Word) : Nat → Decoded
  | 0 => whenFixed w [(4, 1, 0), (8, 6, 56)] "CVT_F32_I32" (.cvtF32I32 (unFOf w))
  | 1 => whenFixed w [(4, 1, 0), (8, 6, 56)] "CVT_F32_N32" (.cvtF32N32 (unFOf w))
  | 2 => whenFixed w [(4, 1, 0), (8, 6, 56)] "CVT_I32_F32" (.cvtI32F32 (unFOf w))
  | 3 => whenFixed w [(4, 1, 0), (8, 6, 56)] "CVT_N32_F32" (.cvtN32F32 (unFOf w))
  | 4 => whenFixed w [(4, 1, 0), (8, 6, 56)] "CVT_I32_F32_RZ" (.cvtI32F32Rz (unFOf w))
  | 5 => .ok (.cvtF16x2F32 (regFOf w))
  | 6 => .ok (.cvtBf16x2F32 (regFOf w))
  | 7 => whenFixed w [(4, 1, 0), (8, 6, 56)] "CVT_F32_F16" (.cvtF32F16 (unFOf w))
  | 8 => whenFixed w [(4, 1, 0), (8, 6, 56)] "CVT_F32_F16H" (.cvtF32F16h (unFOf w))
  | 9 => whenFixed w [(4, 1, 0), (8, 6, 56)] "CVT_F32_BF16" (.cvtF32Bf16 (unFOf w))
  | 10 => whenFixed w [(4, 1, 0), (8, 6, 56)] "CVT_F32_BF16H" (.cvtF32Bf16h (unFOf w))
  | 11 => whenFixed w [(4, 1, 0), (10, 4, 0)] "CVT_F32_E4M3" (.cvtF32E4m3 (byte4FOf w))
  | 12 => whenFixed w [(4, 1, 0), (10, 4, 0)] "CVT_F32_E5M2" (.cvtF32E5m2 (byte4FOf w))
  | 13 => whenFixed w [(4, 1, 0), (11, 3, 0)] "CVT_F32_E2M1" (.cvtF32E2m1 (nib8FOf w))
  | 14 => whenFixed w [(4, 1, 0), (8, 6, 56)] "CVT_E4M3_F32" (.cvtE4m3F32 (unFOf w))
  | 15 => whenFixed w [(4, 1, 0), (8, 6, 56)] "CVT_E5M2_F32" (.cvtE5m2F32 (unFOf w))
  | fn => .reject (.unlistedFunction 10 fn)

/-- Class 11, SFU (R51), by function code. -/
def decodeSfu (w : Word) : Nat → Decoded
  | 0 => whenFixed w [(8, 6, 56)] "RCP" (.rcp (sfuFOf w))
  | 1 => whenFixed w [(8, 6, 56)] "RSQRT" (.rsqrt (sfuFOf w))
  | 2 => whenFixed w [(8, 6, 56)] "SQRT" (.sqrt (sfuFOf w))
  | 3 => whenFixed w [(8, 6, 56)] "EXP2" (.exp2 (sfuFOf w))
  | 4 => whenFixed w [(8, 6, 56)] "LOG2" (.log2 (sfuFOf w))
  | 5 => whenFixed w [(8, 6, 56)] "SIN" (.sin (sfuFOf w))
  | 6 => whenFixed w [(8, 6, 56)] "COS" (.cos (sfuFOf w))
  | 7 => whenFixed w [(8, 6, 56)] "TANH" (.tanh (sfuFOf w))
  | 8 => whenFixed w [(8, 6, 56)] "SIGM" (.sigm (sfuFOf w))
  | 9 => .ok (.divF32 (regFOf w))
  | fn => .reject (.unlistedFunction 11 fn)

/-- Class 12, BR (R51), by function code. -/
def decodeBr (w : Word) : Nat → Decoded
  | 0 => whenFixed w [(22, 4, 14)] "BR" (.br (jumpFOf w))
  | 1 => .ok (.bpa (condFOf w))
  | 2 => .ok (.bpn (condFOf w))
  | 3 => .ok (.bif (condFOf w))
  | 4 => whenFixed w [(22, 4, 14)] "BELSE" (.belse (jumpFOf w))
  | 5 => whenFixed w [(4, 22, 3670016)] "BJOIN" (.bjoin (stopFOf w))
  | 6 => whenFixed w [(22, 4, 14)] "CALL" (.call (jumpFOf w))
  | 7 => whenFixed w [(4, 22, 3670016)] "RET" (.ret (stopFOf w))
  | 8 => whenFixed w [(4, 2, 0), (8, 6, 56), (20, 6, 56)] "BRX" (.brx (srcFOf w))
  | 9 => whenFixed w [(22, 1, 0)] "LOOP" (.loopG (loopFOf w))
  | fn => .reject (.unlistedFunction 12 fn)

/-- Class 13, TASK (R51), by function code. -/
def decodeTask (w : Word) : Nat → Decoded
  | 0 => whenFixed w [(4, 2, 0), (8, 6, 56), (20, 6, 56)] "FORK" (.fork (srcFOf w))
  | 1 => whenFixed w [(4, 4, 0), (11, 9, 448)] "TAKE" (.takeT (takeFOf w))
  | 2 => whenFixed w [(4, 2, 0), (11, 3, 0)] "STEAL" (.steal (stealFOf w))
  | 3 => whenFixed w [(4, 2, 0)] "DQCONF" (.dqconf (dabFOf w))
  | 4 => whenFixed w [(4, 16, 58240)] "DQCOUNT" (.dqcount (dstFOf w))
  | 5 => whenFixed w [(4, 2, 0), (8, 6, 56)] "LAUNCH" (.launch (daFOf w))
  | 6 => whenFixed w [(4, 2, 0), (8, 6, 56)] "CWAIT" (.cwait (daFOf w))
  | 7 => whenFixed w [(4, 22, 3728256)] "EXIT" (.exitT (stopFOf w))
  | 8 => whenFixed w [(4, 22, 3728256)] "YIELD" (.yield (stopFOf w))
  | 9 => whenFixed w [(4, 2, 0), (8, 6, 56)] "VCLAIM" (.vclaim (daFOf w))
  | 10 => whenFixed w [(4, 2, 0), (8, 6, 56)] "VGIVE" (.vgive (daFOf w))
  | 11 => whenFixed w [(4, 2, 0), (8, 6, 56)] "ROLE" (.role (daFOf w))
  | fn => .reject (.unlistedFunction 13 fn)

/-- Class 14, SYNC (R51), by function code. -/
def decodeSync (w : Word) : Nat → Decoded
  | 0 => whenFixed w [(4, 4, 0), (14, 12, 3640)] "BAR_ARRIVE" (.barArrive (rawBFOf w))
  | 1 => whenFixed w [(4, 4, 0), (14, 12, 3640)] "BAR_WAIT" (.barWait (rawBFOf w))
  | 2 => whenFixed w [(4, 4, 0), (14, 12, 3640)] "BAR_SYNC" (.barSync (rawBFOf w))
  | 3 => whenFixed w [(4, 2, 0)] "BAR_LINK" (.barLink (dabFOf w))
  | 4 => whenFixed w [(4, 4, 0), (14, 12, 3640)] "FENCE_ACQ" (.fenceAcq (rawBFOf w))
  | 5 => whenFixed w [(4, 4, 0), (14, 12, 3640)] "FENCE_REL" (.fenceRel (rawBFOf w))
  | 6 => whenFixed w [(4, 4, 0), (14, 12, 3640)] "FENCE_AR" (.fenceAr (rawBFOf w))
  | 7 => whenFixed w [(4, 22, 3728256)] "MARK" (.mark (stopFOf w))
  | 8 => whenFixed w [(4, 4, 0), (14, 6, 56)] "SCOPE" (.scope (scopeFOf w))
  | 9 => whenFixed w [(4, 2, 0)] "BAR_COUNT" (.barCount (dabFOf w))
  | fn => .reject (.unlistedFunction 14 fn)

/-- Class 15, LD (R51), by function code. -/
def decodeLd (w : Word) : Nat → Decoded
  | 0 => .ok (.ldS (ldFOf w))
  | 1 => .ok (.ldG (ldFOf w))
  | 2 => .ok (.ldGAcq (ldFOf w))
  | 3 => .ok (.ldGNc (ldFOf w))
  | 4 => .ok (.ldW (ldFOf w))
  | fn => .reject (.unlistedFunction 15 fn)

/-- Class 16, ST (R51), by function code. -/
def decodeSt (w : Word) : Nat → Decoded
  | 0 => .ok (.stS (stFOf w))
  | 1 => .ok (.stG (stFOf w))
  | 2 => .ok (.stGRel (stFOf w))
  | 3 => .ok (.stGNc (stFOf w))
  | 4 => .ok (.stW (stFOf w))
  | fn => .reject (.unlistedFunction 16 fn)

/-- Class 17, ATOM (R51), by function code. -/
def decodeAtom (w : Word) : Nat → Decoded
  | 0 => .ok (.atomAdd (regFOf w))
  | 1 => .ok (.atomMinI32 (regFOf w))
  | 2 => .ok (.atomMaxI32 (regFOf w))
  | 3 => .ok (.atomMinN32 (regFOf w))
  | 4 => .ok (.atomMaxN32 (regFOf w))
  | 5 => .ok (.atomAnd (regFOf w))
  | 6 => .ok (.atomOr (regFOf w))
  | 7 => .ok (.atomXor (regFOf w))
  | 8 => .ok (.atomXchg (regFOf w))
  | 9 => .ok (.atomCas (regFOf w))
  | 10 => .ok (.atomFaddF32 (regFOf w))
  | 11 => .ok (.atomIncw (regFOf w))
  | fn => .reject (.unlistedFunction 17 fn)

/-- Class 18, RED (R51), by function code. -/
noncomputable def decodeRed (w : Word) : Nat → Decoded
  | 0 => whenFixed w [(20, 6, 56)] "RED_ADD" (.redAdd (redFOf w))
  | 1 => whenFixed w [(20, 6, 56)] "RED_MIN_I32" (.redMinI32 (redFOf w))
  | 2 => whenFixed w [(20, 6, 56)] "RED_MAX_I32" (.redMaxI32 (redFOf w))
  | 3 => whenFixed w [(20, 6, 56)] "RED_MIN_N32" (.redMinN32 (redFOf w))
  | 4 => whenFixed w [(20, 6, 56)] "RED_MAX_N32" (.redMaxN32 (redFOf w))
  | 5 => whenFixed w [(20, 6, 56)] "RED_AND" (.redAnd (redFOf w))
  | 6 => whenFixed w [(20, 6, 56)] "RED_OR" (.redOr (redFOf w))
  | 7 => whenFixed w [(20, 6, 56)] "RED_XOR" (.redXor (redFOf w))
  | 8 => whenFixed w [(20, 6, 56)] "RED_FADD_F32" (.redFaddF32 (redFOf w))
  | 9 => whenFixed w [(20, 6, 56)] "RED_FADD_BF16X2" (.redFaddBf16x2 (redFOf w))
  | fn => .reject (.unlistedFunction 18 fn)

/-- Class 19, ORD (R51), by function code. -/
noncomputable def decodeOrd (w : Word) : Nat → Decoded
  | 0 => .ok (.osinit (regFOf w))
  | 1 => whenFixed w [(23, 3, 0)] "OSENTER" (.osenter (cmpFOf w))
  | 2 => .ok (.ostry (regFOf w))
  | 3 => whenFixed w [(4, 1, 0), (8, 6, 56), (20, 6, 56)] "OSLEAVE" (.osleave (keyFOf w))
  | 4 => whenFixed w [(4, 1, 0), (9, 5, 0)] "OSQUERY" (.osquery (queryFOf w))
  | 5 => whenFixed w [(4, 1, 0), (8, 6, 56)] "OSDROP" (.osdrop (unFOf w))
  | fn => .reject (.unlistedFunction 19 fn)

/-- Class 20, CPY (R51), by function code. -/
noncomputable def decodeCpy (w : Word) : Nat → Decoded
  | 0 => .ok (.cpyG2s4 (cpyFOf w))
  | 1 => .ok (.cpyG2s8 (cpyFOf w))
  | 2 => .ok (.cpyG2s16 (cpyFOf w))
  | 3 => .ok (.cpyG2s32 (cpyFOf w))
  | 4 => .ok (.cpyS2g4 (cpyFOf w))
  | 5 => .ok (.cpyS2g8 (cpyFOf w))
  | 6 => .ok (.cpyS2g16 (cpyFOf w))
  | 7 => .ok (.cpyS2g32 (cpyFOf w))
  | 8 => whenFixed w [(4, 4, 0), (10, 16, 58240)] "WAITTAG" (.waittag (tagFOf w))
  | 9 => whenFixed w [(4, 4, 0), (10, 10, 896)] "TAGCNT" (.tagcnt (tagDFOf w))
  | fn => .reject (.unlistedFunction 20 fn)

/-- Class 21, ENG (R51), by function code. -/
noncomputable def decodeEng (w : Word) : Nat → Decoded
  | 0 => whenFixed w [(4, 1, 0), (11, 3, 0), (19, 1, 0)] "ENQ" (.enq (enqFOf w))
  | 1 => whenFixed w [(4, 1, 0), (8, 6, 56)] "SLEEPTO" (.sleepto (unFOf w))
  | 2 => whenFixed w [(4, 4, 0), (11, 9, 448)] "ENQSTAT" (.enqstat (engFOf w))
  | fn => .reject (.unlistedFunction 21 fn)

/-- Class 22, SEM (R51), by function code. -/
noncomputable def decodeSem (w : Word) : Nat → Decoded
  | 0 => whenFixed w [(4, 2, 0), (8, 6, 56)] "SEMINIT" (.seminit (daFOf w))
  | 1 => whenFixed w [(4, 2, 0)] "SEMARM" (.semarm (dabFOf w))
  | 2 => whenFixed w [(4, 2, 0)] "SEMEXP" (.semexp (dabFOf w))
  | 3 => whenFixed w [(4, 2, 0)] "SEMARR" (.semarr (dabFOf w))
  | 4 => whenFixed w [(4, 2, 0), (8, 6, 56)] "SEMWAIT" (.semwait (daFOf w))
  | 5 => whenFixed w [(4, 2, 0), (8, 6, 56)] "SEMTEST" (.semtest (daFOf w))
  | fn => .reject (.unlistedFunction 22 fn)

/-- Class 23, VEC (R51), by function code. -/
noncomputable def decodeVec (w : Word) : Nat → Decoded
  | 0 => whenFixed w [(9, 1, 0)] "VADD" (.vadd (varFOf w))
  | 1 => whenFixed w [(9, 1, 0)] "VSUB" (.vsub (varFOf w))
  | 2 => whenFixed w [(9, 1, 0)] "VMUL" (.vmul (varFOf w))
  | 3 => whenFixed w [(9, 1, 0)] "VFMA" (.vfma (varFOf w))
  | 4 => whenFixed w [(9, 1, 0)] "VMAX" (.vmax (varFOf w))
  | 5 => whenFixed w [(9, 1, 0)] "VMIN" (.vmin (varFOf w))
  | 6 => whenFixed w [(4, 6, 0), (11, 5, 0)] "VEXP2" (.vexp2 (vunFOf w))
  | 7 => whenFixed w [(4, 6, 0), (11, 5, 0)] "VRCP" (.vrcp (vunFOf w))
  | 8 => whenFixed w [(4, 6, 0), (11, 5, 0)] "VRSQ" (.vrsq (vunFOf w))
  | 9 => whenFixed w [(4, 6, 0), (11, 5, 0)] "VTANH" (.vtanh (vunFOf w))
  | 10 => .ok (.vcvt (vsubFOf w))
  | 11 => whenFixed w [(11, 5, 0)] "VRED" (.vred (vredFOf w))
  | 12 => if fixedAt w [(4, 12, 0)] then .ok (.vbcast (vdaFOf w)) else whenFixed w [(4, 6, 1)] "VBCAST_ELEMENT" (.vbcastElement (vdabvFOf w))
  | 13 => .ok (.vsel (vsubFOf w))
  | 14 => whenFixed w [(4, 6, 0)] "VPERM" (.vperm (vdabvFOf w))
  | 15 => whenFixed w [(8, 2, 0), (11, 5, 0)] "VSCAN" (.vscan (vscanFOf w))
  | fn => .reject (.unlistedFunction 23 fn)

/-- Class 24, VMEM (R51), by function code. -/
noncomputable def decodeVmem (w : Word) : Nat → Decoded
  | 0 => whenFixed w [(4, 7, 0)] "VLD" (.vld (vdabFOf w))
  | 1 => whenFixed w [(4, 7, 0)] "VST" (.vst (vdabFOf w))
  | 2 => whenFixed w [(4, 7, 0)] "VLD_STR" (.vldStr (vdabFOf w))
  | 3 => whenFixed w [(4, 7, 0)] "VST_STR" (.vstStr (vdabFOf w))
  | 4 => whenFixed w [(9, 1, 0)] "VGATH" (.vgath (vidxFOf w))
  | 5 => whenFixed w [(9, 1, 0)] "VSCAT" (.vscat (vidxFOf w))
  | fn => .reject (.unlistedFunction 24 fn)

/-- Class 25, MAT (R51), by function code. -/
noncomputable def decodeMat (w : Word) : Nat → Decoded
  | 0 => whenFixed w [(6, 5, 0), (22, 4, 0)] "MLOAD" (.mload (mloadFOf w))
  | 1 => whenFixed w [(6, 5, 0), (24, 2, 0)] "MPASS" (.mpass (mpassFOf w))
  | 2 => whenFixed w [(6, 5, 0), (24, 2, 0)] "MJOIN" (.mjoin (mpassFOf w))
  | 3 => whenFixed w [(8, 3, 0), (19, 2, 0)] "MDRAIN" (.mdrain (mdrainFOf w))
  | 4 => whenFixed w [(4, 17, 0), (24, 2, 0)] "MZERO" (.mzero (accFOf w))
  | 5 => whenFixed w [(4, 17, 0), (22, 4, 0)] "MSWAP" (.mswap (bankFOf w))
  | 6 => whenFixed w [(4, 12, 0)] "MENGAGE" (.mengage (vdaFOf w))
  | 7 => whenFixed w [(4, 17, 0), (22, 4, 0)] "MFREE" (.mfree (bankFOf w))
  | 8 => whenFixed w [(4, 12, 0), (21, 5, 0)] "MFENCE" (.mfence (vaFOf w))
  | 9 => whenFixed w [(4, 12, 0)] "MWAIT" (.mwait (vdaFOf w))
  | fn => .reject (.unlistedFunction 25 fn)

/-- Class 26, PLANE (R51), by function code. -/
noncomputable def decodePlane (w : Word) : Nat → Decoded
  | 0 => whenFixed w [(5, 6, 0)] "TPLANE" (.tplane (tplaneFOf w))
  | 1 => whenFixed w [(6, 5, 0)] "TUNPLANE" (.tunplane (tunFOf w))
  | 2 => whenFixed w [(5, 6, 0)] "TROT" (.trot (trotFOf w))
  | 3 => whenFixed w [(4, 7, 0)] "TQUANT" (.tquant (vdabFOf w))
  | 4 => whenFixed w [(4, 7, 0)] "TDEQUANT" (.tdequant (vdabFOf w))
  | 5 => whenFixed w [(4, 7, 0)] "TWIN" (.twin (vdabFOf w))
  | 6 => whenFixed w [(5, 6, 0)] "TTRANS" (.ttrans (ttransFOf w))
  | 7 => whenFixed w [(9, 7, 0)] "XFMT" (.xfmt (xfmtFOf w))
  | fn => .reject (.unlistedFunction 26 fn)

/-- Class 27, SPEC (R51), by function code. -/
noncomputable def decodeSpec (w : Word) : Nat → Decoded
  | 0 => whenFixed w [(4, 2, 0)] "SKTRACK" (.sktrack (dabFOf w))
  | 1 => whenFixed w [(4, 2, 0)] "SKREAD" (.skread (dabFOf w))
  | 2 => whenFixed w [(4, 2, 0), (8, 6, 56)] "SKWAIT" (.skwait (daFOf w))
  | 3 => whenFixed w [(4, 2, 0), (8, 6, 56)] "SKABORT" (.skabort (daFOf w))
  | 4 => whenFixed w [(4, 2, 0), (8, 6, 56)] "SKSTAT" (.skstat (daFOf w))
  | 5 => whenFixed w [(4, 2, 0)] "SKPOST" (.skpost (dabFOf w))
  | fn => .reject (.unlistedFunction 27 fn)

/-- Class 28, GFX (R51), by function code. -/
noncomputable def decodeGfx (w : Word) : Nat → Decoded
  | 0 => .ok (.tsetup (regFOf w))
  | 1 => .ok (.rstep (regFOf w))
  | 2 => .ok (.bxtest (regFOf w))
  | 3 => .ok (.txf (regFOf w))
  | 4 => .ok (.fgrid (regFOf w))
  | 5 => .ok (.tritest (regFOf w))
  | 6 => .ok (.gwrite (regFOf w))
  | fn => .reject (.unlistedFunction 28 fn)

/-- Class 29, SYS (R51), by function code. -/
noncomputable def decodeSys (w : Word) : Nat → Decoded
  | 0 => whenFixed w [(4, 22, 3728256)] "NOP" (.nop (stopFOf w))
  | 1 => whenFixed w [(4, 1, 0), (20, 6, 56)] "TRAP" (.trap (trapFOf w))
  | 2 => whenFixed w [(4, 22, 3728256)] "ERET" (.eret (stopFOf w))
  | 3 => whenFixed w [(22, 4, 0)] "RESOLVE" (.resolve (resolveFOf w))
  | 4 => whenFixed w [(4, 4, 0)] "XRD" (.xrd (xrdFOf w))
  | 5 => whenFixed w [(4, 2, 0)] "XWR" (.xwr (xwrFOf w))
  | 6 => whenFixed w [(4, 22, 3728256)] "HALT" (.halt (stopFOf w))
  | 7 => whenFixed w [(4, 22, 3728256)] "BRK" (.brk (stopFOf w))
  | 8 => whenFixed w [(4, 2, 0)] "TLBINV" (.tlbinv (dabFOf w))
  | fn => .reject (.unlistedFunction 29 fn)

/-- Class 30, MEMC (R51), by function code. -/
noncomputable def decodeMemc (w : Word) : Nat → Decoded
  | 0 => whenFixed w [(4, 2, 0)] "PIN" (.pin (dabFOf w))
  | 1 => whenFixed w [(4, 2, 0)] "UNPIN" (.unpin (dabFOf w))
  | 2 => whenFixed w [(4, 2, 0)] "PFCH" (.pfch (dabFOf w))
  | 3 => whenFixed w [(4, 2, 0), (8, 6, 56)] "FLUSH" (.flush (daFOf w))
  | 4 => whenFixed w [(4, 2, 0), (8, 6, 56)] "INVAL" (.inval (daFOf w))
  | 5 => whenFixed w [(4, 2, 0)] "EVLOAD" (.evload (dabFOf w))
  | 6 => whenFixed w [(4, 2, 0)] "PGMODE" (.pgmode (dabFOf w))
  | fn => .reject (.unlistedFunction 30 fn)

/-- The slot that a 32-bit word encodes (R25, R31, R51). -/
noncomputable def decodeWord (w : Word) : Decoded :=
  match bitsAt w 26 5 with
  | 0 => decodeHdr w 0
  | 1 => decodeGrd w 0
  | 2 => decodeInt w (bitsAt w 0 4)
  | 3 => decodeInt2 w (bitsAt w 0 4)
  | 4 => decodeInti w (bitsAt w 0 2)
  | 5 => decodeShi w (bitsAt w 0 2)
  | 6 => decodeMov w (bitsAt w 0 4)
  | 7 => decodeCmp w (bitsAt w 0 4)
  | 8 => decodeFp w (bitsAt w 0 4)
  | 9 => decodeFpx w (bitsAt w 0 4)
  | 10 => decodeCvt w (bitsAt w 0 4)
  | 11 => decodeSfu w (bitsAt w 0 4)
  | 12 => decodeBr w (bitsAt w 0 4)
  | 13 => decodeTask w (bitsAt w 0 4)
  | 14 => decodeSync w (bitsAt w 0 4)
  | 15 => decodeLd w (bitsAt w 0 3)
  | 16 => decodeSt w (bitsAt w 0 3)
  | 17 => decodeAtom w (bitsAt w 0 4)
  | 18 => decodeRed w (bitsAt w 0 4)
  | 19 => decodeOrd w (bitsAt w 0 4)
  | 20 => decodeCpy w (bitsAt w 0 4)
  | 21 => decodeEng w (bitsAt w 0 4)
  | 22 => decodeSem w (bitsAt w 0 4)
  | 23 => decodeVec w (bitsAt w 0 4)
  | 24 => decodeVmem w (bitsAt w 0 4)
  | 25 => decodeMat w (bitsAt w 0 4)
  | 26 => decodePlane w (bitsAt w 0 4)
  | 27 => decodeSpec w (bitsAt w 0 4)
  | 28 => decodeGfx w (bitsAt w 0 4)
  | 29 => decodeSys w (bitsAt w 0 4)
  | 30 => decodeMemc w (bitsAt w 0 4)
  | _ => .reject .reservedClass

/-- Bit 31 of a slot, the stop bit S (R25). -/
def stopBit (w : Word) : Bool := w.getLsbD 31

/-- A literal slot's value, sign-extended from bit 30 (R31, R34). -/
def literalValue (w : Word) : Word := (w.extractLsb' 0 31).signExtend 32

/-- The first slot of a byte string, little-endian (R3, R25), and the bytes after it. -/
noncomputable def decodeBytes : List Byte → Decoded × List Byte
  | b0 :: b1 :: b2 :: b3 :: rest => (decodeWord (b3 ++ b2 ++ b1 ++ b0), rest)
  | _ => (.reject .truncated, [])

/-- The bytes of a word as memory holds it (R3). -/
def wordBytes (w : Word) : List Byte :=
  [w.extractLsb' 0 8, w.extractLsb' 8 8, w.extractLsb' 16 8, w.extractLsb' 24 8]

/-- The instruction read from `nbits` bits of value `w`, numbered as the opcode table numbers them. Every slot has 32
bits; the word is laid out in memory order and given to the decoder. -/
noncomputable def decodeTableWord (nbits w : Nat) : Option Instr :=
  match (decodeBytes (wordBytes (BitVec.ofNat 32 (w % 2 ^ nbits)))).1 with
  | .ok i => some i
  | .reject _ => none

/-- The word made of a class, a function code, a row's fixed bits and its fields' values, each shifted to its place. -/
def packWord (cls fn fixed fields : Nat) : Word := BitVec.ofNat 32 (cls * 2 ^ 26 + fn + fixed + fields)

/-- The fields of `HdrF`, each at its place. -/
def hdrFBits (x : HdrF) : Nat :=
  x.stop.toNat * 2 ^ 31 + x.wait.toNat * 2 ^ 14 + x.setx.toNat * 2 ^ 10 + x.sety.toNat * 2 ^ 6 + x.len.toNat

/-- The fields of `GrdF`, each at its place. -/
def grdFBits (x : GrdF) : Nat :=
  x.stop.toNat * 2 ^ 31 + x.pred.toNat * 2 ^ 23 + x.neg.toNat * 2 ^ 22

/-- The fields of `RegF`, each at its place. -/
def regFBits (x : RegF) : Nat :=
  x.stop.toNat * 2 ^ 31 + x.d.toNat * 2 ^ 20 + x.a.toNat * 2 ^ 14 + x.b.toNat * 2 ^ 8 + x.port.toNat * 2 ^ 6 + x.ka.toNat * 2 ^ 5 + x.kb.toNat * 2 ^ 4

/-- The fields of `UnF`, each at its place. -/
def unFBits (x : UnF) : Nat :=
  x.stop.toNat * 2 ^ 31 + x.d.toNat * 2 ^ 20 + x.a.toNat * 2 ^ 14 + x.port.toNat * 2 ^ 6 + x.ka.toNat * 2 ^ 5

/-- The fields of `ImmF`, each at its place. -/
def immFBits (x : ImmF) : Nat :=
  x.stop.toNat * 2 ^ 31 + x.d.toNat * 2 ^ 20 + x.a.toNat * 2 ^ 14 + x.imm.toNat * 2 ^ 5 + x.ka.toNat * 2 ^ 4 + x.port.toNat * 2 ^ 2

/-- The fields of `LongF`, each at its place. -/
def longFBits (x : LongF) : Nat :=
  x.stop.toNat * 2 ^ 31 + x.d.toNat * 2 ^ 20 + x.imm.toNat * 2 ^ 4

/-- The fields of `SrcF`, each at its place. -/
def srcFBits (x : SrcF) : Nat :=
  x.stop.toNat * 2 ^ 31 + x.a.toNat * 2 ^ 14 + x.port.toNat * 2 ^ 6

/-- The fields of `DaF`, each at its place. -/
def daFBits (x : DaF) : Nat :=
  x.stop.toNat * 2 ^ 31 + x.d.toNat * 2 ^ 20 + x.a.toNat * 2 ^ 14 + x.port.toNat * 2 ^ 6

/-- The fields of `CmpF`, each at its place. -/
def cmpFBits (x : CmpF) : Nat :=
  x.stop.toNat * 2 ^ 31 + x.d.toNat * 2 ^ 20 + x.a.toNat * 2 ^ 14 + x.b.toNat * 2 ^ 8 + x.port.toNat * 2 ^ 6 + x.ka.toNat * 2 ^ 5 + x.kb.toNat * 2 ^ 4

/-- The fields of `Pred3F`, each at its place. -/
def pred3FBits (x : Pred3F) : Nat :=
  x.stop.toNat * 2 ^ 31 + x.d.toNat * 2 ^ 20 + x.a.toNat * 2 ^ 14 + x.b.toNat * 2 ^ 8

/-- The fields of `Pred2F`, each at its place. -/
def pred2FBits (x : Pred2F) : Nat :=
  x.stop.toNat * 2 ^ 31 + x.d.toNat * 2 ^ 20 + x.a.toNat * 2 ^ 14

/-- The fields of `PsetF`, each at its place. -/
def psetFBits (x : PsetF) : Nat :=
  x.stop.toNat * 2 ^ 31 + x.d.toNat * 2 ^ 20 + x.a.toNat * 2 ^ 14 + x.port.toNat * 2 ^ 6 + x.ka.toNat * 2 ^ 5

/-- The fields of `Byte4F`, each at its place. -/
def byte4FBits (x : Byte4F) : Nat :=
  x.stop.toNat * 2 ^ 31 + x.d.toNat * 2 ^ 20 + x.a.toNat * 2 ^ 14 + x.idx.toNat * 2 ^ 8 + x.port.toNat * 2 ^ 6 + x.ka.toNat * 2 ^ 5

/-- The fields of `Nib8F`, each at its place. -/
def nib8FBits (x : Nib8F) : Nat :=
  x.stop.toNat * 2 ^ 31 + x.d.toNat * 2 ^ 20 + x.a.toNat * 2 ^ 14 + x.idx.toNat * 2 ^ 8 + x.port.toNat * 2 ^ 6 + x.ka.toNat * 2 ^ 5

/-- The fields of `SfuF`, each at its place. -/
def sfuFBits (x : SfuF) : Nat :=
  x.stop.toNat * 2 ^ 31 + x.d.toNat * 2 ^ 20 + x.a.toNat * 2 ^ 14 + x.port.toNat * 2 ^ 6 + x.ka.toNat * 2 ^ 5 + x.kb.toNat * 2 ^ 4

/-- The fields of `JumpF`, each at its place. -/
def jumpFBits (x : JumpF) : Nat :=
  x.stop.toNat * 2 ^ 31 + x.off.toNat * 2 ^ 4

/-- The fields of `CondF`, each at its place. -/
def condFBits (x : CondF) : Nat :=
  x.stop.toNat * 2 ^ 31 + x.pred.toNat * 2 ^ 23 + x.neg.toNat * 2 ^ 22 + x.off.toNat * 2 ^ 4

/-- The fields of `StopF`, each at its place. -/
def stopFBits (x : StopF) : Nat :=
  x.stop.toNat * 2 ^ 31

/-- The fields of `LoopF`, each at its place. -/
def loopFBits (x : LoopF) : Nat :=
  x.stop.toNat * 2 ^ 31 + x.ctr.toNat * 2 ^ 23 + x.off.toNat * 2 ^ 4

/-- The fields of `TakeF`, each at its place. -/
def takeFBits (x : TakeF) : Nat :=
  x.stop.toNat * 2 ^ 31 + x.d.toNat * 2 ^ 20 + x.pred.toNat * 2 ^ 8

/-- The fields of `StealF`, each at its place. -/
def stealFBits (x : StealF) : Nat :=
  x.stop.toNat * 2 ^ 31 + x.d.toNat * 2 ^ 20 + x.a.toNat * 2 ^ 14 + x.pred.toNat * 2 ^ 8 + x.port.toNat * 2 ^ 6

/-- The fields of `DabF`, each at its place. -/
def dabFBits (x : DabF) : Nat :=
  x.stop.toNat * 2 ^ 31 + x.d.toNat * 2 ^ 20 + x.a.toNat * 2 ^ 14 + x.b.toNat * 2 ^ 8 + x.port.toNat * 2 ^ 6

/-- The fields of `DstF`, each at its place. -/
def dstFBits (x : DstF) : Nat :=
  x.stop.toNat * 2 ^ 31 + x.d.toNat * 2 ^ 20

/-- The fields of `RawBF`, each at its place. -/
def rawBFBits (x : RawBF) : Nat :=
  x.stop.toNat * 2 ^ 31 + x.b.toNat * 2 ^ 8

/-- The fields of `ScopeF`, each at its place. -/
def scopeFBits (x : ScopeF) : Nat :=
  x.stop.toNat * 2 ^ 31 + x.d.toNat * 2 ^ 20 + x.b.toNat * 2 ^ 8

/-- The fields of `LdF`, each at its place. -/
def ldFBits (x : LdF) : Nat :=
  x.stop.toNat * 2 ^ 31 + x.ka.toNat * 2 ^ 25 + x.d.toNat * 2 ^ 20 + x.a.toNat * 2 ^ 14 + x.gb.toNat * 2 ^ 11 + x.off.toNat * 2 ^ 7 + x.port.toNat * 2 ^ 5 + x.size.toNat * 2 ^ 3

/-- The fields of `StF`, each at its place. -/
def stFBits (x : StF) : Nat :=
  x.stop.toNat * 2 ^ 31 + x.d.toNat * 2 ^ 20 + x.a.toNat * 2 ^ 14 + x.gb.toNat * 2 ^ 11 + x.off.toNat * 2 ^ 7 + x.port.toNat * 2 ^ 5 + x.size.toNat * 2 ^ 3

/-- The fields of `RedF`, each at its place. -/
def redFBits (x : RedF) : Nat :=
  x.stop.toNat * 2 ^ 31 + x.a.toNat * 2 ^ 14 + x.b.toNat * 2 ^ 8 + x.port.toNat * 2 ^ 6 + x.ka.toNat * 2 ^ 5 + x.kb.toNat * 2 ^ 4

/-- The fields of `KeyF`, each at its place. -/
def keyFBits (x : KeyF) : Nat :=
  x.stop.toNat * 2 ^ 31 + x.a.toNat * 2 ^ 14 + x.port.toNat * 2 ^ 6 + x.ka.toNat * 2 ^ 5

/-- The fields of `QueryF`, each at its place. -/
def queryFBits (x : QueryF) : Nat :=
  x.stop.toNat * 2 ^ 31 + x.d.toNat * 2 ^ 20 + x.a.toNat * 2 ^ 14 + x.idx.toNat * 2 ^ 8 + x.port.toNat * 2 ^ 6 + x.ka.toNat * 2 ^ 5

/-- The fields of `CpyF`, each at its place. -/
def cpyFBits (x : CpyF) : Nat :=
  x.stop.toNat * 2 ^ 31 + x.d.toNat * 2 ^ 20 + x.a.toNat * 2 ^ 14 + x.b.toNat * 2 ^ 8 + x.port.toNat * 2 ^ 6 + x.tagHi.toNat * 2 ^ 5 + x.tagLo.toNat * 2 ^ 4

/-- The fields of `TagF`, each at its place. -/
def tagFBits (x : TagF) : Nat :=
  x.stop.toNat * 2 ^ 31 + x.tag.toNat * 2 ^ 8

/-- The fields of `TagDF`, each at its place. -/
def tagDFBits (x : TagDF) : Nat :=
  x.stop.toNat * 2 ^ 31 + x.d.toNat * 2 ^ 20 + x.tag.toNat * 2 ^ 8

/-- The fields of `EnqF`, each at its place. -/
def enqFBits (x : EnqF) : Nat :=
  x.stop.toNat * 2 ^ 31 + x.d.toNat * 2 ^ 20 + x.a.toNat * 2 ^ 14 + x.engine.toNat * 2 ^ 8 + x.port.toNat * 2 ^ 6 + x.ka.toNat * 2 ^ 5

/-- The fields of `EngF`, each at its place. -/
def engFBits (x : EngF) : Nat :=
  x.stop.toNat * 2 ^ 31 + x.d.toNat * 2 ^ 20 + x.engine.toNat * 2 ^ 8

/-- The fields of `VarF`, each at its place. -/
def varFBits (x : VarF) : Nat :=
  x.stop.toNat * 2 ^ 31 + x.d.toNat * 2 ^ 21 + x.a.toNat * 2 ^ 16 + x.b.toNat * 2 ^ 11 + x.vp.toNat * 2 ^ 10 + x.sub.toNat * 2 ^ 4

/-- The fields of `VunF`, each at its place. -/
def vunFBits (x : VunF) : Nat :=
  x.stop.toNat * 2 ^ 31 + x.d.toNat * 2 ^ 21 + x.a.toNat * 2 ^ 16 + x.vp.toNat * 2 ^ 10

/-- The fields of `VsubF`, each at its place. -/
def vsubFBits (x : VsubF) : Nat :=
  x.stop.toNat * 2 ^ 31 + x.d.toNat * 2 ^ 21 + x.a.toNat * 2 ^ 16 + x.b.toNat * 2 ^ 11 + x.vp.toNat * 2 ^ 10 + x.sub.toNat * 2 ^ 4

/-- The fields of `VredF`, each at its place. -/
def vredFBits (x : VredF) : Nat :=
  x.stop.toNat * 2 ^ 31 + x.d.toNat * 2 ^ 21 + x.a.toNat * 2 ^ 16 + x.vp.toNat * 2 ^ 10 + x.sub.toNat * 2 ^ 4

/-- The fields of `VdaF`, each at its place. -/
def vdaFBits (x : VdaF) : Nat :=
  x.stop.toNat * 2 ^ 31 + x.d.toNat * 2 ^ 21 + x.a.toNat * 2 ^ 16

/-- The fields of `VdabvF`, each at its place. -/
def vdabvFBits (x : VdabvF) : Nat :=
  x.stop.toNat * 2 ^ 31 + x.d.toNat * 2 ^ 21 + x.a.toNat * 2 ^ 16 + x.b.toNat * 2 ^ 11 + x.vp.toNat * 2 ^ 10

/-- The fields of `VscanF`, each at its place. -/
def vscanFBits (x : VscanF) : Nat :=
  x.stop.toNat * 2 ^ 31 + x.d.toNat * 2 ^ 21 + x.a.toNat * 2 ^ 16 + x.vp.toNat * 2 ^ 10 + x.sub.toNat * 2 ^ 4

/-- The fields of `VdabF`, each at its place. -/
def vdabFBits (x : VdabF) : Nat :=
  x.stop.toNat * 2 ^ 31 + x.d.toNat * 2 ^ 21 + x.a.toNat * 2 ^ 16 + x.b.toNat * 2 ^ 11

/-- The fields of `VidxF`, each at its place. -/
def vidxFBits (x : VidxF) : Nat :=
  x.stop.toNat * 2 ^ 31 + x.d.toNat * 2 ^ 21 + x.a.toNat * 2 ^ 16 + x.b.toNat * 2 ^ 11 + x.vp.toNat * 2 ^ 10 + x.idx.toNat * 2 ^ 4

/-- The fields of `MloadF`, each at its place. -/
def mloadFBits (x : MloadF) : Nat :=
  x.stop.toNat * 2 ^ 31 + x.bank.toNat * 2 ^ 21 + x.a.toNat * 2 ^ 16 + x.b.toNat * 2 ^ 11 + x.sety.toNat * 2 ^ 5 + x.a17.toNat * 2 ^ 4

/-- The fields of `MpassF`, each at its place. -/
def mpassFBits (x : MpassF) : Nat :=
  x.stop.toNat * 2 ^ 31 + x.acc.toNat * 2 ^ 21 + x.a.toNat * 2 ^ 16 + x.b.toNat * 2 ^ 11 + x.sety.toNat * 2 ^ 5 + x.zero.toNat * 2 ^ 4

/-- The fields of `MdrainF`, each at its place. -/
def mdrainFBits (x : MdrainF) : Nat :=
  x.stop.toNat * 2 ^ 31 + x.d.toNat * 2 ^ 21 + x.acc.toNat * 2 ^ 16 + x.b.toNat * 2 ^ 11 + x.sety.toNat * 2 ^ 7 + x.clr.toNat * 2 ^ 6 + x.fmt.toNat * 2 ^ 4

/-- The fields of `AccF`, each at its place. -/
def accFBits (x : AccF) : Nat :=
  x.stop.toNat * 2 ^ 31 + x.acc.toNat * 2 ^ 21

/-- The fields of `BankF`, each at its place. -/
def bankFBits (x : BankF) : Nat :=
  x.stop.toNat * 2 ^ 31 + x.bank.toNat * 2 ^ 21

/-- The fields of `VaF`, each at its place. -/
def vaFBits (x : VaF) : Nat :=
  x.stop.toNat * 2 ^ 31 + x.a.toNat * 2 ^ 16

/-- The fields of `TplaneF`, each at its place. -/
def tplaneFBits (x : TplaneF) : Nat :=
  x.stop.toNat * 2 ^ 31 + x.d.toNat * 2 ^ 21 + x.a.toNat * 2 ^ 16 + x.b.toNat * 2 ^ 11 + x.weight.toNat * 2 ^ 4

/-- The fields of `TunF`, each at its place. -/
def tunFBits (x : TunF) : Nat :=
  x.stop.toNat * 2 ^ 31 + x.d.toNat * 2 ^ 21 + x.a.toNat * 2 ^ 16 + x.b.toNat * 2 ^ 11 + x.tf.toNat * 2 ^ 4

/-- The fields of `TrotF`, each at its place. -/
def trotFBits (x : TrotF) : Nat :=
  x.stop.toNat * 2 ^ 31 + x.d.toNat * 2 ^ 21 + x.a.toNat * 2 ^ 16 + x.b.toNat * 2 ^ 11 + x.inv.toNat * 2 ^ 4

/-- The fields of `TtransF`, each at its place. -/
def ttransFBits (x : TtransF) : Nat :=
  x.stop.toNat * 2 ^ 31 + x.d.toNat * 2 ^ 21 + x.a.toNat * 2 ^ 16 + x.b.toNat * 2 ^ 11 + x.half.toNat * 2 ^ 4

/-- The fields of `XfmtF`, each at its place. -/
def xfmtFBits (x : XfmtF) : Nat :=
  x.stop.toNat * 2 ^ 31 + x.d.toNat * 2 ^ 21 + x.a.toNat * 2 ^ 16 + x.mask.toNat * 2 ^ 4

/-- The fields of `TrapF`, each at its place. -/
def trapFBits (x : TrapF) : Nat :=
  x.stop.toNat * 2 ^ 31 + x.a.toNat * 2 ^ 14 + x.code.toNat * 2 ^ 8 + x.port.toNat * 2 ^ 6 + x.ka.toNat * 2 ^ 5

/-- The fields of `ResolveF`, each at its place. -/
def resolveFBits (x : ResolveF) : Nat :=
  x.stop.toNat * 2 ^ 31 + x.how.toNat * 2 ^ 20 + x.a.toNat * 2 ^ 14 + x.b.toNat * 2 ^ 8 + x.port.toNat * 2 ^ 6 + x.ka.toNat * 2 ^ 5 + x.kb.toNat * 2 ^ 4

/-- The fields of `XrdF`, each at its place. -/
def xrdFBits (x : XrdF) : Nat :=
  x.stop.toNat * 2 ^ 31 + x.d.toNat * 2 ^ 20 + x.hi.toNat * 2 ^ 14 + x.lo.toNat * 2 ^ 8

/-- The fields of `XwrF`, each at its place. -/
def xwrFBits (x : XwrF) : Nat :=
  x.stop.toNat * 2 ^ 31 + x.d.toNat * 2 ^ 20 + x.hi.toNat * 2 ^ 14 + x.lo.toNat * 2 ^ 8 + x.port.toNat * 2 ^ 6

/-- The word of an instruction; an event of the opcode table has none. -/
def encode : Instr → Option Word
  | .clause x => some (packWord 0 0 0 (hdrFBits x))
  | .guard x => some (packWord 1 0 0 (grdFBits x))
  | .add x => some (packWord 2 0 0 (regFBits x))
  | .sub x => some (packWord 2 1 0 (regFBits x))
  | .andB x => some (packWord 2 2 0 (regFBits x))
  | .orB x => some (packWord 2 3 0 (regFBits x))
  | .xorB x => some (packWord 2 4 0 (regFBits x))
  | .andn x => some (packWord 2 5 0 (regFBits x))
  | .shl x => some (packWord 2 6 0 (regFBits x))
  | .shr x => some (packWord 2 7 0 (regFBits x))
  | .sar x => some (packWord 2 8 0 (regFBits x))
  | .minI32 x => some (packWord 2 9 0 (regFBits x))
  | .maxI32 x => some (packWord 2 10 0 (regFBits x))
  | .minN32 x => some (packWord 2 11 0 (regFBits x))
  | .maxN32 x => some (packWord 2 12 0 (regFBits x))
  | .absI32 x => some (packWord 2 13 14336 (unFBits x))
  | .mad x => some (packWord 2 14 0 (regFBits x))
  | .mul x => some (packWord 3 0 0 (regFBits x))
  | .mulhI32 x => some (packWord 3 1 0 (regFBits x))
  | .mulhN32 x => some (packWord 3 2 0 (regFBits x))
  | .divI32 x => some (packWord 3 3 0 (regFBits x))
  | .divN32 x => some (packWord 3 4 0 (regFBits x))
  | .remI32 x => some (packWord 3 5 0 (regFBits x))
  | .remN32 x => some (packWord 3 6 0 (regFBits x))
  | .popc x => some (packWord 3 7 14336 (unFBits x))
  | .clz x => some (packWord 3 8 14336 (unFBits x))
  | .brev x => some (packWord 3 9 14336 (unFBits x))
  | .bfeN32 x => some (packWord 3 10 0 (regFBits x))
  | .bfeI32 x => some (packWord 3 11 0 (regFBits x))
  | .bfi x => some (packWord 3 12 0 (regFBits x))
  | .addsatI32 x => some (packWord 3 13 0 (regFBits x))
  | .subsatI32 x => some (packWord 3 14 0 (regFBits x))
  | .addi x => some (packWord 4 0 0 (immFBits x))
  | .andi x => some (packWord 4 1 0 (immFBits x))
  | .ori x => some (packWord 4 2 0 (immFBits x))
  | .xori x => some (packWord 4 3 0 (immFBits x))
  | .shli x => some (packWord 5 0 0 (immFBits x))
  | .shri x => some (packWord 5 1 0 (immFBits x))
  | .sari x => some (packWord 5 2 0 (immFBits x))
  | .muli x => some (packWord 5 3 0 (immFBits x))
  | .movi x => some (packWord 6 0 0 (longFBits x))
  | .movh x => some (packWord 6 1 0 (longFBits x))
  | .mov x => some (packWord 6 2 14336 (unFBits x))
  | .movPair x => some (packWord 6 2 0 (regFBits x))
  | .drop x => some (packWord 6 3 58734592 (srcFBits x))
  | .dup x => some (packWord 6 4 14336 (unFBits x))
  | .qcnt x => some (packWord 6 5 14336 (daFBits x))
  | .qclr x => some (packWord 6 6 58734592 (srcFBits x))
  | .eq x => some (packWord 7 0 0 (cmpFBits x))
  | .ne x => some (packWord 7 1 0 (cmpFBits x))
  | .ltI32 x => some (packWord 7 2 0 (cmpFBits x))
  | .leI32 x => some (packWord 7 3 0 (cmpFBits x))
  | .ltN32 x => some (packWord 7 4 0 (cmpFBits x))
  | .leN32 x => some (packWord 7 5 0 (cmpFBits x))
  | .feq x => some (packWord 7 6 0 (cmpFBits x))
  | .flt x => some (packWord 7 7 0 (cmpFBits x))
  | .fle x => some (packWord 7 8 0 (cmpFBits x))
  | .funF x => some (packWord 7 9 0 (cmpFBits x))
  | .pand x => some (packWord 7 10 0 (pred3FBits x))
  | .por x => some (packWord 7 11 0 (pred3FBits x))
  | .pxor x => some (packWord 7 12 0 (pred3FBits x))
  | .pnot x => some (packWord 7 13 14336 (pred2FBits x))
  | .pset x => some (packWord 7 14 14336 (psetFBits x))
  | .pvote x => some (packWord 7 15 14336 (pred2FBits x))
  | .fadd x => some (packWord 8 0 0 (regFBits x))
  | .fsub x => some (packWord 8 1 0 (regFBits x))
  | .fmul x => some (packWord 8 2 0 (regFBits x))
  | .ffma x => some (packWord 8 3 0 (regFBits x))
  | .fmin x => some (packWord 8 4 0 (regFBits x))
  | .fmax x => some (packWord 8 5 0 (regFBits x))
  | .fabs x => some (packWord 8 6 14336 (unFBits x))
  | .fneg x => some (packWord 8 7 14336 (unFBits x))
  | .fcopysign x => some (packWord 8 8 0 (regFBits x))
  | .ffloor x => some (packWord 8 9 14336 (unFBits x))
  | .fceil x => some (packWord 8 10 14336 (unFBits x))
  | .ftrunc x => some (packWord 8 11 14336 (unFBits x))
  | .frint x => some (packWord 8 12 14336 (unFBits x))
  | .fsat x => some (packWord 8 13 14336 (unFBits x))
  | .haddF16x2 x => some (packWord 9 0 0 (regFBits x))
  | .hmulF16x2 x => some (packWord 9 1 0 (regFBits x))
  | .hfmaF16x2 x => some (packWord 9 2 0 (regFBits x))
  | .hminF16x2 x => some (packWord 9 3 0 (regFBits x))
  | .hmaxF16x2 x => some (packWord 9 4 0 (regFBits x))
  | .haddBf16x2 x => some (packWord 9 5 0 (regFBits x))
  | .hmulBf16x2 x => some (packWord 9 6 0 (regFBits x))
  | .hfmaBf16x2 x => some (packWord 9 7 0 (regFBits x))
  | .hminBf16x2 x => some (packWord 9 8 0 (regFBits x))
  | .hmaxBf16x2 x => some (packWord 9 9 0 (regFBits x))
  | .cvtF32I32 x => some (packWord 10 0 14336 (unFBits x))
  | .cvtF32N32 x => some (packWord 10 1 14336 (unFBits x))
  | .cvtI32F32 x => some (packWord 10 2 14336 (unFBits x))
  | .cvtN32F32 x => some (packWord 10 3 14336 (unFBits x))
  | .cvtI32F32Rz x => some (packWord 10 4 14336 (unFBits x))
  | .cvtF16x2F32 x => some (packWord 10 5 0 (regFBits x))
  | .cvtBf16x2F32 x => some (packWord 10 6 0 (regFBits x))
  | .cvtF32F16 x => some (packWord 10 7 14336 (unFBits x))
  | .cvtF32F16h x => some (packWord 10 8 14336 (unFBits x))
  | .cvtF32Bf16 x => some (packWord 10 9 14336 (unFBits x))
  | .cvtF32Bf16h x => some (packWord 10 10 14336 (unFBits x))
  | .cvtF32E4m3 x => some (packWord 10 11 0 (byte4FBits x))
  | .cvtF32E5m2 x => some (packWord 10 12 0 (byte4FBits x))
  | .cvtF32E2m1 x => some (packWord 10 13 0 (nib8FBits x))
  | .cvtE4m3F32 x => some (packWord 10 14 14336 (unFBits x))
  | .cvtE5m2F32 x => some (packWord 10 15 14336 (unFBits x))
  | .rcp x => some (packWord 11 0 14336 (sfuFBits x))
  | .rsqrt x => some (packWord 11 1 14336 (sfuFBits x))
  | .sqrt x => some (packWord 11 2 14336 (sfuFBits x))
  | .exp2 x => some (packWord 11 3 14336 (sfuFBits x))
  | .log2 x => some (packWord 11 4 14336 (sfuFBits x))
  | .sin x => some (packWord 11 5 14336 (sfuFBits x))
  | .cos x => some (packWord 11 6 14336 (sfuFBits x))
  | .tanh x => some (packWord 11 7 14336 (sfuFBits x))
  | .sigm x => some (packWord 11 8 14336 (sfuFBits x))
  | .divF32 x => some (packWord 11 9 0 (regFBits x))
  | .br x => some (packWord 12 0 58720256 (jumpFBits x))
  | .bpa x => some (packWord 12 1 0 (condFBits x))
  | .bpn x => some (packWord 12 2 0 (condFBits x))
  | .bif x => some (packWord 12 3 0 (condFBits x))
  | .belse x => some (packWord 12 4 58720256 (jumpFBits x))
  | .bjoin x => some (packWord 12 5 58720256 (stopFBits x))
  | .call x => some (packWord 12 6 58720256 (jumpFBits x))
  | .ret x => some (packWord 12 7 58720256 (stopFBits x))
  | .brx x => some (packWord 12 8 58734592 (srcFBits x))
  | .loopG x => some (packWord 12 9 0 (loopFBits x))
  | .fork x => some (packWord 13 0 58734592 (srcFBits x))
  | .takeT x => some (packWord 13 1 917504 (takeFBits x))
  | .steal x => some (packWord 13 2 0 (stealFBits x))
  | .dqconf x => some (packWord 13 3 0 (dabFBits x))
  | .dqcount x => some (packWord 13 4 931840 (dstFBits x))
  | .launch x => some (packWord 13 5 14336 (daFBits x))
  | .cwait x => some (packWord 13 6 14336 (daFBits x))
  | .exitT x => some (packWord 13 7 59652096 (stopFBits x))
  | .yield x => some (packWord 13 8 59652096 (stopFBits x))
  | .vclaim x => some (packWord 13 9 14336 (daFBits x))
  | .vgive x => some (packWord 13 10 14336 (daFBits x))
  | .role x => some (packWord 13 11 14336 (daFBits x))
  | .barArrive x => some (packWord 14 0 59637760 (rawBFBits x))
  | .barWait x => some (packWord 14 1 59637760 (rawBFBits x))
  | .barSync x => some (packWord 14 2 59637760 (rawBFBits x))
  | .barLink x => some (packWord 14 3 0 (dabFBits x))
  | .fenceAcq x => some (packWord 14 4 59637760 (rawBFBits x))
  | .fenceRel x => some (packWord 14 5 59637760 (rawBFBits x))
  | .fenceAr x => some (packWord 14 6 59637760 (rawBFBits x))
  | .mark x => some (packWord 14 7 59652096 (stopFBits x))
  | .scope x => some (packWord 14 8 917504 (scopeFBits x))
  | .barCount x => some (packWord 14 9 0 (dabFBits x))
  | .ldS x => some (packWord 15 0 0 (ldFBits x))
  | .ldG x => some (packWord 15 1 0 (ldFBits x))
  | .ldGAcq x => some (packWord 15 2 0 (ldFBits x))
  | .ldGNc x => some (packWord 15 3 0 (ldFBits x))
  | .ldW x => some (packWord 15 4 0 (ldFBits x))
  | .stS x => some (packWord 16 0 0 (stFBits x))
  | .stG x => some (packWord 16 1 0 (stFBits x))
  | .stGRel x => some (packWord 16 2 0 (stFBits x))
  | .stGNc x => some (packWord 16 3 0 (stFBits x))
  | .stW x => some (packWord 16 4 0 (stFBits x))
  | .atomAdd x => some (packWord 17 0 0 (regFBits x))
  | .atomMinI32 x => some (packWord 17 1 0 (regFBits x))
  | .atomMaxI32 x => some (packWord 17 2 0 (regFBits x))
  | .atomMinN32 x => some (packWord 17 3 0 (regFBits x))
  | .atomMaxN32 x => some (packWord 17 4 0 (regFBits x))
  | .atomAnd x => some (packWord 17 5 0 (regFBits x))
  | .atomOr x => some (packWord 17 6 0 (regFBits x))
  | .atomXor x => some (packWord 17 7 0 (regFBits x))
  | .atomXchg x => some (packWord 17 8 0 (regFBits x))
  | .atomCas x => some (packWord 17 9 0 (regFBits x))
  | .atomFaddF32 x => some (packWord 17 10 0 (regFBits x))
  | .atomIncw x => some (packWord 17 11 0 (regFBits x))
  | .redAdd x => some (packWord 18 0 58720256 (redFBits x))
  | .redMinI32 x => some (packWord 18 1 58720256 (redFBits x))
  | .redMaxI32 x => some (packWord 18 2 58720256 (redFBits x))
  | .redMinN32 x => some (packWord 18 3 58720256 (redFBits x))
  | .redMaxN32 x => some (packWord 18 4 58720256 (redFBits x))
  | .redAnd x => some (packWord 18 5 58720256 (redFBits x))
  | .redOr x => some (packWord 18 6 58720256 (redFBits x))
  | .redXor x => some (packWord 18 7 58720256 (redFBits x))
  | .redFaddF32 x => some (packWord 18 8 58720256 (redFBits x))
  | .redFaddBf16x2 x => some (packWord 18 9 58720256 (redFBits x))
  | .osinit x => some (packWord 19 0 0 (regFBits x))
  | .osenter x => some (packWord 19 1 0 (cmpFBits x))
  | .ostry x => some (packWord 19 2 0 (regFBits x))
  | .osleave x => some (packWord 19 3 58734592 (keyFBits x))
  | .osquery x => some (packWord 19 4 0 (queryFBits x))
  | .osdrop x => some (packWord 19 5 14336 (unFBits x))
  | .cpyG2s4 x => some (packWord 20 0 0 (cpyFBits x))
  | .cpyG2s8 x => some (packWord 20 1 0 (cpyFBits x))
  | .cpyG2s16 x => some (packWord 20 2 0 (cpyFBits x))
  | .cpyG2s32 x => some (packWord 20 3 0 (cpyFBits x))
  | .cpyS2g4 x => some (packWord 20 4 0 (cpyFBits x))
  | .cpyS2g8 x => some (packWord 20 5 0 (cpyFBits x))
  | .cpyS2g16 x => some (packWord 20 6 0 (cpyFBits x))
  | .cpyS2g32 x => some (packWord 20 7 0 (cpyFBits x))
  | .waittag x => some (packWord 20 8 59637760 (tagFBits x))
  | .tagcnt x => some (packWord 20 9 917504 (tagDFBits x))
  | .enq x => some (packWord 21 0 0 (enqFBits x))
  | .sleepto x => some (packWord 21 1 14336 (unFBits x))
  | .enqstat x => some (packWord 21 2 917504 (engFBits x))
  | .seminit x => some (packWord 22 0 14336 (daFBits x))
  | .semarm x => some (packWord 22 1 0 (dabFBits x))
  | .semexp x => some (packWord 22 2 0 (dabFBits x))
  | .semarr x => some (packWord 22 3 0 (dabFBits x))
  | .semwait x => some (packWord 22 4 14336 (daFBits x))
  | .semtest x => some (packWord 22 5 14336 (daFBits x))
  | .vadd x => some (packWord 23 0 0 (varFBits x))
  | .vsub x => some (packWord 23 1 0 (varFBits x))
  | .vmul x => some (packWord 23 2 0 (varFBits x))
  | .vfma x => some (packWord 23 3 0 (varFBits x))
  | .vmax x => some (packWord 23 4 0 (varFBits x))
  | .vmin x => some (packWord 23 5 0 (varFBits x))
  | .vexp2 x => some (packWord 23 6 0 (vunFBits x))
  | .vrcp x => some (packWord 23 7 0 (vunFBits x))
  | .vrsq x => some (packWord 23 8 0 (vunFBits x))
  | .vtanh x => some (packWord 23 9 0 (vunFBits x))
  | .vcvt x => some (packWord 23 10 0 (vsubFBits x))
  | .vred x => some (packWord 23 11 0 (vredFBits x))
  | .vbcast x => some (packWord 23 12 0 (vdaFBits x))
  | .vbcastElement x => some (packWord 23 12 16 (vdabvFBits x))
  | .vsel x => some (packWord 23 13 0 (vsubFBits x))
  | .vperm x => some (packWord 23 14 0 (vdabvFBits x))
  | .vscan x => some (packWord 23 15 0 (vscanFBits x))
  | .vld x => some (packWord 24 0 0 (vdabFBits x))
  | .vst x => some (packWord 24 1 0 (vdabFBits x))
  | .vldStr x => some (packWord 24 2 0 (vdabFBits x))
  | .vstStr x => some (packWord 24 3 0 (vdabFBits x))
  | .vgath x => some (packWord 24 4 0 (vidxFBits x))
  | .vscat x => some (packWord 24 5 0 (vidxFBits x))
  | .mload x => some (packWord 25 0 0 (mloadFBits x))
  | .mpass x => some (packWord 25 1 0 (mpassFBits x))
  | .mjoin x => some (packWord 25 2 0 (mpassFBits x))
  | .mdrain x => some (packWord 25 3 0 (mdrainFBits x))
  | .mzero x => some (packWord 25 4 0 (accFBits x))
  | .mswap x => some (packWord 25 5 0 (bankFBits x))
  | .mengage x => some (packWord 25 6 0 (vdaFBits x))
  | .mfree x => some (packWord 25 7 0 (bankFBits x))
  | .mfence x => some (packWord 25 8 0 (vaFBits x))
  | .mwait x => some (packWord 25 9 0 (vdaFBits x))
  | .tplane x => some (packWord 26 0 0 (tplaneFBits x))
  | .tunplane x => some (packWord 26 1 0 (tunFBits x))
  | .trot x => some (packWord 26 2 0 (trotFBits x))
  | .tquant x => some (packWord 26 3 0 (vdabFBits x))
  | .tdequant x => some (packWord 26 4 0 (vdabFBits x))
  | .twin x => some (packWord 26 5 0 (vdabFBits x))
  | .ttrans x => some (packWord 26 6 0 (ttransFBits x))
  | .xfmt x => some (packWord 26 7 0 (xfmtFBits x))
  | .sktrack x => some (packWord 27 0 0 (dabFBits x))
  | .skread x => some (packWord 27 1 0 (dabFBits x))
  | .skwait x => some (packWord 27 2 14336 (daFBits x))
  | .skabort x => some (packWord 27 3 14336 (daFBits x))
  | .skstat x => some (packWord 27 4 14336 (daFBits x))
  | .skpost x => some (packWord 27 5 0 (dabFBits x))
  | .tsetup x => some (packWord 28 0 0 (regFBits x))
  | .rstep x => some (packWord 28 1 0 (regFBits x))
  | .bxtest x => some (packWord 28 2 0 (regFBits x))
  | .txf x => some (packWord 28 3 0 (regFBits x))
  | .fgrid x => some (packWord 28 4 0 (regFBits x))
  | .tritest x => some (packWord 28 5 0 (regFBits x))
  | .gwrite x => some (packWord 28 6 0 (regFBits x))
  | .nop x => some (packWord 29 0 59652096 (stopFBits x))
  | .trap x => some (packWord 29 1 58720256 (trapFBits x))
  | .eret x => some (packWord 29 2 59652096 (stopFBits x))
  | .resolve x => some (packWord 29 3 0 (resolveFBits x))
  | .xrd x => some (packWord 29 4 0 (xrdFBits x))
  | .xwr x => some (packWord 29 5 0 (xwrFBits x))
  | .halt x => some (packWord 29 6 59652096 (stopFBits x))
  | .brk x => some (packWord 29 7 59652096 (stopFBits x))
  | .tlbinv x => some (packWord 29 8 0 (dabFBits x))
  | .pin x => some (packWord 30 0 0 (dabFBits x))
  | .unpin x => some (packWord 30 1 0 (dabFBits x))
  | .pfch x => some (packWord 30 2 0 (dabFBits x))
  | .flush x => some (packWord 30 3 14336 (daFBits x))
  | .inval x => some (packWord 30 4 14336 (daFBits x))
  | .evload x => some (packWord 30 5 0 (dabFBits x))
  | .pgmode x => some (packWord 30 6 0 (dabFBits x))
  | .bundleReentry _ => none
  | .waitEnd _ => none
  | .resultArrival _ => none
  | .storePerform => none
  | .pageWalkComplete _ _ _ => none
  | .replay _ => none
  | .swapOutTest => none
  | .ensembleSwapOut _ => none
  | .readmission _ => none
  | .shellArrival _ _ => none
  | .forwardedArrival _ _ => none
  | .barrierRelease _ _ => none
  | .remoteArrival _ => none
  | .windowPush _ => none
  | .heldPushEntry _ => none
  | .windowLoad _ => none
  | .scratchWindowAccess _ => none
  | .partialFlush _ => none
  | .copyPerform _ => none
  | .vmemComplete _ _ => none
  | .planeComplete _ => none
  | .matrixGrant _ => none
  | .grantPriorityRise _ _ => none
  | .matrixOpComplete _ _ => none
  | .tileCopy _ => none
  | .dieCopy _ => none
  | .bridgeStream _ => none
  | .allReduce _ _ => none
  | .broadcast _ _ => none
  | .allGather _ _ => none
  | .reduceScatter _ _ => none
  | .compare _ => none
  | .squashRestart _ => none
  | .present _ => none
  | .commandCompletion _ _ => none
  | .promiseBroken _ _ _ => none
  | .asynchronousTrap _ => none
  | .originArrival _ => none
  | .handlerLaunch _ => none
  | .gapTimeout => none
  | .ensembleAdmission _ => none
  | .admissionHold _ => none
  | .segmentExpansion _ _ _ _ => none
  | .ensembleRetirement _ => none
  | .companyRetirement _ => none
  | .sequencerPass _ => none
  | .tailReport _ => none
  | .partitionSwap _ => none
  | .frameStart => none
  | .lockMeasurement _ _ => none
  | .lockLoss => none
  | .stepRelease _ => none
  | .stepCompletion _ => none
  | .deadlineMiss _ => none
  | .powerThrottle _ _ => none
  | .deviceReset => none
  | .bootStage _ _ => none
  | .functionReady _ => none
  | .getVersion => none
  | .getCapabilities => none
  | .negotiateAlgorithms => none
  | .getDigests => none
  | .getCertificate _ => none
  | .challenge _ => none
  | .getMeasurements _ => none
  | .keyExchange _ => none
  | .finish _ => none
  | .endSession _ => none
  | .keySlotLoad _ _ => none
  | .keySlotClear _ _ => none
  | .deviceDrain _ => none
  | .deviceJoin _ => none
  | .debugHalt => none
  | .resume => none
  | .stepDbg => none
  | .qread => none
  | .qwrite => none
  | .gread => none
  | .debugGwrite => none
  | .sread => none
  | .swrite => none
  | .pfringWrite _ _ => none
  | .pfheadWrite _ _ => none
  | .scopeTableWrite _ _ _ _ => none
  | .registerWrite _ _ => none
  | .firmwareUpdate _ _ => none

end Sys2Proof
end

