-- ==== Sys2Proof/Machine/Keyed.lean ====
section
/-! DEFINITION. Reading and writing keyed lists (sparse state by number) and positions of plain lists. -/

namespace Sys2Proof.Machine

/-- The value at a key, when listed. -/
def kfind {α : Type} : KV α → Nat → Option α
  | [], _ => none
  | (j, v) :: rest, k => if j = k then some v else kfind rest k

/-- The value at a key, or the given one when the key is not listed. -/
def kget {α : Type} (d : α) (l : KV α) (k : Nat) : α := (kfind l k).getD d

/-- Writes the value of a key: in place when listed, otherwise at the end. -/
def kset {α : Type} : KV α → Nat → α → KV α
  | [], k, v => [(k, v)]
  | (j, w) :: rest, k, v => if j = k then (k, v) :: rest else (j, w) :: kset rest k v

/-- Removes a key. -/
def kdel {α : Type} (l : KV α) (k : Nat) : KV α := l.filter (fun p => p.1 != k)

/-- Changes the value of a listed key. -/
def kupd {α : Type} (l : KV α) (k : Nat) (f : α → α) : KV α := l.map (fun p => if p.1 = k then (p.1, f p.2) else p)

/-- The list with position i replaced. -/
def lset {α : Type} : List α → Nat → α → List α
  | [], _, _ => []
  | _ :: rest, 0, v => v :: rest
  | x :: rest, i + 1, v => x :: lset rest i v

/-- The numbers 0 to n − 1, rising. -/
def upTo (n : Nat) : List Nat := List.range n

end Sys2Proof.Machine
end

