-- ==== Sys2Proof/Machine/Memory.lean ====
section
/-! DEFINITION. Byte memory in one canonical form: addresses strictly rising, no byte equal to what an unlisted address
reads as. The same type holds physical memory (11_translation R232) and scratch (10_spaces R217). -/

namespace Sys2Proof.Machine

/-- Byte memory: the listed bytes; every other address reads `fillByte`. -/
abbrev Memory := List Host.Cell

/-- What an unlisted byte reads as. DESIGN CHOICE for physical memory, whose contents the manual leaves open (log 1);
for scratch R217 states it. -/
def fillByte : Byte := 0

/-- One byte. -/
def readByte : Memory → Nat → Byte
  | [], _ => fillByte
  | (b, v) :: rest, a => if b = a then v else if a < b then fillByte else readByte rest a

/-- Writes one byte and keeps the canonical form. -/
def writeByte : Memory → Nat → Byte → Memory
  | [], a, v => if v = fillByte then [] else [(a, v)]
  | (b, w) :: rest, a, v =>
    if b = a then (if v = fillByte then rest else (a, v) :: rest)
    else if a < b then (if v = fillByte then (b, w) :: rest else (a, v) :: (b, w) :: rest)
    else (b, w) :: writeByte rest a v

/-- Every listed address is at least `lo`, addresses rise strictly, and no listed byte is `fillByte`. -/
def memWfFrom : Nat → Memory → Bool
  | _, [] => true
  | lo, (a, v) :: rest => decide (lo ≤ a) && v != fillByte && memWfFrom (a + 1) rest

/-- The canonical form. -/
def Memory.wf (m : Memory) : Bool := memWfFrom 0 m

/-- n bytes from address a as a number, little-endian (00_scope R3). -/
def readNat (m : Memory) (a : Nat) : Nat → Nat
  | 0 => 0
  | n + 1 => (readByte m a).toNat + 256 * readNat m (a + 1) n

/-- Stores the low n bytes of a number from address a, little-endian (R3). -/
def writeNat (m : Memory) (a : Nat) : Nat → Nat → Memory
  | 0, _ => m
  | n + 1, v => writeNat (writeByte m a (BitVec.ofNat 8 v)) (a + 1) n (v / 256)

/-- Stores a list of bytes from address a. -/
def writeList (m : Memory) (a : Nat) : List Byte → Memory
  | [] => m
  | b :: rest => writeList (writeByte m a b) (a + 1) rest

/-- n bytes from address a. -/
def readList (m : Memory) (a : Nat) : Nat → List Byte
  | 0 => []
  | n + 1 => readByte m a :: readList m (a + 1) n

/-- The same byte value n times, as `writeList` takes it. -/
def zeroBytes (n : Nat) : List Byte := List.replicate n fillByte

end Sys2Proof.Machine
end

