-- ==== Sys2Proof/Machine/State.lean ====
section
/-! DEFINITION. The state of the device: every piece of state that the manual names, as plain data, its value at reset,
and the two ways in which a step can stop. Numbers that name things (units, cores, troupes, ensembles) are Nat keys:
a unit is a linear tile index 0 to 287, or 288 + guide cluster (R116); a core is 4 × unit + cix (R82); a troupe is
64 × core + slot, with slots 32 and 33 the two handler slots of R410. -/

namespace Sys2Proof.Machine

/-- Why the model has no next state. -/
inductive Fault where
  /-- Raised by every slot meaning when no troupe is at a slot. A slot exists only inside a bundle that has issued
  (R25, R67), so no run meets it. Safe: the model stops. -/
  | noSlot
deriving DecidableEq, Repr

/-- What the model declines to run. -/
inductive Refusal where
  /-- Raised by `exec` for an instruction whose meaning is not written. Safe. -/
  | notModelled (mnemonic : String)
deriving DecidableEq, Repr

/-! ## Queues and threads -/

/-- A queue position that is not empty (R96). -/
inductive Pos where
  /-- Reserved: arrival `id` will fill it (R97). -/
  | reserved (id : Nat)
  /-- Reserved until cycle `due`, when the result of an exposed fixed latency is pushed (R71). -/
  | timed (id due : Nat) (v : FillVal)
  /-- Reserved until cycle `due`, when the result of an access that a scratch port has taken is pushed (R221). -/
  | coming (id due : Nat) (v : FillVal)
  /-- Filled. `bad` says that the entry's parity is wrong (R103). -/
  | filled (v : Word) (bad : Bool)
  /-- Filled with an error mark: cause + 256 × detail, and address (R229, R249). -/
  | mark (cause : Nat) (ea : Dword)
  /-- Drained into the snapshot buffer with its latency tag (R419). -/
  | tagged (id lat : Nat) (v : FillVal)
deriving DecidableEq, Repr

/-- A position, whether a slot of the bundle now open pushed it (R406), and whether a debugger has written it (R424). -/
structure Entry where
  pos : Pos
  fresh : Bool
  edited : Bool := false
deriving DecidableEq, Repr

/-- A tag counter of a thread, with ERR, its cause and ERRADDR (R345). -/
structure TagCtr where
  n : Nat
  err : Option (Nat × Dword)
deriving DecidableEq, Repr

/-- One thread (R9): q0 to q31 as keyed lists of positions, oldest first; p0 to p6; the four tag counters; and, after a `fence.rel`
or `fence.ar`, that its next store is a release, at a wide scope or not (R285). -/
structure Thread where
  qs : KV (List Entry)
  preds : BitVec 7
  tags : KV TagCtr
  release : Option Bool := none
deriving DecidableEq, Repr

/-- An outstanding long-latency operation of a troupe (R39): the flag it counts on (12 for none) and how many parts of
it are still to end. -/
structure Out where
  op : Nat
  flag : Nat
  pend : Nat
deriving DecidableEq, Repr

/-- The clause state: SETX, SETY (15 for none) and the remaining length, 0 for no end (R37). -/
structure Clause where
  setx : Nat
  sety : Nat
  len : Nat
deriving DecidableEq, Repr

/-- A per-troupe barrier record (R301). -/
structure BarTag where
  arrived : Bool
  tag : BitVec 16
deriving DecidableEq, Repr

/-- An access that has issued and waits to perform: an entry of a replay list (R243) or of a speculative buffer (R376). -/
inductive Act where
  /-- A load of 2^size bytes into positions `ids` of queue q; `fn` is the LD function code; `wide` says that the scope set
  read at issue is wide (R277, R282). -/
  | load (ea : Dword) (size fn q op : Nat) (ids : List Nat) (wide : Bool)
  /-- A store; `fn` is the ST function code (0 scratch, 4 window); `mca` is `ctxcfg`.MCA at issue (R297); `rel` says that it is a
  release, at a wide scope or not (R285), as it does of the next two. -/
  | store (ea : Dword) (size fn : Nat) (data : Dword) (mca : Bool) (rel : Option Bool)
  /-- An atomic, its D field (6 bits), the arrival that fills it, whether its scope set is wide, and MCA at issue; its operation
  `op` also names its slot (R318). -/
  | atom (ea : Dword) (fn : Nat) (b d : Word) (dst op id : Nat) (wide mca : Bool) (rel : Option Bool)
  /-- A reduction, whether its scope set is wide, MCA at issue, and a number that names its slot (R318). -/
  | red (ea : Dword) (fn : Nat) (b : Word) (wide mca : Bool) (slot : Nat) (rel : Option Bool)
  /-- A per-thread transfer. -/
  | copy (c : CopyOp)
  /-- A deque operation whose access of 32 bytes at a ring address was absent (R80, R81, R243). -/
  | fork (r : List Dword) (ea : Dword)
  | take (d p : Nat) (ea : Dword)
  | steal (victim d p : Nat) (ea : Dword)
  /-- The bytes of a vector or plane write to scratch, by offset in the allocation (R375). -/
  | bytes (ws : List (Nat × List Byte))
  /-- An engine command not yet accepted (R375). -/
  | enq (engine : Nat) (words : List Word)
deriving DecidableEq, Repr

/-- A replay entry (R243): thread, access, fault count; `sent` says that its access has been made and its result is awaited
(R247); the level at which its page was absent; and, of a held effect that its commit has released, its place in program order
(R376). -/
structure Replay where
  thread : Nat
  faults : Nat
  act : Act
  sent : Bool := false
  level : Nat := 0
  seq : Option Nat := none
deriving DecidableEq, Repr

/-- A held effect of a speculative troupe (R376): its thread, the effect, and its place in program order. -/
structure Held where
  thread : Nat
  act : Act
  seq : Nat
deriving DecidableEq, Repr

/-- How an origin was resolved (R414). -/
inductive Resolution where
  | supply (v : Word)
  | retry
  | kill
  /-- Supplied, and the slot has committed for the thread. -/
  | done
deriving DecidableEq, Repr

/-- A faulting thread of a split (R409) until its troupe resumes. `async` marks an asynchronous trap (R407); `arrived` says
that it has reached the collector. -/
structure Origin where
  id : Nat
  thread : Nat
  cause : Nat
  detail : Nat
  value : Dword
  slot : Nat
  async : Bool
  arrived : Bool
  res : Option Resolution
deriving DecidableEq, Repr

/-- The record under which an origin waits in a collector, a handler slot or a handler troupe (R410, R411). -/
structure Ticket where
  id : Nat
  ctx : Nat
  tag : Word
  cause : Nat
  detail : Nat
  value : Dword
  slot : Nat
  arrived : Nat
deriving DecidableEq, Repr

/-- The split at which a troupe resumes (R405): slot, PASS, the threads that run that slot first, the outstanding
operation that the slot opened, if any (R39), the predicates of the threads (R156) and the `scopesel` (R290) as they stood when
the bundle issued, and the leader and the answer of a uniform slot that has acted and has only to be pushed in the threads of
REDO (R102). -/
structure Split where
  slot : Nat
  pass : BitVec 16
  redo : BitVec 16
  op : Option Nat
  preds : List (BitVec 7)
  scopesel : BitVec 5
  answer : Option (Nat × Word)
deriving DecidableEq, Repr

/-- Which earlier accesses hold a bundle back: what a vector load follows, what a window load follows, scratch stores (R194), those that a posted
`mdrain` follows (R279, R280), every store (R291, R292), or every access (R275, R285). -/
inductive OrderKind where
  | reads
  | loads
  | scratch
  | posted
  | stores
  | all
deriving DecidableEq, Repr

/-- Why a troupe holds at a slot (R69, R92). -/
inductive Wait where
  /-- A clause header's WAIT mask (R36). -/
  | header (mask : BitVec 12)
  /-- The slot acts and commits at this cycle (R69). -/
  | until (cycle : Nat)
  /-- `semwait` on a semaphore with its V (R313). -/
  | sem (idx : Nat) (v : Word)
  /-- `bar.wait` on a barrier (R303). -/
  | bar (idx : Nat)
  /-- `cwait` on a child, or on all (R90); the cycle it began (R94). -/
  | cwait (comp : Option Nat) (since : Nat)
  /-- `sleepto` (R357). -/
  | sleepto (a : Word)
  /-- `waittag` (R347). -/
  | waittag (tag : Nat)
  /-- `osenter`: the waiters as (thread, key, number) (R330). -/
  | osenter (ws : List (Nat × Word × Word))
  /-- `skwait` (R382). -/
  | skwait (t : Nat)
  /-- `mwait` on an accumulator, or on the troupe's own operations (R204); operations still awaited. -/
  | mwait (ops : List Nat)
  /-- `mengage` (R203). -/
  | mengage
  /-- `launch` at the company limit (R391). -/
  | launch
  /-- `skread` waits for results in flight (R373). -/
  | drain
  /-- A stall of a speculative troupe until commit (R375). -/
  | commit
  /-- Room in a completion flag (12 and above for none), in a tag counter of the given threads, or, when `table` is set, in the
  reservation table (R39, R69, R190, R345). -/
  | room (flag : Nat) (tag : Option (Nat × BitVec 16)) (table : Bool)
  /-- Earlier accesses of the given threads have still to perform (R194, R275, R280, R291). -/
  | order (ths : BitVec 16) (kind : OrderKind)
  /-- `tlbinv` after its drop: accesses made before a number, in the units of a SCOPE measured from a unit, have still to perform, and engine
  commands whose DONE address a dropped entry had translated have still to complete (R260). -/
  | dropped (unit scope before : Nat) (cmds : List Nat)
deriving DecidableEq, Repr

/-- The execution mode of a halted or running troupe under a debugger (R421, R423). -/
inductive Halt where
  | running
  | halted
  | stepping
deriving DecidableEq, Repr

/-- A state that `skread` saves (R373). `outs` are the operations outstanding then; `split` is where the troupe resumes;
`t`, `version` and `dst` are the entry, the version predicted and the destination of the first `skread` (R381). -/
structure Checkpoint where
  threads : List Thread
  g : KV Dword
  active : BitVec 16
  maskStack : List (BitVec 16 × BitVec 16)
  retStack : List Nat
  clause : Clause
  outs : List Nat
  vregs : KV (List Word)
  scopesel : BitVec 5
  label : BitVec 8
  wopen : BitVec 32
  fpFlags : BitVec 5
  sat : BitVec 1
  pc : Nat
  fell : Bool
  split : Option Split
  t : Nat
  version : Word
  dst : Nat
  /-- What the troupe has issued since has this number or a later one. -/
  seq : Nat := 0
deriving DecidableEq, Repr

/-- Speculative state of a troupe (R373 to R377). -/
structure Spec where
  /-- Entries whose outstanding sketch the troupe consumes, with the sketch's version. -/
  sketches : List (Nat × Word)
  regions : List (Nat × Nat)
  checkpoint : Option Checkpoint
  /-- Held effects in order of issue (R376). -/
  held : List Held
  /-- Faults of a held trap (R377). -/
  trap : List Origin
  /-- Squashed and waiting for its version; its checkpoint has been restored (R381). -/
  squashed : Bool
  restored : Bool := false
deriving DecidableEq, Repr

/-- A broken promise for which a troupe has still to raise PROMISE_LATE (R358): the engine, the cycle promised, the place of
the trap among the asynchronous ones (R407), and the command. -/
structure Late where
  engine : Nat
  promise : Nat
  id : Nat
  cmd : Nat
deriving DecidableEq, Repr

/-- A troupe (R67, R72, R402). -/
structure Troupe where
  ctx : Nat
  comp : Nat
  ens : Nat
  eix : Nat
  text : Nat
  segs : Nat
  pc : Nat
  /-- The troupe came to its program counter by falling through past the used length of a segment (R392). -/
  fell : Bool
  active : BitVec 16
  g : KV Dword
  threads : List Thread
  outs : List Out
  clause : Clause
  maskStack : List (BitVec 16 × BitVec 16)
  retStack : List Nat
  vclaim : Nat
  vregs : KV (List Word)
  /-- The vector registers that hold an uncorrectable word (R458). -/
  badVregs : List Nat := []
  fpEnable : BitVec 5
  fpFlags : BitVec 5
  sat : BitVec 1
  handler : Bool
  slotResume : BitVec 4
  causeReg : BitVec 16
  epc : Nat
  eslot : BitVec 4
  eaddr : Dword
  redoPass : BitVec 16
  redo : BitVec 16
  label : BitVec 8
  wopen : BitVec 32
  scopesel : BitVec 5
  bars : KV BarTag
  split : Option Split
  replay : List Replay
  woken : Bool
  parkedAt : Option Nat
  origins : List Origin
  tickets : List Ticket
  wait : Option Wait
  mfence : Option (List Nat)
  spec : Spec
  halt : Halt
  late : List Late
  async : List Origin
  /-- Its replay list has emptied, or it has been resumed, and an asynchronous trap that is pending comes before it goes on with the
  bundle in which it stands (R358). -/
  surfaced : Bool := false
  readyAt : Nat
  lastIssue : Nat
  /-- The lane in whose turn the troupe issued last (R412). -/
  lane : Nat
  yielded : Bool
  /-- To stop at its next bundle boundary, and stopped there (R253, R417). -/
  stopping : Bool
  stopped : Bool
  /-- The company ids of the children this troupe launched, in launch order (R90). -/
  kids : List Nat
deriving DecidableEq, Repr

/-! ## Ensembles -/

/-- A barrier (R299); `link` is (home ensemble linear index, barrier) of a member. -/
structure Bar where
  e : Nat
  arr : Nat
  phases : BitVec 16
  scope : BitVec 5
  link : Option (Nat × Nat)
deriving DecidableEq, Repr

/-- A counted semaphore (R307). -/
structure Sem where
  count : Word
  pending : Int
  expect : Nat
  arr : Nat
  armed : Bool
  ovf : Bool
  scope : BitVec 5
  /-- An engine has delivered to it since its `seminit`: seeing its phase flip observes an engine's completion (R292). -/
  engine : Bool := false
deriving DecidableEq, Repr

/-- A row of a weight bank (R183, R186). -/
structure BankRow where
  w : List Int
  xw : List Int
  mark : Bool
deriving DecidableEq, Repr

/-- A weight bank (R186): a row that is not listed is zero and was not written; and the rows that hold an uncorrectable word (R458). -/
structure Bank where
  a17 : Bool
  rows : KV BankRow
  bad : List Nat := []
deriving DecidableEq, Repr

/-- An activation column of a granted pass: accumulator column, integers, block exponents, mark (R183). -/
structure Rec where
  col : Nat
  v : List Int
  x : List Int
  mark : Bool
deriving DecidableEq, Repr

/-- A piece of a pass (R201): its number, the troupe that posted it with its `eix` and flag operation, the operations that
an `mfence` made it await, first record address, columns, K, first column, stride, accumulator, Z, P, PIECES. -/
structure Piece where
  id : Nat
  troupe : Nat
  eix : Nat
  op : Option Nat
  fence : List Nat
  addr : Nat
  n : Nat
  k : Nat
  c0 : Nat
  stride : Nat
  acc : Nat
  zero : Bool
  p : Nat
  pieces : Nat
deriving DecidableEq, Repr

/-- What a matrix operation does (R197). A pass lists its pieces and whether it came from `mjoin`. -/
inductive MatKind where
  | load (bank addr m0 count stride : Nat) (a17 : Bool)
  | pass (join : Bool) (pieces : List Piece)
  | drain (acc dst m0 mr c0 nc stride fmt : Nat) (clr : Bool)
  | zero (acc : Nat)
  | swap (bank : Nat)
  | free (bank : Nat)
deriving DecidableEq, Repr

/-- An operation of the reservation table (R190), or one granted and not complete: number, ensemble, poster, flag
operation, what it does, operations awaited by its fence, the cycle it enters the table, since when it is an eligible
head and how many cycles it has been one before (R191), priority risen, cycles of grant and start, physical bank and its mode
as latched, rows and columns read, and of its record headers, planes and rows for how many cycles it has read or written them. -/
structure MatOp where
  id : Nat
  ens : Nat
  troupe : Nat
  eix : Nat
  op : Option Nat
  kind : MatKind
  fence : List Nat
  posted : Nat
  eligible : Option Nat
  waited : Nat
  raised : Bool
  granted : Option Nat
  started : Option Nat
  bank : Option Nat
  a17 : Bool
  rows : KV BankRow
  cols : List Rec
  done : Nat
deriving DecidableEq, Repr

/-- A matrix fault latch (R195): cause and fault value. -/
structure Latch where
  cause : Nat
  value : Word
deriving DecidableEq, Repr

/-- A descriptor's fields (R389). -/
structure Desc where
  entry : Nat
  text : Nat
  args : Dword
  done : Dword
  ttable : Nat
  place : Nat
  gx : Nat
  gy : Nat
  gz : Nat
  segs : Nat
  mode : Nat
  prio : Nat
  troupes : Nat
  vregs : Nat
  barriers : Nat
  sems : Nat
  accs : Nat
  scratch : Nat
deriving DecidableEq, Repr

/-- An ensemble on a unit (R85). -/
structure Ensemble where
  ctx : Nat
  comp : Nat
  linear : Nat
  unit : Nat
  base : Nat
  count : Nat
  size : Nat
  troupes : List Nat
  exited : Nat
  bars : KV Bar
  sems : KV Sem
  /-- Accumulators: rows not listed are +0.0; a row holds 48 columns (R187). -/
  accs : KV (KV (List Word))
  naccs : Nat
  /-- The accumulator rows that hold an uncorrectable word (R458). -/
  badAccs : List (Nat × Nat) := []
  cur : Nat
  banks : KV Nat
  joins : KV (List Piece)
  matExc : BitVec 5
  latch : Option Latch
  engaged : Bool
  desc : Desc
deriving DecidableEq, Repr

/-- A barrier shell (R255): home slice, context, company, linear index, barrier number, and the barrier. -/
structure Shell where
  slice : Nat
  ctx : Nat
  comp : Nat
  linear : Nat
  idx : Nat
  bar : Bar
deriving DecidableEq, Repr

/-- A tracked tile (R367). -/
structure Tracked where
  ens : Nat
  hist : Nat
  blocks : Nat
  fmt : Nat
  hold : Bool
  version : Word
  /-- Which of the three history slots hold v0, v1 and the undo copy. -/
  v0 : Option Nat
  v1 : Option Nat
  undo : Option Nat
  /-- The outstanding sketch: version, depth, consumers (troupes). -/
  sketch : Option (Word × Nat × List Nat)
  /-- The poster of the speculative version. -/
  specBy : Option Nat
  outcome : Nat
  /-- The 64 bytes at HIST, the entry's own record, as the engine last knew them (R368). -/
  record : List Byte := List.replicate 64 0
deriving DecidableEq, Repr

/-! ## The slot at which a step is -/

/-- An access of one thread of `ld.w` or `st.w` on its way (R231): address, data, and the cause that its target answered. -/
structure Sent where
  thread : Nat
  ea : Dword
  data : Dword
  fault : Option (Nat × Nat × Dword)
deriving DecidableEq, Repr

/-- The slot at which a step is: the issuing troupe, slot index, bundle address, issue cycle, the troupe as it stood at
issue (R29), the threads that passed the guard and the threads that run this slot, the slot's word, the literal, a branch target, whether
the slot completes a hold (R69), the outstanding operation of a split slot, and whether this is the bundle's first issue. -/
structure Focus where
  troupe : Nat
  k : Nat
  base : Nat
  issue : Nat
  latch : Troupe
  pass : BitVec 16
  run : BitVec 16
  word : Word
  lit : Word
  target : Option Nat
  resuming : Bool
  /-- The slot has acted and holds only for its answer (R69). -/
  acted : Bool
  /-- The window accesses that the slot has sent (R231). -/
  sent : List Sent
  /-- The leader and the answer of a uniform slot that has acted, but for its push in the threads that run it again (R102). -/
  answer : Option (Nat × Word)
  /-- The first of the numbers of the positions that a slot which holds has reserved, two numbers for each thread (R97). -/
  kept : Option Nat := none
  op : Option Nat
  first : Bool
  /-- The slots that the slot at `k` takes with its literal (1 or 2), whether it ends the bundle, and where the bundle then falls
  through to, as the segment stood when the slot was read (R66, R392). -/
  width : Nat
  last : Bool
  cont : Nat × Bool
  /-- The value at issue of the control register that the bundle's `xrd` names (R426). -/
  ctl : Option Dword
deriving DecidableEq, Repr

/-- A hold in progress (R69): the slot it stands at. -/
structure Hold where
  focus : Focus
  wait : Wait
deriving DecidableEq, Repr

/-- An ensemble that has swapped out (R253) at a cycle, in units `first` to `first + n − 1` of its context's save pool, with its
scratch by offset; `ready` is the cycle at which it became eligible for re-admission (R258). -/
structure SavedEns where
  ens : Ensemble
  troupes : List (Nat × Troupe)
  scratch : List Host.Cell
  banks : KV Bank
  holds : List (Nat × Hold)
  ops : List MatOp
  tracked : List (Nat × Tracked)
  first : Nat
  units : Nat
  since : Nat
  ready : Option Nat
  /-- The troupes that counted as parked when it left (R252, R258). -/
  counted : List Nat := []
  /-- The uncorrectable words of its scratch (R458). -/
  badScr : List Nat := []
deriving DecidableEq, Repr

/-- A child of a company and its status once it has retired (R89, R90). -/
structure Kid where
  comp : Nat
  status : Option Dword
deriving DecidableEq, Repr

/-- A step of a timetable (R394). -/
structure TStep where
  entry : Nat
  alt : Dword
  release : Nat
  budget : Nat
  drop : Nat
deriving DecidableEq, Repr

/-- A running timetable (R394 to R399, R447 to R449). -/
structure Timetable where
  addr : Nat
  rev : Nat
  steps : List TStep
  deadline : Nat
  margin : Nat
  place : List Nat
  mesh : List (Nat × List Word)
  bridge : List Word
  slipOff : Nat
  slipCap : Nat
  slipCnt : Word
  /-- Frame being run, clk64 at which it started, next step, whether that step is released, whether the frame was held
  (R398), steps dropped and switched, completion ticks with steps run, whether all have completed, whether the deadline
  was missed, whether a later frame has started meanwhile. -/
  frame : Word
  start : Nat
  step : Nat
  released : Bool
  held : Bool
  dropped : List Nat
  switched : List Nat
  done : List (Nat × Nat)
  finished : Bool
  missed : Bool
  overrun : Bool
  /-- The company has been admitted; or it waits for a frame start and holds its units; and the cycle in which it was admitted, cycle 0 of
  its mesh and bridge tables (R397). -/
  admitted : Bool
  waiting : Bool
  zero : Nat
  /-- PHASES of barrier 0 of each ensemble when the step was released. -/
  phases : KV (BitVec 16)
deriving DecidableEq, Repr

/-- A live company (R88). -/
structure Company where
  ctx : Nat
  part : Nat
  parent : Option Nat
  depth : Nat
  desc : Desc
  next : Nat
  total : Nat
  since : Nat
  retired : Nat
  kids : List Kid
  firstCause : Option Nat
  order : Nat
  tt : Option Timetable
deriving DecidableEq, Repr

/-! ## Translation and caches -/

/-- A TLB entry (R238, R264). -/
structure Tlb where
  ctx : Nat
  base : Nat
  span : Nat
  pa : Nat
  key : Nat
  pmode : Bool
  priv : Bool
  w : Bool
  r : Bool
deriving DecidableEq, Repr

/-- A way that holds a line (R261): line number, way, key slot, data (L1 only), dirty, and which of its 8-byte words are uncorrectable
(R458). -/
structure Way where
  line : Nat
  way : Nat
  key : Nat
  data : List Byte
  dirty : Bool
  bad : List Nat := []
deriving DecidableEq, Repr

/-- A pin (R267): context, line, way. -/
structure Pin where
  ctx : Nat
  line : Nat
  way : Nat
deriving DecidableEq, Repr

/-- A region of an eviction schedule (R271): physical base, lines, class. -/
structure Region where
  base : Nat
  lines : Nat
  cls : Nat
deriving DecidableEq, Repr

/-- A cache: ways in use from the least to the most recently used, pins, and the eviction schedule with its ways. -/
structure Cache where
  ways : List Way
  pins : List Pin
  sched : Option (BitVec 16 × List Region)
deriving DecidableEq, Repr

/-- A key slot (R240): loaded, and its 512-bit key. -/
structure KeySlot where
  loaded : Bool
  key : BitVec 512
deriving DecidableEq, Repr

/-- A store, or the result of a narrow atomic, that has issued and not performed (R276, R279); `id` is its place in program
order. -/
structure StoreItem where
  id : Nat
  troupe : Nat
  gen : Nat
  thread : Nat
  unit : Nat
  ctx : Nat
  ea : Dword
  pa : Nat
  key : Nat
  size : Nat
  data : Nat
  nc : Bool
  mca : Bool
  due : Nat
deriving DecidableEq, Repr

/-- Where an access lands (R216, R228). -/
inductive Place where
  | scratch (unit off : Nat)
  | global (pa key : Nat) (pmode : Bool)
  | window
deriving DecidableEq, Repr

/-- Who makes an access: a troupe's thread under the generation of its slot, and the troupe's context and ensemble. -/
structure Who where
  troupe : Nat
  gen : Nat
  thread : Nat
  ctx : Nat
  ens : Nat
  /-- The place of the access in program order, when it is not the present one (R376). -/
  seq : Option Nat := none
deriving DecidableEq, Repr

/-- What waits in a thread's load or store queue behind an earlier access that has still to perform (R279 to R281, R285,
R286). -/
inductive Waiting where
  /-- An access with the place it translated to. -/
  | access (act : Act) (place : Place)
  /-- A `mark`: nothing later performs before it. -/
  | mark
  /-- An acquire: later accesses follow it, and a wide one drops the L1. -/
  | acquire (wide : Bool)
deriving DecidableEq, Repr

/-- An entry of the queues of R279: program-order number, who made it, the threads in whose queues it stands, and what waits. -/
structure WaitItem where
  id : Nat
  who : Who
  ths : BitVec 16
  what : Waiting
deriving DecidableEq, Repr

/-- What an access at a scratch port has still to do (R221): a load to read 2^size bytes at an offset into positions `ids` of queue
q when it is taken, a store to write n bytes when it completes. -/
inductive PortAct where
  | load (off size q op : Nat) (ids : List Nat) (ea : Dword)
  | store (off n v : Nat) (ea : Dword)
  | done
deriving DecidableEq, Repr

/-- An access taken, or to be taken, at a core's scratch port (R221): number, the cycle in which it was presented, its lane, the
cycle in which it is taken, its 8-byte word, the cycle in which it completes, its troupe, generation, thread and ensemble, and
what it has still to do. -/
structure PortItem where
  id : Nat
  present : Nat
  lane : Nat
  take : Nat
  word : Nat
  due : Nat
  troupe : Nat
  gen : Nat
  thread : Nat
  ens : Nat
  act : PortAct
deriving DecidableEq, Repr

/-- One contribution to a partial: who made it, under which generation, and at which effective address. -/
structure Contrib where
  troupe : Nat
  gen : Nat
  thread : Nat
  ens : Nat
  ea : Dword
deriving DecidableEq, Repr

/-- A reduction partial (R319): word, key slot, function, combined value, its contributions, and the cycle of the first. -/
structure Partial where
  pa : Nat
  key : Nat
  fn : Nat
  v : Word
  by_ : List Contrib
  first : Nat
deriving DecidableEq, Repr

/-! ## Cores and units -/

/-- A core's task deque (R78). -/
structure Deque where
  recs : List (List Dword)
  lifo : Bool
  base : Dword
  cap : Nat
  head : Nat
  tail : Nat
deriving DecidableEq, Repr

/-- A segment frame (R393): the words of one segment up to its used length, and whether the parity of one is wrong (R458). -/
structure Frame where
  ctx : Nat
  text : Nat
  seg : Nat
  words : List Word
  bad : Bool := false
deriving DecidableEq, Repr

/-- An image: width, height, format, pixels in rows. -/
structure Image where
  width : Nat
  height : Nat
  format : Nat
  pixels : List Word
deriving DecidableEq, Repr

/-- An engine command in a queue (R349, R354). `bytes` are those moved so far; `image` is what the presenter has copied (R451). -/
structure Cmd where
  id : Nat
  words : List Word
  ens : Nat
  ctx : Nat
  troupe : Nat
  gen : Nat
  slot : Nat
  promise : Nat
  due : Nat
  donePa : Nat
  doneKey : Nat
  performed : Bool
  status : Nat
  fault : Dword
  bytes : Nat
  broken : Bool
  image : Option Image := none
deriving DecidableEq, Repr

/-- A core (R15, R410, R356): the palette register and its writes in flight, deque, L1 TLB, frames, collector, the two
handler slots' gathered origins, engine queues and previous promises, counters, for each lane the troupe whose turn was last
and its cycle plus 1, for the VEC (0) and VMEM (1) paths the cycle plus 1 of the last acceptance, accesses taken at the
scratch port, pushes held at the window path. -/
structure Core where
  fmt : Dword
  fmtNext : List (Nat × Dword)
  deque : Deque
  tlb : List Tlb
  frames : List Frame
  collector : List Ticket
  hslots : KV (List Ticket)
  engines : KV (List Cmd)
  promises : KV Nat
  conflicts : Word
  bypass : Word
  lanes : KV (Nat × Nat)
  paths : KV Nat
  port : List PortItem
  pushes : List PushReq
  gens : KV Nat
  /-- The troupe whose plane operation runs, and the lanes that the busy plane unit has refused, oldest first (R205). -/
  plane : Option Nat
  planeQueue : List Nat
deriving DecidableEq, Repr

/-- A triangle-setup entry (R432): generation, validity, fixed-point vertices, A, and the depth terms. -/
structure Setup where
  gen : Nat
  valid : Bool
  xy : List (Int × Int)
  area : Int
  z : List Word
deriving DecidableEq, Repr

/-- A tile or guide cluster (R13, R14). -/
structure TileUnit where
  l1 : Cache
  tlb : List Tlb
  partials : List Partial
  rtab : List MatOp
  running : List MatOp
  arrayFree : Nat
  banks : KV Bank
  tracked : KV Tracked
  setups : KV Setup
  setupUse : List Nat
  setupAge : Nat
deriving DecidableEq, Repr

/-! ## Contexts and the device -/

/-- A fault record held for a page-request ring (R246). -/
abbrev FaultRec := List Byte

/-- The control registers of a context (R235, R246, R251, R254, R269, R282, R325, R326, R408). -/
structure Ctx where
  ptroot : Dword
  ctxcfg : Dword
  pfring : Dword
  pfhead : Word
  pftail : Word
  pfheld : List FaultRec
  swparea : Dword
  osspill : Dword
  osquota : Word
  trapvec : Dword
  pinQuota : Word
  scopes : KV Dword
deriving DecidableEq, Repr

/-- An ordered-section entry (R321). HOLDER has five bits for a slot, and `owner` is the key of the troupe that HOLDER means, a
handler troupe's among them (R322, R410). -/
structure Section where
  ctx : Nat
  key : Word
  e : Word
  held : Bool
  holder : BitVec 24
  owner : Nat := 0
  abandoned : Bool
  gapStart : Option Nat
  spilled : Option Nat
deriving DecidableEq, Repr

/-- A partition as the sequencer runs it (R385): whether it runs, its context and its rows, and the context to which a swap in
progress takes it (R417). -/
structure Part where
  running : Bool
  ctx : Nat
  rows : Nat
  incoming : Option Nat := none
  /-- A context whose swap was refused (R418). -/
  refused : Option Nat
  /-- Ensembles that have waited 100 µs at the top (R400): re-admission or not, and the ensemble's or company's key. -/
  holds : List (Bool × Nat)
deriving DecidableEq, Repr

/-- A context's share of one unit, kept while its partition runs another context (R417, R418). `place` is a place on a
lattice die, or none in the overflow area; `waiting` are its accesses behind a push that is held for good; `badScr` are the
uncorrectable words of its scratch (R458). -/
structure SavedUnit where
  ctx : Nat
  unit : Nat
  place : Option Nat
  since : Nat
  state : TileUnit
  cores : List (Nat × Core)
  troupes : List (Nat × Troupe)
  holds : List (Nat × Hold)
  enss : List (Nat × Ensemble)
  scratch : List Host.Cell
  waiting : List WaitItem
  badScr : List Nat := []
deriving DecidableEq, Repr

/-- The frame block (R445, R446). -/
structure FrameBlock where
  period : Nat
  en : Bool
  lock : Bool
  number : Word
  start : Nat
  length : Nat
  master : Nat
  lost : Bool
  locked : Bool
  skew : Word
  lastMeasure : Nat
  subst : Word
  /-- Frames, by context, in which a timetable missed its deadline or lost a troupe (R449, R452). -/
  failed : List (Nat × Word) := []
deriving DecidableEq, Repr

/-- A frame output (R450 to R452): its two registers, the last frame sent, presented images by frame number, and frames that were
substituted. -/
structure Output where
  cfg : Dword
  mv : Dword
  last : Option Image
  presents : List (Word × Image)
  substituted : List Word
deriving DecidableEq, Repr

/-- The debug block (R422). -/
structure Debug where
  en : Bool
  ctx : Nat
  sel : Dword
  data : Dword
  err : BitVec 2
  busy : Bool
deriving DecidableEq, Repr

/-- The management controller (R453 to R457): READY, THROTTLE and the cycles to which grants and VEC acceptance are held,
boot, SPDM, drained devices. -/
structure Mgmt where
  ready : BitVec 35
  throttle : Word
  matHold : Nat
  vecHold : Nat
  bootNext : Nat
  recovery : Bool
  /-- Images that firmware updates have put in place, by stage. -/
  firmware : KV BootImage
  measurements : KV (BitVec 384)
  log : List (Nat × BitVec 384)
  spdmVersion : Bool
  spdmCaps : Bool
  spdmAlgs : Bool
  handshake : Option Word
  session : Option Word
  response : List Dword
  drained : List Nat
  /-- The device is in a domain; it has joined one and has not locked since (R453). -/
  member : Bool
  joined : Bool
  deviceNo : BitVec 8
deriving DecidableEq, Repr

/-- The device. -/
structure State where
  /-- `clk64` (R443). -/
  now : Nat
  mem : Memory
  /-- The key under which each block of 16 bytes was last written (R240). -/
  memTag : KV (BitVec 512)
  keys : KV KeySlot
  badMem : List Nat
  badScr : List Nat
  /-- Scratch bytes, keyed by unit × 2^23 + physical offset. -/
  scratch : Memory
  storeQ : List StoreItem
  /-- Accesses that wait for earlier ones of their threads, oldest first (R279). -/
  waitQ : List WaitItem
  units : KV TileUnit
  cores : KV Core
  troupes : KV Troupe
  holds : KV Hold
  enss : KV Ensemble
  comps : KV Company
  ctxs : KV Ctx
  sections : List Section
  /-- Where engines have written done records, by physical address: a load of one observes a completion (R292). -/
  doneAt : List Nat
  slices : KV Cache
  replicas : List Nat
  remote : KV (List (Nat × Nat))
  shells : List Shell
  saved : KV SavedEns
  savedUnits : List SavedUnit
  /-- For each row (R385), the context whose state its units hold (R20). -/
  rowCtx : KV Nat
  ptbase : Dword
  seqEn : Bool
  passNo : Dword
  shovf : Dword
  parts : KV Part
  tails : KV Dword
  frame : FrameBlock
  outputs : KV Output
  dbg : Debug
  mgmt : Mgmt
  /-- For each pair of source and destination, numbered source × 1024 + destination, the cycle in which the last message between them
  arrives (R364). -/
  mesh : KV Nat
  /-- For each engine that serves its cores in turn, the core that it served last, plus 1 (R354). -/
  turns : KV Nat
  agenda : List (Nat × Instr)
  inbox : List Instr
  focus : Option Focus
  /-- The cycle, plus 1, of the last swap-out test, and the troupes parked in it then (R252). -/
  tested : Nat × Nat
  /-- The model's own counters: identifiers given out, and free values drawn (log 4). -/
  ids : Nat
  draws : Nat
deriving DecidableEq, Repr

/-! ## Reset values -/

/-- A thread at admission (R72). -/
def Thread.init : Thread := { qs := [], preds := 0, tags := [] }

/-- No clause (R72). -/
def Clause.none : Clause := { setx := 15, sety := 15, len := 0 }

/-- Not speculative. -/
def Spec.none : Spec :=
  { sketches := [], regions := [], checkpoint := Option.none, held := [], trap := [], squashed := false }

/-- A troupe with the initial state of R72 and R402; admission sets its identity. -/
def Troupe.init : Troupe :=
  { ctx := 0, comp := 0, ens := 0, eix := 0, text := 0, segs := 1, pc := 0, fell := false, active := 0xFFFF, g := [],
    threads := List.replicate 16 Thread.init, outs := [], clause := Clause.none, maskStack := [], retStack := [],
    vclaim := 0, vregs := [], fpEnable := 0, fpFlags := 0, sat := 0, handler := false, slotResume := 0, causeReg := 0,
    epc := 0, eslot := 0, eaddr := 0, redoPass := 0, redo := 0, label := 0, wopen := 0, scopesel := 3, bars := [],
    split := none, replay := [], woken := false, parkedAt := none, origins := [], tickets := [], wait := none,
    mfence := none, spec := Spec.none, halt := .running, late := [], async := [], readyAt := 0, lastIssue := 0, lane := 0,
    yielded := false, stopping := false, stopped := false, kids := [] }

/-- A cache that holds nothing. -/
def Cache.init : Cache := { ways := [], pins := [], sched := none }

/-- The deque at reset and at the start of each context (R78). -/
def Deque.init : Deque := { recs := [], lifo := false, base := 0, cap := 0, head := 0, tail := 0 }

/-- A core at reset: PLANES 5, AFMT 5, WFMT 5, ROT 0, SPARE 1 in `fmt` (R138). -/
def Core.init : Core :=
  { fmt := 0x85505, fmtNext := [], deque := Deque.init, tlb := [], frames := [], collector := [], hslots := [],
    engines := [], promises := [], conflicts := 0, bypass := 0, lanes := [], paths := [], port := [], pushes := [], gens := [],
    plane := none, planeQueue := [] }

/-- A unit at reset. -/
def TileUnit.init : TileUnit :=
  { l1 := Cache.init, tlb := [], partials := [], rtab := [], running := [], arrayFree := 0, banks := [],
    tracked := [], setups := [], setupUse := [], setupAge := 0 }

/-- A context at its start: GAPT 1,000, PARKT 40 (R251), pin quota 4,096 (R269), section quota 1,024 (R325). -/
def Ctx.init : Ctx :=
  { ptroot := 0, ctxcfg := 0x3E8002800, pfring := 0, pfhead := 0, pftail := 0, pfheld := [], swparea := 0, osspill := 0,
    osquota := 1024, trapvec := 0, pinQuota := 4096, scopes := [] }

/-- A bank in A9 mode with every row zero (R186). -/
def Bank.init : Bank := { a17 := false, rows := [] }

/-- A barrier of an ensemble of T troupes at admission (R299). -/
def Bar.init (t : Nat) : Bar := { e := t, arr := 0, phases := 0, scope := 1, link := none }

/-- A semaphore at admission (R307). -/
def Sem.init : Sem := { count := 0, pending := 0, expect := 0, arr := 0, armed := false, ovf := false, scope := 1 }

/-- The frame block at reset (R445). -/
def FrameBlock.init : FrameBlock :=
  { period := 1800, en := false, lock := false, number := 0, start := 0, length := 1800, master := 0, lost := false,
    locked := false, skew := 0, lastMeasure := 0, subst := 0 }

/-- An output at reset (R450). -/
def Output.init : Output := { cfg := 0, mv := 0, last := none, presents := [], substituted := [] }

/-- The debug block at reset (R422). -/
def Debug.init : Debug := { en := false, ctx := 0, sel := 0, data := 0, err := 0, busy := false }

/-- The management controller at reset (R454, R455); the device number before fabric training is open (log 2). -/
def Mgmt.init : Mgmt :=
  { ready := 0, throttle := 0, matHold := 0, vecHold := 0, bootNext := 0, recovery := false, firmware := [],
    measurements := [], log := [], spdmVersion := false, spdmCaps := false, spdmAlgs := false, handshake := none,
    session := none, response := [], drained := [], member := false, joined := false, deviceNo := 0 }

/-- No descriptor. -/
def Desc.init : Desc :=
  { entry := 0, text := 0, args := 0, done := 0, ttable := 0, place := 0, gx := 1, gy := 1, gz := 1, segs := 1, mode := 0,
    prio := 0, troupes := 1, vregs := 0, barriers := 0, sems := 0, accs := 0, scratch := 0 }

/-- The device right after reset: `clk64` 0 (R443), no troupe, nothing loaded, every register at its reset value. -/
def State.reset : State :=
  { now := 0, mem := [], memTag := [], keys := [], badMem := [], badScr := [], scratch := [], storeQ := [], waitQ := [], units := [],
    cores := [], troupes := [], holds := [], enss := [], comps := [], ctxs := [], sections := [], doneAt := [], slices := [],
    replicas := [], remote := [], shells := [], saved := [], savedUnits := [], rowCtx := [], ptbase := 0, seqEn := false, passNo := 0,
    shovf := 0, parts := [], tails := [], frame := FrameBlock.init, outputs := [], dbg := Debug.init,
    mgmt := Mgmt.init, mesh := [], turns := [], agenda := [], inbox := [], focus := none, tested := (0, 0), ids := 0, draws := 0 }

end Sys2Proof.Machine
end

