-- ==== Sys2Proof/Machine/Ops.lean ====
section
/-! DEFINITION. The named operations over the state that every family shares: reading and changing troupes, cores, units,
ensembles and contexts; scheduling; completion flags; arrivals; taking a trap, parking and holding (19_traps R402 to R407,
R409; 11_translation R242; 04_work R69); ending a bundle; return into a split bundle. -/

namespace Sys2Proof.Machine

/-! ## Numbers of things -/

/-- The core of a troupe key. -/
def coreOf (tk : Nat) : Nat := tk / 64
/-- The slot of a troupe key; 32 and 33 are handler slots. -/
def slotOf (tk : Nat) : Nat := tk % 64
/-- The unit of a troupe key. -/
def unitOf (tk : Nat) : Nat := tk / 256
/-- The `cix` of a troupe key. -/
def cixOf (tk : Nat) : Nat := coreOf tk % 4
/-- The lane of a troupe slot: lane l holds slots 2l and 2l + 1 (R114). -/
def laneOf (tk : Nat) : Nat := slotOf tk / 2
/-- A unit is a guide cluster. -/
def isGuide (u : Nat) : Bool := decide (288 ≤ u)
/-- The die of a unit: 0 and 1 lattice, 2 guide (R16). -/
def dieOf (u : Nat) : Nat := if u < 144 then 0 else if u < 288 then 1 else 2
/-- Scratch granules of a unit: 96 of a tile, 16 of a cluster (R217). -/
def granulesOf (u : Nat) : Nat := if isGuide u then 16 else 96
/-- Key of a scratch byte. -/
def scrKey (u off : Nat) : Nat := u * 8388608 + off

/-! ## Access to the parts of the state -/

def State.troupe (s : State) (tk : Nat) : Option Troupe := kfind s.troupes tk
def State.setTroupe (s : State) (tk : Nat) (t : Troupe) : State := { s with troupes := kset s.troupes tk t }
def State.modTroupe (s : State) (tk : Nat) (f : Troupe → Troupe) : State := { s with troupes := kupd s.troupes tk f }
def State.core (s : State) (c : Nat) : Core := kget Core.init s.cores c
def State.modCore (s : State) (c : Nat) (f : Core → Core) : State := { s with cores := kset s.cores c (f (s.core c)) }
def State.tile (s : State) (u : Nat) : TileUnit := kget TileUnit.init s.units u
def State.modUnit (s : State) (u : Nat) (f : TileUnit → TileUnit) : State := { s with units := kset s.units u (f (s.tile u)) }
def State.ctx (s : State) (c : Nat) : Ctx := kget Ctx.init s.ctxs c
def State.modCtx (s : State) (c : Nat) (f : Ctx → Ctx) : State := { s with ctxs := kset s.ctxs c (f (s.ctx c)) }
def State.ens (s : State) (e : Nat) : Option Ensemble := kfind s.enss e
def State.modEns (s : State) (e : Nat) (f : Ensemble → Ensemble) : State := { s with enss := kupd s.enss e f }
def State.comp (s : State) (c : Nat) : Option Company := kfind s.comps c
def State.modComp (s : State) (c : Nat) (f : Company → Company) : State := { s with comps := kupd s.comps c f }

/-- A context is privileged when its identifier is below 16 (R403). -/
def privileged (ctx : Nat) : Bool := decide (ctx < 16)

/-- A fresh identifier. -/
def State.fresh (s : State) : Nat × State := (s.ids, { s with ids := s.ids + 1 })

/-- The cycle at which a variable-latency operation ends that takes at least `least` cycles (R38, log 4). -/
def State.drawTime (s : State) (least : Nat) : Nat × State :=
  (s.now + least + Config.latency s.draws, { s with draws := s.draws + 1 })

/-- The cycle at which a message from one place of the device reaches another: those of one source and destination arrive in the order
in which they were sent (R364), one in a cycle (log 57). -/
def State.meshTime (s : State) (src dst : Nat) : Nat × State :=
  let r := s.drawTime 1
  let t := max r.1 (kget 0 s.mesh (1024 * src + dst) + 1)
  (t, { r.2 with mesh := kset s.mesh (1024 * src + dst) t })

/-- Puts an event on the agenda for a cycle. -/
def State.schedule (s : State) (time : Nat) (i : Instr) : State := { s with agenda := s.agenda ++ [(time, i)] }

/-- The generation of a troupe slot (R104). -/
def State.genOf (s : State) (tk : Nat) : Nat := kget 0 (s.core (coreOf tk)).gens (slotOf tk)

/-- A thread of a troupe. -/
def Troupe.thread (t : Troupe) (i : Nat) : Thread := t.threads.getD i Thread.init
def Troupe.setThread (t : Troupe) (i : Nat) (th : Thread) : Troupe := { t with threads := lset t.threads i th }
def Troupe.gread (t : Troupe) (i : Nat) : Dword := kget 0 t.g i
def Troupe.gwrite (t : Troupe) (i : Nat) (v : Dword) : Troupe := { t with g := kset t.g i v }

/-- The threads named by a mask, rising. -/
def threadsOf (m : BitVec 16) : List Nat := (upTo 16).filter (fun t => m.getLsbD t)
/-- The mask of a list of threads. -/
def maskOf (l : List Nat) : BitVec 16 := l.foldl (fun m t => m ||| BitVec.ofNat 16 (2 ^ t)) 0
/-- The leader: the lowest-indexed thread of a mask (R102). -/
def leaderOf (m : BitVec 16) : Nat := (threadsOf m).headD 0

/-! ## Causes -/

/-- A trap cause met by one thread: code (R404), detail, fault value. -/
structure Cause where
  cause : Nat
  detail : Nat
  value : Dword
deriving DecidableEq, Repr

/-- A cause whose fault value the manual does not state: a free value (log 14). -/
def openCause (c d cyc : Nat) : Cause := { cause := c, detail := d, value := Config.faultValue c d cyc }

/-- The cause codes of R404. -/
def cIllegalSlot : Nat := 0x01
def cIllegalBundle : Nat := 0x02
def cPriv : Nat := 0x03
def cQueueUnder : Nat := 0x04
def cQueueOver : Nat := 0x05
def cVregUnclaimed : Nat := 0x06
def cAlign : Nat := 0x07
def cPageAbsent : Nat := 0x08
def cPagePerm : Nat := 0x09
def cScratchBounds : Nat := 0x0A
def cWindowAbsent : Nat := 0x0B
def cFpExc : Nat := 0x0C
def cIntDiv0 : Nat := 0x0D
def cSoftware : Nat := 0x0E
def cBreak : Nat := 0x0F
def cPromiseLate : Nat := 0x10
def cOrdStale : Nat := 0x11
def cOrdGap : Nat := 0x12
def cOrdCycle : Nat := 0x13
def cDepth : Nat := 0x14
def cMatConfig : Nat := 0x15
def cFormat : Nat := 0x16
def cDataUnc : Nat := 0x17
def cSpecLimit : Nat := 0x18
def cSpillFull : Nat := 0x19
def cSemOver : Nat := 0x1A
def cBridge : Nat := 0x1B

/-! ## Completion flags (R36 to R39) -/

/-- The count of flag i. -/
def Troupe.flagCount (t : Troupe) (i : Nat) : Nat := (t.outs.filter (fun o => o.flag == i)).length

/-- Every flag that a WAIT mask names is clear (R36). -/
def Troupe.flagsClear (t : Troupe) (mask : BitVec 12) : Bool :=
  t.outs.all (fun o => !(decide (o.flag < 12) && mask.getLsbD o.flag))

/-- One more part of an outstanding operation is under way. -/
def Troupe.addParts (t : Troupe) (op n : Nat) : Troupe :=
  { t with outs := t.outs.map (fun o => if o.op = op then { o with pend := o.pend + n } else o) }

/-- One part of an outstanding operation has ended; the flag falls with the last (R39). -/
def Troupe.closePart (t : Troupe) (op : Nat) : Troupe :=
  let l := t.outs.map (fun o => if o.op = op then { o with pend := o.pend - 1 } else o)
  { t with outs := l.filter (fun o => o.op != op || o.pend != 0) }

/-- Ends one part of an operation, when there is one. -/
def Troupe.closeOpt (t : Troupe) : Option Nat → Troupe
  | none => t
  | some op => t.closePart op

/-- Opens (or, at a re-entry, takes up again) the outstanding operation of the slot, with one part that the slot itself
holds while it runs (R39). -/
def openOp (s : State) (f : Focus) (flag : Nat) : Nat × State :=
  match f.op with
  | some op => (op, s)
  | none =>
    let op := s.ids
    (op, ({ s with ids := s.ids + 1 }).modTroupe f.troupe (fun t => { t with outs := t.outs ++ [({ op := op, flag := flag, pend := 1 } : Out)] }))

/-- A flag at 63 has no room for one more operation (R39). -/
def flagFull (s : State) (f : Focus) (flag : Nat) : Bool :=
  match s.troupe f.troupe with
  | none => false
  | some t => f.op.isNone && decide (flag < 12) && decide (63 ≤ t.flagCount flag)

/-- The flag that a slot selects: SETX, or SETY when `y` (R38). -/
def selectFlag (s : State) (f : Focus) (y : Bool) : Nat :=
  match s.troupe f.troupe with
  | none => 15
  | some t => if y then t.clause.sety else t.clause.setx

/-! ## Queues -/

/-- The positions of queue q. -/
def Thread.queue (th : Thread) (q : Nat) : List Entry := kget [] th.qs q
def Thread.setQueue (th : Thread) (q : Nat) (l : List Entry) : Thread := { th with qs := kset th.qs q l }

/-- A filled position as every reader sees it at cycle `cyc` (R71, R96). -/
def Pos.value (cyc : Nat) : Pos → Option (Except Cause Word)
  | .reserved _ => none
  | .timed _ due v => if due ≤ cyc then some (match v with
      | .word v => .ok v
      | .error c ea => .error { cause := c % 256, detail := c / 256, value := ea }) else none
  | .coming _ due v => if due ≤ cyc then some (match v with
      | .word v => .ok v
      | .error c ea => .error { cause := c % 256, detail := c / 256, value := ea }) else none
  | .filled v bad => if bad then some (.error (openCause cDataUnc 0 cyc)) else some (.ok v)
  | .mark c ea => some (.error { cause := c % 256, detail := c / 256, value := ea })
  | .tagged _ _ _ => none

/-- The position that an arrival leaves: filled, or with an error mark (R97, R229). -/
def fillPos : FillVal → Pos
  | .word v => .filled v false
  | .error c ea => .mark c ea

/-- The counts of a queue: filled and occupied positions, as `qcnt` and window loads see them (R109, R119). -/
def filledCount (cyc : Nat) (l : List Entry) : Nat := (l.filter (fun e => (e.pos.value cyc).isSome)).length

/-- The value at the head, or the trap that reading it meets (R98, R103, R406). -/
def Thread.head (th : Thread) (cyc q : Nat) : Except Cause Word :=
  match th.queue q with
  | [] => .error (openCause cQueueUnder 0 cyc)
  | e :: _ =>
    if e.fresh then .error (openCause cQueueUnder 0 cyc)
    else match e.pos.value cyc with
      | none => .error (openCause cQueueUnder 0 cyc)
      | some r => r

/-- Removes the head. -/
def Thread.drop (th : Thread) (q : Nat) : Thread := th.setQueue q (th.queue q).tail

/-- Adds the youngest positions, when there is room for all (R99). -/
def Thread.pushAll (th : Thread) (cyc q : Nat) (ps : List Pos) : Except Cause Thread :=
  if (th.queue q).length + ps.length ≤ 4 then
    .ok (th.setQueue q (th.queue q ++ ps.map (fun p => { pos := p, fresh := true })))
  else .error (openCause cQueueOver 0 cyc)

/-- Fills the position reserved for arrival `id` (R97); a position that was cancelled is not there and nothing happens. -/
def Thread.fill (th : Thread) (q id : Nat) (p : Pos) : Thread :=
  th.setQueue q ((th.queue q).map (fun e => match e.pos with
    | .reserved j => if j = id then { e with pos := p } else e
    | .timed j _ _ => if j = id then { e with pos := p } else e
    | .coming j _ _ => if j = id then { e with pos := p } else e
    | _ => e))

/-- Clears queue q: filled positions are discarded and reserved ones cancelled (R109). -/
def Thread.clear (th : Thread) (q : Nat) : Thread := th.setQueue q []

/-- Predicate p of a thread; p7 reads true (R107). -/
def Thread.pred (th : Thread) (p : Nat) : Bool := if p = 7 then true else th.preds.getLsbD p
/-- Writes a predicate; a write of p7 is discarded (R107). -/
def Thread.setPred (th : Thread) (p : Nat) (v : Bool) : Thread :=
  if p = 7 then th
  else { th with preds := (th.preds &&& ~~~(BitVec.ofNat 7 (2 ^ p))) ||| (if v then BitVec.ofNat 7 (2 ^ p) else 0) }

/-- Every queue without the marks of the open bundle (R406). -/
def Thread.settle (th : Thread) : Thread :=
  { th with qs := th.qs.map (fun p => (p.1, p.2.map (fun e => { e with fresh := false }))) }

/-! ## Results that arrive (R97, R104) -/

/-- A troupe is halted or stopped: results that arrive drain into its snapshot buffer (R419, R421). -/
def Troupe.drains (t : Troupe) : Bool := t.stopped || t.halt == .halted

/-- Fills the positions of an arrival in the troupe's threads; those of a stopped troupe stay reserved, with tag 0 (R419). -/
def applyFills (t : Troupe) (fs : List Fill) : Troupe :=
  fs.foldl (fun t f => t.setThread f.thread ((t.thread f.thread).fill f.queue f.id
    (if t.drains then .tagged f.id 0 f.val else fillPos f.val))) t

/-- The access at the head of a replay list has completed and leaves it; the list goes on with its next entry, or the troupe
is parked no more (R247). -/
def Troupe.replayDone (t : Troupe) : Troupe :=
  match t.replay with
  | { sent := true, .. } :: rest =>
    if rest.isEmpty then { t with replay := [], woken := false, parkedAt := none, surfaced := t.surfaced || !t.late.isEmpty } else { t with replay := rest, woken := true }
  | _ => t

/-- A result arrives: it is discarded when its generation is not the slot's (R104), otherwise it fills its positions,
writes its g register, sets its flags, and its part of the operation ends. -/
def deliver (s : State) (a : Arrival) : State :=
  if s.genOf a.troupe = a.gen then
    s.modTroupe a.troupe (fun t =>
      let t := applyFills t a.fills
      let t := match a.gdst with | some (i, v) => t.gwrite i v | none => t
      let t := { t with fpFlags := t.fpFlags ||| a.fp }
      let t := if a.last then t.closePart a.op else t
      if a.replayed then t.replayDone else t)
  else s

/-! ## Clause state and the end of a bundle -/

/-- The clause state after one more bundle (R37). -/
def Clause.step (c : Clause) : Clause :=
  if c.len = 0 then c else if c.len = 1 then Clause.none else { c with len := c.len - 1 }

/-- The address after the bundle of a focus whose last slot is the current one. -/
def Focus.after (f : Focus) : Nat := f.base + 4 * (f.k + f.width)

/-- The segment frame of a core that holds the segment of an address; one with a bad word holds it no more, and is expanded again (R393,
R458). -/
def State.frameOf (s : State) (tk : Nat) (t : Troupe) (addr : Nat) : Option Frame :=
  (s.core (coreOf tk)).frames.find? (fun r => r.ctx == t.ctx && r.text == t.text && r.seg == (addr - t.text) / 4096 && !r.bad)

/-- Where a bundle that falls through to an address continues: at the start of the next segment when the address lies at
or past the used length, and, past the last segment's, at that address; the flag says that it fell past a used length (R392). A segment without a word is passed over at the issue
(`atEmpty`, log 50). -/
def fallThrough (s : State) (tk : Nat) (t : Troupe) (from_ addr : Nat) : Nat × Bool :=
  match s.frameOf tk t from_ with
  | none => (addr, false)
  | some r =>
    let start := t.text + 4096 * r.seg
    if start + 4 * r.words.length ≤ addr then
      (if r.seg + 1 < t.segs then (start + 4096, true) else (addr, true))
    else (addr, false)

/-- Where the bundle of a focus falls through to; a held slot whose segment has left the frames goes where it led when the slot
was read. -/
def Focus.next (s : State) (f : Focus) (t : Troupe) : Nat × Bool :=
  if (s.frameOf f.troupe t f.base).isSome then fallThrough s f.troupe t f.base f.after else f.cont

/-- A position as it stands in the snapshot buffer of a troupe whose last bundle issued at `last` (R419): a fixed latency leaves a
tag, and a result of variable latency, a scratch load among them (R38), one when it arrives. -/
def Pos.drain (now last : Nat) : Pos → Pos
  | .timed id due v => if due ≤ now then fillPos v else .tagged id (due - last) v
  | .coming id due v => if due ≤ now then fillPos v else .reserved id
  | p => p

/-- Drains the results on their way to a troupe into its snapshot buffer (R120, R419). -/
def drainTroupe (now : Nat) (t : Troupe) : Troupe :=
  { t with threads := t.threads.map (fun th =>
      { th with qs := th.qs.map (fun p => (p.1, p.2.map (fun e => { e with pos := e.pos.drain now t.lastIssue }))) }) }

/-- The bundle ends: the program counter moves on, positions pushed by it become visible, the clause counts it (R37,
R406), and the lane stays occupied for 16 cycles from issue (R68). -/
def finishBundle (s : State) (f : Focus) : State :=
  let s' : State := s.modTroupe f.troupe (fun t =>
    let n := match f.target with | some a => (a, false) | none => f.next s t
    { t with
      pc := n.1, fell := n.2, threads := t.threads.map Thread.settle, clause := t.clause.step, split := none,
      readyAt := max t.readyAt (f.issue + 16) })
  ({ s' with focus := none } : State).modTroupe f.troupe (fun t =>
    if t.halt == .stepping then drainTroupe s.now { t with halt := .halted, slotResume := 8 } else t)

/-! ## Holding a bundle (R69, R92) -/

/-- Splits the bundle at slot k for the given threads; nothing else of the troupe changes. The predicates and the `scopesel`
of its first issue go with it (R156, R290). -/
def splitAt (f : Focus) (k : Nat) (pass redo : BitVec 16) (op : Option Nat) (t : Troupe) : Troupe :=
  { t with split := some { slot := k, pass := pass, redo := redo, op := op, preds := f.latch.threads.map (fun th => th.preds), scopesel := f.latch.scopesel, answer := f.answer },
           readyAt := max t.readyAt (f.issue + 16) }

/-- The slot holds while it acts, or waits for its condition: the focus is kept until the wait ends (R69, R92). -/
def holdActing (s : State) (f : Focus) (w : Wait) : State :=
  { (s.modTroupe f.troupe (fun t => { t with wait := some w, readyAt := max t.readyAt (f.issue + 16) }))
    with holds := kset s.holds f.troupe { focus := f, wait := w }, focus := none }

/-- The slot holds and has not acted: the troupe is not ready until what it waits for is there, and the bundle then re-enters
at the slot (R69). -/
def holdFor (s : State) (f : Focus) (w : Wait) : State :=
  { s.modTroupe f.troupe (fun t => { splitAt f f.k f.pass f.run f.op t with wait := some w }) with focus := none }

/-- The slot holds for room in a completion flag (R39). -/
def holdFlag (s : State) (f : Focus) (flag : Nat) : State := holdFor s f (.room flag none false)

/-- A clause header waits: the bundle has not begun (R36). -/
def holdHeader (s : State) (f : Focus) (mask : BitVec 12) : State :=
  { s.modTroupe f.troupe (fun t => { t with wait := some (.header mask), split := none }) with focus := none }

/-! ## Tag counters (R345, R346) -/

/-- Tag counter N of a thread. -/
def Thread.tag (th : Thread) (n : Nat) : TagCtr := kget { n := 0, err := none } th.tags n
def Thread.setTag (th : Thread) (n : Nat) (c : TagCtr) : Thread := { th with tags := kset th.tags n c }

/-- A transfer ends; a failure is recorded unless one is recorded already. -/
def Thread.tagDown (n : Nat) (err : Option (Nat × Dword)) (th : Thread) : Thread :=
  th.setTag n { n := (th.tag n).n - 1, err := (th.tag n).err.orElse (fun _ => err) }

/-! ## Squash of predicted tiles (R367, R381, R383) -/

/-- The bytes of an entry's own record, as they stand in its ensemble's scratch (R368). -/
def recordNow (s : State) (u : Nat) (k : Tracked) : List Byte :=
  match s.ens k.ens with
  | some e => readList s.scratch (scrKey u (65536 * e.base + k.hist)) 64
  | none => k.record

/-- The entry that a record gives to which software has stored: free values within the limits of an entry, its history no further than
the allocation (R2, R368; log 28). -/
def storedEntry (size : Nat) (k : Tracked) (bs : List Byte) : Tracked :=
  let f := Config.entryField bs
  let slot (n : Nat) : Option Nat := if n % 4 = 3 then none else some (n % 4)
  let blocks := 1 + f 0 % 1024
  { k with blocks := if k.hist + 64 + 192 * blocks ≤ size then blocks else k.blocks, fmt := f 1 % 3, hold := f 2 % 2 == 1,
           version := BitVec.ofNat 32 (f 3), v0 := slot (f 4), v1 := slot (f 5), undo := slot (f 6), outcome := f 7 % 3, record := bs }

/-- Entry T of a unit, whose own record gives its values where software has stored to it (R368). -/
def entryOf (s : State) (u t : Nat) : Option Tracked :=
  (kfind (s.tile u).tracked t).map (fun k =>
    if recordNow s u k = k.record then k
    else storedEntry (match s.ens k.ens with | some e => 65536 * e.count | none => 0) k (recordNow s u k))
def setEntry (s : State) (u t : Nat) (k : Tracked) : State :=
  s.modUnit u (fun x => { x with tracked := kset x.tracked t { k with record := recordNow s u k } })

/-- A speculative version is removed (R381): v1 takes back v0, v0 the undo copy, VERSION falls by one. -/
def unpost (k : Tracked) : Tracked :=
  { k with v1 := k.v0, v0 := k.undo, undo := none, version := k.version - 1, specBy := none }

/-- A troupe leaves the consumer set of every sketch of its unit. -/
def leaveSketches (s : State) (tk : Nat) : State :=
  s.modUnit (unitOf tk) (fun x => { x with tracked := x.tracked.map (fun p => (p.1, { p.2 with sketch := p.2.sketch.map (fun q => (q.1, q.2.1, q.2.2.filter (fun c => c != tk))) })) })

/-- An asynchronous trap is due at the next issue: the troupe is about to issue a bundle, or has come back to the one in which it
stands (R358, R407). -/
def Troupe.asyncDue (t : Troupe) : Bool := (t.split.isNone || t.surfaced) && !(t.late.isEmpty && t.async.isEmpty)

/-- The pending asynchronous traps without the oldest (R407). -/
def Troupe.dropAsync (t : Troupe) : Troupe :=
  match t.late, t.async with
  | x :: xs, o :: os => if x.id < o.id then { t with late := xs } else { t with async := os }
  | _ :: xs, [] => { t with late := xs }
  | [], _ :: os => { t with async := os }
  | [], [] => t

/-- What goes with an access that a squash discards: the positions that a load has reserved, the place of a transfer in its tag
counters. -/
def discardAct (i : Nat) (a : Act) (t : Troupe) : Troupe :=
  match a with
  | .load _ _ _ q _ ids _ =>
    let th := t.thread i
    t.setThread i (th.setQueue q ((th.queue q).filter (fun e => !(match e.pos with | .reserved j => ids.contains j | _ => false))))
  | .copy c => c.threads.foldl (fun t j => t.setThread j ((t.thread j).tagDown c.tag none)) t
  | _ => t

/-- Every held effect and every access of the replay list that has not been made is discarded. -/
def discardActs (t : Troupe) : Troupe :=
  (t.replay.filter (fun r => !r.sent)).foldl (fun u r => discardAct r.thread r.act u)
    (t.spec.held.foldl (fun u h => discardAct h.thread h.act u) t)

/-- The stores that a squashed troupe has made since its checkpoint, all of them to bytes of its spec regions (R375), and that have still
to perform, are discarded with its run (R381). -/
def dropSpecStores (s : State) (tk : Nat) : State :=
  match (s.troupe tk).bind (fun t => t.spec.checkpoint) with
  | none => s
  | some c =>
    let waits (x : WaitItem) : Bool := x.who.troupe == tk && x.who.gen == s.genOf tk && decide (c.seq ≤ x.id) &&
      (match x.what with | .access (.store ..) _ => true | .access (.bytes _) _ => true | _ => false)
    let port (p : PortItem) : PortItem :=
      if p.troupe = tk && p.gen = s.genOf tk && decide (c.seq ≤ p.id) then (match p.act with | .store .. => { p with act := .done } | _ => p) else p
    ({ s with waitQ := s.waitQ.filter (fun x => !waits x) }).modCore (coreOf tk) (fun k => { k with port := k.port.map port })

/-- A squashed troupe stops: its held effects, replay list, trap and wait are discarded, the asynchronous trap for which it had
stopped among them (R377), and its stores on their way; its checkpoint stays for the restart. -/
def stopSquashed (s : State) (tk : Nat) : State :=
  let s := (leaveSketches (dropSpecStores s tk) tk).modTroupe tk (fun t =>
    let t := discardActs (if t.wait == some .commit && t.asyncDue then t.dropAsync else t)
    { t with replay := [], woken := false, parkedAt := none, origins := [], wait := none, split := none,
             spec := { t.spec with sketches := [], regions := [], held := [], trap := [], squashed := true } })
  { s with holds := kdel s.holds tk,
           focus := (match s.focus with | some f => if f.troupe = tk then none else some f | none => none) }

/-- Entries of a unit on which a troupe posted a speculative version. -/
def postedBy (s : State) (tk : Nat) : List Nat :=
  ((s.tile (unitOf tk)).tracked.filter (fun p => p.2.specBy == some tk)).map (fun p => p.1)

/-- Removes the speculative version of an entry. -/
def unpostAt (s : State) (u t : Nat) : State := match entryOf s u t with | some k => setEntry s u t (unpost k) | none => s

/-- Squashes the outstanding sketch of an entry with its consumers, and every sketch built on a version that one of them
posted; `fuel` bounds the depth of the cascade, which R374 holds to three troupes. -/
def squashSketch : Nat → State → Nat → Nat → State
  | 0, s, _, _ => s
  | fuel + 1, s, u, t =>
    match entryOf s u t with
    | none => s
    | some k => match k.sketch with
      | none => s
      | some (_, _, cs) =>
        let s := setEntry s u t { k with sketch := none, outcome := 1 }
        cs.foldl (fun s c => stopSquashed ((postedBy s c).foldl (fun s p => unpostAt (squashSketch fuel s u p) u p) s) c) s

/-- The sketches on the versions that a troupe posted are squashed, and those versions removed. -/
def dropPosts (fuel : Nat) (s : State) (tk : Nat) : State :=
  (postedBy s tk).foldl (fun s p => unpostAt (squashSketch fuel s (unitOf tk) p) (unitOf tk) p) s

/-- The depth to which cascades are followed. -/
def cascade : Nat := 8

/-- A troupe that ends leaves every consumer set. The sketches on the speculative versions that it posted are squashed, and those versions
are removed (R383; DEDUCED, log 28). -/
def endSpeculation (s : State) (tk : Nat) (t : Troupe) : State :=
  if t.spec.sketches.isEmpty then s else leaveSketches (dropPosts cascade s tk) tk

/-! ## Taking a trap (R402, R405, R409) -/

/-- A lowest-indexed fault. -/
def firstFault : List (Nat × Cause) → Nat × Cause
  | [] => (0, { cause := 0, detail := 0, value := 0 })
  | x :: xs => xs.foldl (fun b y => if y.1 < b.1 then y else b) x

/-- Writes `stat`.SLOT_RESUME, `cause`, `epc`, `eslot`, `eaddr` and `redo` (R402). -/
def writeTrapRegs (resume k base : Nat) (pass redo : BitVec 16) (c : Cause) (t : Troupe) : Troupe :=
  { t with slotResume := BitVec.ofNat 4 resume, causeReg := BitVec.ofNat 16 (c.detail * 256 + c.cause), epc := base,
           eslot := BitVec.ofNat 4 k, eaddr := c.value, redoPass := pass, redo := redo }

/-- The origins of a list of faults (R409), with identifiers from `id` on. -/
def originsOf (id k : Nat) (async : Bool) (l : List (Nat × Cause)) : List Origin :=
  l.zipIdx.map (fun p => { id := id + p.2, thread := p.1.1, cause := p.1.2.cause, detail := p.1.2.detail,
                           value := p.1.2.value, slot := k, async := async, arrived := false, res := none })

/-- The part of a flag's operation that a parked access still counts on (R242); one whose access has been made counts until
its result arrives. -/
def parkedOp (r : Replay) : Option Nat :=
  if r.sent then none else match r.act with
  | .load _ _ _ _ op _ _ => some op
  | .atom _ _ _ _ _ op _ _ _ _ => some op
  | .copy c => some c.op
  | _ => none

/-- A replay entry of a killed thread: a transfer of several threads stays for the others (R345, R415). -/
def killedEntry (i : Nat) (r : Replay) : Option Replay :=
  match r.act with
  | .copy c => match c.threads.filter (fun j => j != i) with
    | [] => none
    | j :: js => some { r with thread := if r.thread = i then j else r.thread, act := .copy { c with threads := j :: js } }
  | _ => if r.thread = i then none else some r

/-- A thread leaves the active mask and every mask-stack entry, its queues are cleared, and its replay entries are discarded
with their flag counts (R250, R415). -/
def dropThread (i : Nat) (t : Troupe) : Troupe :=
  let m : BitVec 16 := ~~~(BitVec.ofNat 16 (2 ^ i))
  let left := t.replay.filterMap (killedEntry i)
  let u : Troupe := { t with
    active := t.active &&& m, maskStack := t.maskStack.map (fun p => (p.1 &&& m, p.2 &&& m)),
    replay := left, parkedAt := if left.isEmpty then none else t.parkedAt, threads := lset t.threads i { t.thread i with qs := [] } }
  (t.replay.filter (fun r => (killedEntry i r).isNone)).foldl (fun u r => u.closeOpt (parkedOp r)) u

/-- The sections of a context that the given threads of a troupe hold are abandoned (R339); a trap alone keeps them (R340). -/
def abandonSections (s : State) (ctx tk gen : Nat) (ths : List Nat) : State :=
  { s with sections := s.sections.map (fun e =>
      if e.held && e.ctx == ctx && e.owner == tk && e.holder.toNat / 1048576 == gen
          && ths.contains (e.holder.toNat / 65536 % 16)
      then { e with held := false, abandoned := true } else e) }

/-- A troupe ends (R86): its slot is freed, its registers return to the pool, its sections are abandoned, and its ensemble
counts one troupe less. Results in flight are discarded by their generation when they arrive (R104). -/
def endTroupe (s : State) (tk : Nat) : State :=
  match s.troupe tk with
  | none => s
  | some t =>
    let s := endSpeculation (abandonSections s t.ctx tk (s.genOf tk) (upTo 16)) tk t
    let s := s.modEns t.ens (fun e => { e with exited := e.exited + 1, troupes := e.troupes.filter (fun k => k != tk) })
    { s with troupes := kdel s.troupes tk, holds := kdel s.holds tk,
             focus := (match s.focus with | some f => if f.troupe = tk then none else some f | none => none) }

/-- A frame whose scan-out has not begun fails for a context (R449, R452). -/
def failFrame (s : State) (ctx : Nat) (n : Word) : State :=
  if 2 ^ 31 ≤ (n - s.frame.number).toNat || s.frame.failed.contains (ctx, n) then s
  else { s with frame := { s.frame with failed := s.frame.failed ++ [(ctx, n)] } }

/-- A troupe of a timetabled company is killed during the current frame (R452). -/
def failKilled (s : State) (comp : Nat) : State :=
  match s.comp comp with
  | none => s
  | some c => if c.tt.isSome then failFrame s c.ctx s.frame.number else s

/-- A thread is killed (R415): it leaves the troupe, its sections are abandoned, the troupe counts as killed with the
cause of its first killed thread (R89: the company keeps the first such cause), and the troupe ends with the
last thread of its active mask, which is never empty at an issue (R73; DEDUCED, log 18). Its replay list is
discarded (R250). -/
def killThread (s : State) (tk i cause : Nat) : State :=
  let s := abandonSections s (match s.troupe tk with | some t => t.ctx | none => 4096) tk (s.genOf tk) [i]
  let s := s.modTroupe tk (dropThread i)
  match s.troupe tk with
  | none => s
  | some t =>
    let s := s.modComp t.comp (fun k => { k with firstCause := k.firstCause.orElse (fun _ => some cause) })
    let s := failKilled s t.comp
    if t.active = 0 then endTroupe s tk else s

/-- Marks an origin of a troupe as resolved. -/
def markOrigin (id : Nat) (r : Resolution) (t : Troupe) : Troupe :=
  { t with origins := t.origins.map (fun o => if o.id = id && o.res.isNone then { o with res := some r } else o) }

/-- Resolves the origin with an identifier, once, wherever its troupe is (R414). A kill takes effect at once; supply and
retry take effect at the re-entry. The origin of a swapped-out ensemble keeps its resolution until re-admission. -/
def settleOrigin (s : State) (id : Nat) (r : Resolution) : State :=
  let s : State := { s with saved := s.saved.map (fun p => (p.1, { p.2 with troupes := p.2.troupes.map (fun q => (q.1, markOrigin id r q.2)) })) }
  match s.troupes.find? (fun p => p.2.origins.any (fun o => o.id == id && o.res.isNone)) with
  | none => s
  | some (tk, t) =>
    let s := s.modTroupe tk (markOrigin id r)
    match r, t.origins.find? (fun o => o.id == id) with
    | .kill, some o => killThread s tk o.thread o.cause
    | _, _ => s

/-- Frees a handler slot: its tickets are settled as given and the troupe goes (R413). -/
def endHandler (s : State) (tk : Nat) (r : Resolution) : State :=
  match s.troupe tk with
  | none => s
  | some t =>
    let s := t.tickets.foldl (fun s k => settleOrigin s k.id r) s
    let s := abandonSections s t.ctx tk (s.genOf tk) (upTo 16)
    let s := s.modCore (coreOf tk) (fun c => { c with hslots := kdel c.hslots (slotOf tk) })
    { s with troupes := kdel s.troupes tk, holds := kdel s.holds tk,
             focus := (match s.focus with | some f => if f.troupe = tk then none else some f | none => none) }

/-- Threads of a handler troupe that meet a trap end, and their origins are killed; the troupe ends with its last thread (R413). -/
def handlerLoses (s : State) (tk : Nat) (faults : List (Nat × Cause)) : State :=
  match s.troupe tk with
  | none => s
  | some t =>
    let s := faults.foldl (fun s x => match t.tickets[x.1]? with | some k => settleOrigin s k.id .kill | none => s) s
    let s := abandonSections s t.ctx tk (s.genOf tk) (faults.map (fun x => x.1))
    let s := s.modTroupe tk (fun t => faults.foldl (fun t x => dropThread x.1 t) t)
    if t.active &&& ~~~(maskOf (faults.map (fun x => x.1))) = 0 then endHandler s tk .kill else s

/-- A trap in threads of a handler troupe at its slot: the other threads go on (R413), and the slot's own part of its operation
ends with the slot (R39). -/
def handlerTrap (s : State) (f : Focus) (faults : List (Nat × Cause)) : State :=
  let s := (handlerLoses s f.troupe faults).modTroupe f.troupe (fun t => t.closeOpt f.op)
  let gone := ~~~(maskOf (faults.map (fun x => x.1)))
  if (s.troupe f.troupe).isNone then s
  else { s with focus := some { f with pass := f.pass &&& gone, run := f.run &&& gone, op := none } }

/-- Taking a precise trap at the slot of the focus (R405): slots before it have committed, the slot has committed for the
other threads of PASS, the faulting threads form REDO, and their origins reach the handler collector when the bundle's
16 cycles end (R409). A speculative troupe keeps the trap until its speculation is decided (R377). -/
def takeTrap (s : State) (f : Focus) (faults : List (Nat × Cause)) : State :=
  match s.troupe f.troupe with
  | none => s
  | some t =>
    if t.handler then handlerTrap s f faults
    else
      let redo := maskOf (faults.map (fun x => x.1))
      let os := originsOf s.ids f.k false faults
      let s := { s with ids := s.ids + faults.length, focus := none }
      if t.spec.sketches != [] && (firstFault faults).2.cause != cSpecLimit then
        s.modTroupe f.troupe (fun t => { splitAt f f.k f.pass redo f.op t with
          wait := some .commit, spec := { t.spec with trap := t.spec.trap ++ os } })
      else
        (s.modTroupe f.troupe (fun t =>
          { writeTrapRegs f.k f.k f.base f.pass redo (firstFault faults).2 (splitAt f f.k f.pass redo f.op t) with
            origins := t.origins ++ os })).schedule (f.issue + 16) (.originArrival f.troupe)

/-- A trap that strikes every thread that runs the slot alike (R102). -/
def trapAll (s : State) (f : Focus) (c : Cause) : State := takeTrap s f ((threadsOf f.run).map (fun t => (t, c)))

/-- A trap of a uniform slot in the leader alone (R102). -/
def trapLeader (s : State) (f : Focus) (c : Cause) : State := takeTrap s f [(leaderOf f.run, c)]

/-- Writes `stat`.SLOT_RESUME, `epc`, `eslot` and `redo` at a park or a halt (R402): neither has a faulting thread, and `cause` and
`eaddr` stay as they are; PAGE_ABSENT comes into `cause` only when the parked troupe is halted (R404). -/
def writeSplitRegs (resume k base : Nat) (pass redo : BitVec 16) (t : Troupe) : Troupe :=
  { t with slotResume := BitVec.ofNat 4 resume, epc := base, eslot := BitVec.ofNat 4 k, redoPass := pass, redo := redo }

/-- The troupe stops at the slot of the focus with its replay entries: the bundle has ended, or splits at the slot's end
(R242). -/
def parkAfter (s : State) (f : Focus) (entries : List Replay) : State :=
  let park (t : Troupe) : Troupe := { t with replay := t.replay ++ entries, woken := false, parkedAt := some s.now }
  if f.last then
    (finishBundle s f).modTroupe f.troupe (fun t => writeSplitRegs 8 f.k f.base f.pass 0 (park t))
  else
    { s.modTroupe f.troupe (fun t =>
        writeSplitRegs (f.k + 1) f.k f.base f.pass 0 (park (splitAt f (f.k + f.width) f.pass 0 none t))) with focus := none }

/-- Parks the troupe at the slot of the focus with its replay entries (R242 to R244); `faults` are the threads that met a
trap at the same slot. SLOT_RESUME is k + 1 when no thread trapped. The threads of a handler troupe that trapped end, and the
others park (R413). -/
def parkSlot (s : State) (f : Focus) (entries : List Replay) (faults : List (Nat × Cause)) : State :=
  if faults.isEmpty then parkAfter s f entries
  else match s.troupe f.troupe with
    | none => s
    | some t =>
      if t.handler then
        let s := handlerTrap s f faults
        match s.focus with
        | some g => if g.troupe = f.troupe then parkAfter s g entries else s
        | none => s
      else takeTrap (s.modTroupe f.troupe (fun t => { t with replay := t.replay ++ entries, woken := false, parkedAt := some s.now })) f faults

/-- After the slot of the focus has run in some threads and met faults in others: it commits (the focus stays for the
next slot), or the bundle splits. -/
def settleSlot (s : State) (f : Focus) (faults : List (Nat × Cause)) : State :=
  if faults.isEmpty then s else takeTrap s f faults

/-! ## A slot and its troupe -/

/-- Runs a slot meaning at the focus. -/
def atSlot (s : State) (k : Focus → Troupe → State) : Host.Outcome State Fault Refusal :=
  match s.focus with
  | none => .fault .noSlot
  | some f => match s.troupe f.troupe with
    | none => .fault .noSlot
    | some t => .next (k f t)

/-- Sets the branch target of the open bundle. -/
def branchTo (s : State) (f : Focus) (target : Nat) : State := { s with focus := some { f with target := some target } }

end Sys2Proof.Machine
end

