-- ==== Sys2Proof/Machine/Operands.lean ====
section
/-! DEFINITION. Every operand form of the scalar classes (02_words R29 to R35; 05_queues R97 to R103, R106; 07_scalar
R146, R147): reading a source, writing a destination, running a slot in each thread, running it in the leader. -/

namespace Sys2Proof.Machine

/-- A source as it is read: its value and the width rule of R146 that applies to it. -/
inductive Operand where
  /-- A q register or `lit`: 32 bits, sign-extended where 64 are wanted. -/
  | narrow (v : Word)
  /-- A g register: 64 bits. -/
  | wide (v : Dword)
  /-- `z`, `tix`, `lix`, `cix`, `clk`, `eix`: zero-extended. -/
  | plain (v : Word)
deriving DecidableEq, Repr

/-- Bits [31:0] of a source (R146, W = 32). -/
def Operand.lo : Operand → Word
  | .narrow v => v
  | .wide v => v.setWidth 32
  | .plain v => v

/-- A source at W = 64 (R146). -/
def Operand.hi : Operand → Dword
  | .narrow v => v.signExtend 64
  | .wide v => v
  | .plain v => v.setWidth 64

/-- val(X): the 32-bit value, or the 64-bit value of a g register, zero-extended (R109). -/
def Operand.val : Operand → Dword
  | .narrow v => v.setWidth 64
  | .wide v => v
  | .plain v => v.setWidth 64

/-- An address source of R225: g gives 64 bits, `lit` is sign-extended, every other source zero-extended. -/
def Operand.addr (isLit : Bool) : Operand → Dword
  | .narrow v => if isLit then v.signExtend 64 else v.setWidth 64
  | .wide v => v
  | .plain v => v.setWidth 64

/-- The `lix` of a troupe: its lane; of a handler troupe, which has no lane of its own (R412), the lane in whose turn the
bundle issued (log 48). -/
def lixOf (f : Focus) : Nat := if slotOf f.troupe < 32 then laneOf f.troupe else f.latch.lane

/-- The names that are not queues, as a source of thread t (R32). A g register reads as it stood at issue (R29). `eix` of a handler
troupe, which belongs to no ensemble (R413), reads 0 (log 18). -/
def fixedOperand (f : Focus) (t : Nat) (x : BitVec 6) : Operand :=
  if x.toNat < 48 then .wide (f.latch.gread (x.toNat - 32))
  else if x = 57 then .plain (BitVec.ofNat 32 t)
  else if x = 58 then .plain (BitVec.ofNat 32 (lixOf f))
  else if x = 59 then .plain (BitVec.ofNat 32 (cixOf f.troupe))
  else if x = 60 then .plain (BitVec.ofNat 32 f.issue)
  else if x = 61 then .narrow f.lit
  else if x = 62 then .plain (BitVec.ofNat 32 f.latch.eix)
  else .plain 0

/-- Reads source x in thread t at cycle `cyc`: a q register is popped, or peeked when k is set (R32, R98). -/
def readSrc (f : Focus) (cyc t : Nat) (th : Thread) (x : BitVec 6) (k : Bool) : Except Cause (Operand × Thread) :=
  if x.toNat < 32 then
    match th.head cyc x.toNat with
    | .error c => .error c
    | .ok v => .ok (.narrow v, if k then th else th.drop x.toNat)
  else .ok (fixedOperand f t x, th)

/-- What a slot does in one thread: the thread afterwards, a g register written, IEEE exception signals, saturation, and
words that arrive later with their own signals (R71, R165). -/
structure Fx where
  th : Thread
  g : Option (Nat × Dword)
  fp : BitVec 5
  sat : Bool
  late : Option (List Word × BitVec 5) := none
deriving DecidableEq, Repr

/-- write(D, v) of R109: a q register is pushed with bits [31:0], a g register set, `z` discards. -/
def writeDst (cyc : Nat) (th : Thread) (d : BitVec 6) (v : Dword) : Except Cause Fx :=
  if d.toNat < 32 then
    match th.pushAll cyc d.toNat [.filled (v.setWidth 32) false] with
    | .error c => .error c
    | .ok th => .ok { th := th, g := none, fp := 0, sat := false }
  else if d.toNat < 48 then .ok { th := th, g := some (d.toNat - 32, v), fp := 0, sat := false }
  else .ok { th := th, g := none, fp := 0, sat := false }

/-- Pushes several words into a q register at once, or gives a g register the last (R99, R427). -/
def writeWords (cyc : Nat) (th : Thread) (d : BitVec 6) (vs : List Word) : Except Cause Fx :=
  if d.toNat < 32 then
    match th.pushAll cyc d.toNat (vs.map (fun v => .filled v false)) with
    | .error c => .error c
    | .ok th => .ok { th := th, g := none, fp := 0, sat := false }
  else if d.toNat < 48 then .ok { th := th, g := some (d.toNat - 32, (vs.getLastD 0).setWidth 64), fp := 0, sat := false }
  else .ok { th := th, g := none, fp := 0, sat := false }

/-- What a slot did in one thread of the sixteen. -/
inductive Ran where
  | idle
  | done (x : Fx)
  | failed (c : Cause)
deriving DecidableEq, Repr

/-- Runs a body in every thread of the mask, each on its own thread state (R9, R68). -/
def ranOf (run : BitVec 16) (ths : List Thread) (body : Nat → Thread → Except Cause Fx) : List Ran :=
  ths.mapIdx (fun i th => if run.getLsbD i then (match body i th with | .ok x => .done x | .error c => .failed c) else .idle)

/-- The threads after a slot. -/
def ranThreads (ths : List Thread) (rs : List Ran) : List Thread :=
  List.zipWith (fun th r => match r with | .done x => x.th | _ => th) ths rs

/-- The faults of a slot, by rising thread. -/
def ranFaults (rs : List Ran) : List (Nat × Cause) :=
  rs.zipIdx.filterMap (fun p => match p.1 with | .failed c => some (p.2, c) | _ => none)

/-- The threads that have committed a slot before the given ones run it again: those of PASS that do not run it now, from the
highest on. -/
def Focus.above (f : Focus) (i : Nat) : Bool := (threadsOf (f.pass &&& ~~~f.run)).any (fun j => decide (i < j))

/-- The results of the threads of a slot that keep what they write to a g register: the value of a thread that has committed the
slot already and has a higher index remains (R106). -/
def keepG (f : Focus) (rs : List Ran) : List Ran :=
  rs.mapIdx (fun i r => match r with | .done x => .done (if f.above i then { x with g := none } else x) | r => r)

/-- The g registers after a slot: the highest-indexed thread that wrote keeps its value (R106). -/
def ranG (g : KV Dword) (rs : List Ran) : KV Dword :=
  rs.foldl (fun g r => match r with | .done { g := some (i, v), .. } => kset g i v | _ => g) g

/-- The IEEE signals of a slot. A thread that raises FP_EXC has signalled what its fault value holds (R158). A thread that
signals and then meets QUEUE_OVER on its destination sets no sticky bit, since it has not committed (log 49). -/
def ranFp (rs : List Ran) : BitVec 5 :=
  rs.foldl (fun m r => match r with
    | .done x => m ||| x.fp
    | .failed c => if c.cause = cFpExc then m ||| c.value.setWidth 5 else m
    | .idle => m) 0

/-- Some thread of a slot saturated. -/
def ranSat (rs : List Ran) : Bool := rs.any (fun r => match r with | .done x => x.sat | _ => false)

/-- The troupe after a slot that ran as given. -/
def applyRan (t : Troupe) (rs : List Ran) : Troupe :=
  { t with threads := ranThreads t.threads rs, g := ranG t.g rs, fpFlags := t.fpFlags ||| ranFp rs,
           sat := if ranSat rs then 1 else t.sat }

/-- A per-thread slot (R68, R99, R147): it runs in each thread of the run mask, commits for those that met no cause, and
splits the bundle when some thread met one. -/
def perThread (s : State) (f : Focus) (t : Troupe) (body : Nat → Thread → Except Cause Fx) : State :=
  let rs := keepG f (ranOf f.run t.threads body)
  settleSlot (s.modTroupe f.troupe (fun t => applyRan t rs)) f (ranFaults rs)

/-- A slot that holds reserves n positions in queue q of every thread that runs it, when it issues (R97): in a thread that has room
for them once its sources are popped, as `popped` leaves it (R99). -/
def keepSpots (s : State) (f : Focus) (popped : Nat → Thread → Thread) (q n : Nat) : State × Focus :=
  let room (t : Troupe) (i : Nat) : Bool := decide (((popped i (t.thread i)).queue q).length + n ≤ 4)
  let place (t : Troupe) (i : Nat) : Troupe :=
    t.setThread i ((t.thread i).setQueue q ((t.thread i).queue q ++
      (upTo n).map (fun j => { pos := .reserved (s.ids + 2 * i + j), fresh := true })))
  (({ s with ids := s.ids + 32 } : State).modTroupe f.troupe (fun t =>
    ((threadsOf f.run).filter (room t)).foldl place t), { f with kept := some s.ids })

/-- A uniform slot that holds reserves its position in q register d, `lead` being the leader with its sources popped (R97). -/
def keepPlaces (s : State) (f : Focus) (lead : Option Thread) (d : BitVec 6) : State × Focus :=
  if d.toNat < 32 && f.kept.isNone then keepSpots s f (fun i th => if i = leaderOf f.run then lead.getD th else th) d.toNat 1
  else (s, f)

/-- The positions that a holding slot has reserved in thread i. -/
def Focus.spots (f : Focus) (i n : Nat) : List Nat := match f.kept with | some b => (upTo n).map (fun j => b + 2 * i + j) | none => []

/-- The positions that a holding slot has reserved are released: it does not commit (R100). -/
def releasePlaces (s : State) (f : Focus) : State :=
  match f.kept with
  | none => s
  | some b => s.modTroupe f.troupe (fun t => { t with threads := t.threads.map (fun th =>
      { th with qs := th.qs.map (fun q => (q.1, q.2.filter (fun e => match e.pos with | .reserved j => decide (j < b) || decide (b + 32 ≤ j) | _ => true))) }) })

/-- The answer of a uniform slot in thread i: its reserved position fills, or, with none reserved, it is written (R97, R102). -/
def answerDst (f : Focus) (i : Nat) (th : Thread) (d : BitVec 6) (v : Word) : Except Cause Fx :=
  match f.kept with
  | none => writeDst f.issue th d (v.setWidth 64)
  | some b =>
    if (th.queue d.toNat).any (fun e => e.pos == .reserved (b + 2 * i)) then
      .ok { th := th.fill d.toNat (b + 2 * i) (.filled v false), g := none, fp := 0, sat := false }
    else .error (openCause cQueueOver 0 f.issue)

/-- A uniform slot answers: it pushes a word into q register d of every thread that runs it, or sets g register d, or
discards; the leader's thread is taken with its sources popped. Threads whose queue has no room trap, and the slot has acted
but for their pushes (R102). -/
def answerUniform (s : State) (f : Focus) (lead : Option Thread) (d : BitVec 6) (v : Word) : State :=
  match s.troupe f.troupe with
  | none => s
  | some t =>
    let l := match f.answer with | some (l, _) => l | none => leaderOf f.run
    perThread s { f with answer := some (l, v) } t (fun i th =>
      answerDst f i (if i = l then lead.getD th else th) d v)

/-- A uniform slot with a queue destination: one that has answered already pushes that answer in the threads that run it
again, with the leader's pops if the leader is one of them; otherwise it acts (R102). -/
def uniformAnswer (s : State) (f : Focus) (d : BitVec 6) (popped : Nat → Option Thread) (act : State) : State :=
  match f.answer with
  | some (l, v) => answerUniform s f (popped l) d v
  | none => act

/-- A value of a g field, `z` or `lit` of a uniform slot, as it stood at issue. -/
def uniformVal (f : Focus) (x : BitVec 6) : Dword :=
  match fixedOperand f 0 x with
  | .narrow v => v.signExtend 64
  | .wide v => v
  | .plain v => v.setWidth 64

/-- Writes a g register or discards, for a uniform slot whose D is g or `z`. -/
def writeG (s : State) (f : Focus) (d : BitVec 6) (v : Dword) : State :=
  if 32 ≤ d.toNat && d.toNat < 48 then s.modTroupe f.troupe (fun t => t.gwrite (d.toNat - 32) v) else s

/-- What a meaning answers. -/
abbrev Res := Host.Outcome State Fault Refusal

/-- Runs an always-uniform slot: once when at least one active thread passes the guard, and not otherwise (R42). -/
def atUniform (s : State) (k : Focus → Troupe → State) : Res :=
  atSlot s (fun f t => if f.run = 0 then s else k f t)

/-- A g field of a V-form slot: 0 to 15 for g0 to g15; `z` gives 0 (R170, R197). -/
def vField (f : Focus) (x : BitVec 5) : Dword := if x.toNat < 16 then f.latch.gread x.toNat else 0

/-- A slot executes uniformly when its destination and sources are all drawn from g, `z`, `lit` and `cix` (R35). -/
def uniformNames (l : List (BitVec 6)) : Bool :=
  l.all (fun x => (32 ≤ x.toNat && x.toNat < 48) || x == 56 || x == 61 || x == 59)

end Sys2Proof.Machine
end

