-- ==== Sys2Proof/Machine/Integer.lean ====
section
/-! DEFINITION. The integer group: INT, INT2, INTI, SHI (07_scalar R145 to R153), MOV (05_queues R108 to R110) and CMP's
integer and predicate functions (07_scalar R154 to R156). -/

namespace Sys2Proof.Machine

/-! ## Shared shapes -/

/-- A result at the width W of R146: 64 when D is a g register, else 32 and zero-extended. -/
def atWidth (d : BitVec 6) (op : (n : Nat) → BitVec n → BitVec n → BitVec n) (a b : Operand) : Dword :=
  if isG d then op 64 a.hi b.hi else (op 32 a.lo b.lo).setWidth 64

/-- A two-source slot in one thread. -/
def body2 (f : Focus) (x : RegF) (op : Operand → Operand → Dword) (i : Nat) (th : Thread) : Except Cause Fx :=
  match readSrc f (f.issue + i) i th x.a (x.ka == 1) with
  | .error c => .error c
  | .ok (a, th) => match readSrc f (f.issue + i) i th x.b (x.kb == 1) with
    | .error c => .error c
    | .ok (b, th) => writeDst (f.issue + i) th x.d (op a b)

/-- An accumulating slot in one thread: D is read after A and B, always popped when it is a queue (R101). -/
def body3 (f : Focus) (x : RegF) (op : Operand → Operand → Operand → Dword) (i : Nat) (th : Thread) : Except Cause Fx :=
  match readSrc f (f.issue + i) i th x.a (x.ka == 1) with
  | .error c => .error c
  | .ok (a, th) => match readSrc f (f.issue + i) i th x.b (x.kb == 1) with
    | .error c => .error c
    | .ok (b, th) => match readSrc f (f.issue + i) i th x.d false with
      | .error c => .error c
      | .ok (d, th) => writeDst (f.issue + i) th x.d (op a b d)

/-- A one-source slot in one thread. -/
def body1 (f : Focus) (x : UnF) (op : Operand → Dword) (i : Nat) (th : Thread) : Except Cause Fx :=
  match readSrc f (f.issue + i) i th x.a (x.ka == 1) with
  | .error c => .error c
  | .ok (a, th) => writeDst (f.issue + i) th x.d (op a)

/-- An immediate slot in one thread (R153). -/
def bodyI (f : Focus) (x : ImmF) (op : Operand → Dword) (i : Nat) (th : Thread) : Except Cause Fx :=
  match readSrc f (f.issue + i) i th x.a (x.ka == 1) with
  | .error c => .error c
  | .ok (a, th) => writeDst (f.issue + i) th x.d (op a)

/-! ## INT (R148, R149) -/

/-- `shl` by a count that is never masked (R149). -/
def shlBy {n : Nat} (a : BitVec n) (c : Nat) : BitVec n := if c < n then a <<< c else 0
/-- `shr` (R149). -/
def shrBy {n : Nat} (a : BitVec n) (c : Nat) : BitVec n := if c < n then a >>> c else 0
/-- `sar` (R149). -/
def sarBy {n : Nat} (a : BitVec n) (c : Nat) : BitVec n :=
  if c < n then a.sshiftRight c else if a.msb then BitVec.allOnes n else 0

/-- A shift at the width of R146, by the low word of B. -/
def shiftWidth (d : BitVec 6) (op : (n : Nat) → BitVec n → Nat → BitVec n) (a b : Operand) : Dword :=
  if isG d then op 64 a.hi b.lo.toNat else (op 32 a.lo b.lo.toNat).setWidth 64

/-- A 32-bit result, zero-extended (R146). -/
def narrow2 (op : Word → Word → Word) (a b : Operand) : Dword := (op a.lo b.lo).setWidth 64

def minS (a b : Word) : Word := if BitVec.slt b a then b else a
def maxS (a b : Word) : Word := if BitVec.slt a b then b else a
def minU (a b : Word) : Word := if b < a then b else a
def maxU (a b : Word) : Word := if a < b then b else a
def absS (a : Word) : Word := if a.msb then -a else a

def addResult (d : BitVec 6) : Operand → Operand → Dword := atWidth d (fun _ a b => a + b)
def subResult (d : BitVec 6) : Operand → Operand → Dword := atWidth d (fun _ a b => a - b)
def andResult (d : BitVec 6) : Operand → Operand → Dword := atWidth d (fun _ a b => a &&& b)
def orResult (d : BitVec 6) : Operand → Operand → Dword := atWidth d (fun _ a b => a ||| b)
def xorResult (d : BitVec 6) : Operand → Operand → Dword := atWidth d (fun _ a b => a ^^^ b)
def andnResult (d : BitVec 6) : Operand → Operand → Dword := atWidth d (fun _ a b => a &&& ~~~b)
def shlResult (d : BitVec 6) : Operand → Operand → Dword := shiftWidth d (fun _ a c => shlBy a c)
def shrResult (d : BitVec 6) : Operand → Operand → Dword := shiftWidth d (fun _ a c => shrBy a c)
def sarResult (d : BitVec 6) : Operand → Operand → Dword := shiftWidth d (fun _ a c => sarBy a c)
def mulResult (d : BitVec 6) : Operand → Operand → Dword := atWidth d (fun _ a b => a * b)
/-- a × b + d, low W bits (R148). -/
def madResult (d : BitVec 6) (a b c : Operand) : Dword :=
  if isG d then a.hi * b.hi + c.hi else (a.lo * b.lo + c.lo).setWidth 64

/-- Runs a two-source slot in every thread. -/
def exec2 (x : RegF) (op : Operand → Operand → Dword) (s : State) : Res :=
  atSlot s (fun f t => perThread s f t (body2 f x op))
/-- Runs an accumulating slot in every thread. -/
def exec3 (x : RegF) (op : Operand → Operand → Operand → Dword) (s : State) : Res :=
  atSlot s (fun f t => perThread s f t (body3 f x op))
/-- Runs a one-source slot in every thread. -/
def exec1 (x : UnF) (op : Operand → Dword) (s : State) : Res := atSlot s (fun f t => perThread s f t (body1 f x op))
/-- Runs an immediate slot in every thread. -/
def execI (x : ImmF) (op : Operand → Dword) (s : State) : Res := atSlot s (fun f t => perThread s f t (bodyI f x op))

/-- `add` (R148). -/
def execAdd (x : RegF) (s : State) : Res := exec2 x (addResult x.d) s
/-- `sub` (R148). -/
def execSub (x : RegF) (s : State) : Res := exec2 x (subResult x.d) s
/-- `and` (R148). -/
def execAnd (x : RegF) (s : State) : Res := exec2 x (andResult x.d) s
/-- `or` (R148). -/
def execOr (x : RegF) (s : State) : Res := exec2 x (orResult x.d) s
/-- `xor` (R148). -/
def execXor (x : RegF) (s : State) : Res := exec2 x (xorResult x.d) s
/-- `andn` (R148). -/
def execAndn (x : RegF) (s : State) : Res := exec2 x (andnResult x.d) s
/-- `shl` (R149). -/
def execShl (x : RegF) (s : State) : Res := exec2 x (shlResult x.d) s
/-- `shr` (R149). -/
def execShr (x : RegF) (s : State) : Res := exec2 x (shrResult x.d) s
/-- `sar` (R149). -/
def execSar (x : RegF) (s : State) : Res := exec2 x (sarResult x.d) s
/-- `min.i32` (R148). -/
def execMinI32 (x : RegF) (s : State) : Res := exec2 x (narrow2 minS) s
/-- `max.i32` (R148). -/
def execMaxI32 (x : RegF) (s : State) : Res := exec2 x (narrow2 maxS) s
/-- `min.n32` (R148). -/
def execMinN32 (x : RegF) (s : State) : Res := exec2 x (narrow2 minU) s
/-- `max.n32` (R148). -/
def execMaxN32 (x : RegF) (s : State) : Res := exec2 x (narrow2 maxU) s
/-- `abs.i32` (R148). -/
def execAbsI32 (x : UnF) (s : State) : Res := exec1 x (fun a => (absS a.lo).setWidth 64) s
/-- `mad` (R148). -/
def execMad (x : RegF) (s : State) : Res := exec3 x (madResult x.d) s

/-! ## INT2 (R150 to R152) -/

/-- Bits [63:32] of the signed product. -/
def mulhS (a b : Word) : Word := (a.signExtend 64 * b.signExtend 64).extractLsb' 32 32
/-- Bits [63:32] of the unsigned product. -/
def mulhU (a b : Word) : Word := (a.setWidth 64 * b.setWidth 64 : Dword).extractLsb' 32 32
/-- Number of 1 bits (R150). -/
def popcount (a : Word) : Word := BitVec.ofNat 32 ((upTo 32).filter (fun i => a.getLsbD i)).length
/-- Number of leading zero bits; 32 for 0 (R150). -/
def leadingZeros (a : Word) : Word := BitVec.ofNat 32 ((upTo 32).takeWhile (fun i => !a.getLsbD (31 - i))).length
/-- Bit i of the result is bit 31 − i (R150). -/
def bitReverse (a : Word) : Word := (upTo 32).foldl (fun r i => if a.getLsbD (31 - i) then r ||| BitVec.ofNat 32 (2 ^ i) else r) 0

/-- `bfe` (R152). -/
def bfeResult (signed : Bool) (a b : Word) : Word :=
  let pos := (b.extractLsb' 0 8).toNat
  let len := min (b.extractLsb' 8 8).toNat 32
  let x : Dword := if signed then a.signExtend 64 else a.setWidth 64
  let y := (if signed then x.sshiftRight (min pos 63) else x >>> (min pos 63)).extractLsb' 0 len
  if len = 0 then 0 else if signed then y.signExtend 32 else y.setWidth 32

/-- `bfi`: a's low bits into the field of the base (R152). -/
def bfiResult (a b base : Word) : Word :=
  let pos := (b.extractLsb' 0 8).toNat
  let len := min (b.extractLsb' 8 8).toNat 32
  (upTo len).foldl (fun r i =>
    if pos + i ≤ 31 then (r &&& ~~~(BitVec.ofNat 32 (2 ^ (pos + i)))) ||| (if a.getLsbD i then BitVec.ofNat 32 (2 ^ (pos + i)) else 0)
    else r) base

/-- Clamps to the signed 32-bit range; the second part says that it clamped (R150). -/
def clampS (v : Int) : Word × Bool :=
  if v < -2147483648 then (0x80000000, true) else if 2147483647 < v then (0x7FFFFFFF, true) else (BitVec.ofInt 32 v, false)

/-- A two-source slot whose operation can fail or saturate, in one thread (R147, R150, R151). -/
def body2e (f : Focus) (x : RegF) (op : Word → Word → Except Cause (Word × Bool)) (i : Nat) (th : Thread) : Except Cause Fx :=
  match readSrc f (f.issue + i) i th x.a (x.ka == 1) with
  | .error c => .error c
  | .ok (a, th) => match readSrc f (f.issue + i) i th x.b (x.kb == 1) with
    | .error c => .error c
    | .ok (b, th) => match op a.lo b.lo with
      | .error c => .error c
      | .ok (v, sat) => match writeDst (f.issue + i) th x.d (v.setWidth 64) with
        | .error c => .error c
        | .ok r => .ok { r with sat := sat }

/-- A division: INT_DIV0 with the dividend as fault value when b is 0 (R151). -/
def divide (op : Word → Word → Word) (a b : Word) : Except Cause (Word × Bool) :=
  if b = 0 then .error { cause := cIntDiv0, detail := 0, value := a.setWidth 64 } else .ok (op a b, false)

/-- Runs such a slot in every thread. -/
def exec2e (x : RegF) (op : Word → Word → Except Cause (Word × Bool)) (s : State) : Res :=
  atSlot s (fun f t => perThread s f t (body2e f x op))

/-- `mul` (R150). -/
def execMul (x : RegF) (s : State) : Res := exec2 x (mulResult x.d) s
/-- `mulh.i32` (R150). -/
def execMulhI32 (x : RegF) (s : State) : Res := exec2 x (narrow2 mulhS) s
/-- `mulh.n32` (R150). -/
def execMulhN32 (x : RegF) (s : State) : Res := exec2 x (narrow2 mulhU) s
/-- `div.i32` (R151). -/
def execDivI32 (x : RegF) (s : State) : Res := exec2e x (divide BitVec.sdiv) s
/-- `div.n32` (R151). -/
def execDivN32 (x : RegF) (s : State) : Res := exec2e x (divide BitVec.udiv) s
/-- `rem.i32` (R151). -/
def execRemI32 (x : RegF) (s : State) : Res := exec2e x (divide BitVec.srem) s
/-- `rem.n32` (R151). -/
def execRemN32 (x : RegF) (s : State) : Res := exec2e x (divide BitVec.umod) s
/-- `popc` (R150). -/
def execPopc (x : UnF) (s : State) : Res := exec1 x (fun a => (popcount a.lo).setWidth 64) s
/-- `clz` (R150). -/
def execClz (x : UnF) (s : State) : Res := exec1 x (fun a => (leadingZeros a.lo).setWidth 64) s
/-- `brev` (R150). -/
def execBrev (x : UnF) (s : State) : Res := exec1 x (fun a => (bitReverse a.lo).setWidth 64) s
/-- `bfe.n32` (R152). -/
def execBfeN32 (x : RegF) (s : State) : Res := exec2 x (narrow2 (bfeResult false)) s
/-- `bfe.i32` (R152). -/
def execBfeI32 (x : RegF) (s : State) : Res := exec2 x (narrow2 (bfeResult true)) s
/-- `bfi` (R152). -/
def execBfi (x : RegF) (s : State) : Res := exec3 x (fun a b d => (bfiResult a.lo b.lo d.lo).setWidth 64) s
/-- `addsat.i32` (R150). -/
def execAddsatI32 (x : RegF) (s : State) : Res := exec2e x (fun a b => .ok (clampS (a.toInt + b.toInt))) s
/-- `subsat.i32` (R150). -/
def execSubsatI32 (x : RegF) (s : State) : Res := exec2e x (fun a b => .ok (clampS (a.toInt - b.toInt))) s

/-! ## INTI and SHI (R153) -/

/-- An immediate as a second source at either width. -/
def immOperand (imm : BitVec 9) : Operand := .narrow (imm.signExtend 32)

/-- `addi` (R153). -/
def execAddi (x : ImmF) (s : State) : Res := execI x (fun a => addResult x.d a (immOperand x.imm)) s
/-- `andi` (R153). -/
def execAndi (x : ImmF) (s : State) : Res := execI x (fun a => andResult x.d a (immOperand x.imm)) s
/-- `ori` (R153). -/
def execOri (x : ImmF) (s : State) : Res := execI x (fun a => orResult x.d a (immOperand x.imm)) s
/-- `xori` (R153). -/
def execXori (x : ImmF) (s : State) : Res := execI x (fun a => xorResult x.d a (immOperand x.imm)) s
/-- `shli` (R153). -/
def execShli (x : ImmF) (s : State) : Res := execI x (fun a => shlResult x.d a (immOperand x.imm)) s
/-- `shri` (R153). -/
def execShri (x : ImmF) (s : State) : Res := execI x (fun a => shrResult x.d a (immOperand x.imm)) s
/-- `sari` (R153). -/
def execSari (x : ImmF) (s : State) : Res := execI x (fun a => sarResult x.d a (immOperand x.imm)) s
/-- `muli` (R153). -/
def execMuli (x : ImmF) (s : State) : Res := execI x (fun a => mulResult x.d a (immOperand x.imm)) s

/-! ## MOV (R108 to R110) -/

/-- `movi`: the immediate, sign-extended (R109). -/
def execMovi (x : LongF) (s : State) : Res :=
  atSlot s (fun f t => perThread s f t (fun i th => writeDst (f.issue + i) th x.d (x.imm.signExtend 64)))
/-- `movh`: the immediate in bits [31:16] (R109). -/
def execMovh (x : LongF) (s : State) : Res :=
  atSlot s (fun f t => perThread s f t (fun i th => writeDst (f.issue + i) th x.d ((x.imm ++ (0 : BitVec 16)).setWidth 64)))
/-- `mov D, A` (R109). -/
def execMov (x : UnF) (s : State) : Res := exec1 x Operand.val s
/-- `mov gD, A, B`: B forms bits [63:32] (R109). -/
def execMovPair (x : RegF) (s : State) : Res := exec2 x (fun a b => b.lo ++ a.lo) s
/-- `drop qA` (R109). -/
def execDrop (x : SrcF) (s : State) : Res :=
  atSlot s (fun f t => perThread s f t (fun i th =>
    match readSrc f (f.issue + i) i th x.a false with
    | .error c => .error c
    | .ok (_, th) => .ok { th := th, g := none, fp := 0, sat := false }))
/-- `dup qD, A` (R109, R110). -/
def execDup (x : UnF) (s : State) : Res :=
  atSlot s (fun f t => perThread s f t (fun i th =>
    match readSrc f (f.issue + i) i th x.a (x.ka == 1) with
    | .error c => .error c
    | .ok (a, th) => writeWords (f.issue + i) th x.d [a.lo, a.lo]))

/-- The counts of `qcnt`: free in [6:4], filled in [3:0] (R109). Positions pushed by the open bundle take room but are
not yet seen as filled (R29, R99). -/
def qcntWord (cyc : Nat) (l : List Entry) : Word :=
  BitVec.ofNat 32 ((4 - l.length) * 16 + filledCount cyc (l.filter (fun e => !e.fresh)))
/-- `qcnt D, qA` (R109). -/
def execQcnt (x : DaF) (s : State) : Res :=
  atSlot s (fun f t => perThread s f t (fun i th =>
    writeDst (f.issue + i) th x.d ((qcntWord (f.issue + i) (th.queue x.a.toNat)).setWidth 64)))

/-- Clears the queues whose bits are set (R109). -/
def clearQueues (m : Word) (th : Thread) : Thread := ((upTo 32).filter (fun q => m.getLsbD q)).foldl Thread.clear th
/-- `qclr qA` / `qclr gA` (R109). Slots take effect in order (R99), so a later slot of the same bundle that names a cleared queue
finds it empty and meets QUEUE_UNDER (log 51). -/
def execQclr (x : SrcF) (s : State) : Res :=
  atSlot s (fun f t => perThread s f t (fun _ th =>
    let m : Word := if isQ x.a then BitVec.ofNat 32 (2 ^ x.a.toNat) else (f.latch.gread (x.a.toNat - 32)).setWidth 32
    .ok { th := clearQueues m th, g := none, fp := 0, sat := false }))

/-! ## CMP on integers and predicates (R154, R155) -/

/-- A compare in one thread; the test may signal IEEE exceptions, which trap when enabled (R154, R158). -/
def bodyCmp (f : Focus) (t : Troupe) (x : CmpF) (op : Word → Word → Bool × BitVec 5) (i : Nat) (th : Thread) : Except Cause Fx :=
  match readSrc f (f.issue + i) i th x.a (x.ka == 1) with
  | .error c => .error c
  | .ok (a, th) => match readSrc f (f.issue + i) i th x.b (x.kb == 1) with
    | .error c => .error c
    | .ok (b, th) =>
      let r := op a.lo b.lo
      if r.2 &&& t.fpEnable != 0 then .error { cause := cFpExc, detail := 0, value := r.2.setWidth 64 }
      else .ok { th := th.setPred x.d.toNat r.1, g := none, fp := r.2, sat := false }

/-- Runs a compare in every thread. -/
def execCmp (x : CmpF) (op : Word → Word → Bool × BitVec 5) (s : State) : Res :=
  atSlot s (fun f t => perThread s f t (bodyCmp f t x op))

/-- `eq` (R154). -/
def execEq (x : CmpF) (s : State) : Res := execCmp x (fun a b => (a == b, 0)) s
/-- `ne` (R154). -/
def execNe (x : CmpF) (s : State) : Res := execCmp x (fun a b => (a != b, 0)) s
/-- `lt.i32` (R154). -/
def execLtI32 (x : CmpF) (s : State) : Res := execCmp x (fun a b => (BitVec.slt a b, 0)) s
/-- `le.i32` (R154). -/
def execLeI32 (x : CmpF) (s : State) : Res := execCmp x (fun a b => (BitVec.sle a b, 0)) s
/-- `lt.n32` (R154). -/
def execLtN32 (x : CmpF) (s : State) : Res := execCmp x (fun a b => (BitVec.ult a b, 0)) s
/-- `le.n32` (R154). -/
def execLeN32 (x : CmpF) (s : State) : Res := execCmp x (fun a b => (BitVec.ule a b, 0)) s

/-- Writes a predicate from the predicates as they stood at issue (R155, R156). -/
def execPreds (d : BitVec 3) (op : Focus → Thread → Bool) (s : State) : Res :=
  atSlot s (fun f t => perThread s f t (fun i th =>
    .ok { th := th.setPred d.toNat (op f (f.latch.thread i)), g := none, fp := 0, sat := false }))

/-- `pand` (R155). -/
def execPand (x : Pred3F) (s : State) : Res := execPreds x.d (fun _ l => l.pred x.a.toNat && l.pred x.b.toNat) s
/-- `por` (R155). -/
def execPor (x : Pred3F) (s : State) : Res := execPreds x.d (fun _ l => l.pred x.a.toNat || l.pred x.b.toNat) s
/-- `pxor` (R155). -/
def execPxor (x : Pred3F) (s : State) : Res := execPreds x.d (fun _ l => l.pred x.a.toNat != l.pred x.b.toNat) s
/-- `pnot` (R155). -/
def execPnot (x : Pred2F) (s : State) : Res := execPreds x.d (fun _ l => !l.pred x.a.toNat) s
/-- `pset` (R155). -/
def execPset (x : PsetF) (s : State) : Res :=
  atSlot s (fun f t => perThread s f t (fun i th =>
    match readSrc f (f.issue + i) i th x.a (x.ka == 1) with
    | .error c => .error c
    | .ok (a, th) => .ok { th := th.setPred x.d.toNat (a.lo != 0), g := none, fp := 0, sat := false }))
/-- `pvote`: OR over the active threads that pass the guard (R155, R42). -/
def execPvote (x : Pred2F) (s : State) : Res :=
  execPreds x.d (fun f _ => (threadsOf f.pass).any (fun j => (f.latch.thread j).pred x.a.toNat)) s

end Sys2Proof.Machine
end

