-- ==== Sys2Proof/Machine/Aes.lean ====
section
/-! DEFINITION. AES-256-XTS (11_translation R240): the cipher of FIPS 197 and the mode of IEEE 1619, which the rule names and does not
spell out (PRESUMED, log 10). Bytes are numbers below 256; a block is the list of its 16 bytes in memory order. -/

namespace Sys2Proof.Machine.Aes

/-- The S-box: entry i in bits 8i + 7 to 8i. -/
def sboxBits : Nat :=
  0x16bb54b00f2d99416842e6bf0d89a18cdf2855cee9871e9b948ed9691198f8e19e1dc186b95735610ef6034866b53e708a8bbd4b1f74dde8c6b4a61c2e2578ba08ae7a65eaf4566ca94ed58d6d37c8e779e4959162acd3c25c2406490a3a32e0db0b5ede14b8ee4688902a22dc4f816073195d643d7ea7c41744975fec130ccdd2f3ff1021dab6bcf5389d928f40a351a89f3c507f02f94585334d43fbaaefd0cf584c4a39becb6a5bb1fc20ed00d153842fe329b3d63b52a05a6e1b1a2c830975b227ebe28012079a059618c323c7041531d871f1e5a534ccf73f362693fdb7c072a49cafa2d4adf04759fa7dc982ca76abd7fe2b670130c56f6bf27b777c63

/-- The inverse S-box. -/
def invSboxBits : Nat :=
  0x7d0c2155631469e126d677ba7e042b17619953833cbbebc8b0f52aae4d3be0a0ef9cc9939f7ae52d0d4ab519a97f51605fec8027591012b131c7078833a8dd1ff45acd78fec0db9a2079d2c64b3e56fc1bbe18aa0e62b76f89c5291d711af1476edf751ce837f9e28535ade72274ac9673e6b4f0cecff297eadc674f4111913a6b8a130103bdafc1020f3fca8f1e2cd00645b3b80558e4f70ad3bc8c00abd890849d8da75746155edab9edfd5048706c92b6655dcc5ca4d41698688664f6f87225d18b6d49a25b76b224d92866a12e084ec3fa420b954cee3d23c2a632947b54cbe9dec444438e3487ff2f9b8239e37cfbd7f3819ea340bf38a53630d56a0952

def sbox (x : Nat) : Nat := sboxBits / 256 ^ x % 256
def invSbox (x : Nat) : Nat := invSboxBits / 256 ^ x % 256

/-- Bytes of two lists added in the field. -/
def addList (a b : List Nat) : List Nat := (a.zip b).map (fun p => p.1 ^^^ p.2)

/-- Twice a byte in the field. -/
def twice (x : Nat) : Nat := if x < 128 then 2 * x else (2 * x) ^^^ 0x11B

/-- A byte times a constant below 16. -/
def times (c x : Nat) : Nat :=
  let x2 := twice x
  let x4 := twice x2
  (if c % 2 = 1 then x else 0) ^^^ (if c / 2 % 2 = 1 then x2 else 0) ^^^ (if c / 4 % 2 = 1 then x4 else 0) ^^^ (if c / 8 % 2 = 1 then twice x4 else 0)

/-- The bytes of a block as columns of four. -/
def columns (b : List Nat) : List (List Nat) := [b.take 4, (b.drop 4).take 4, (b.drop 8).take 4, (b.drop 12).take 4]

/-- Row r of column c comes from column c + r, or, when undone, from c − r. -/
def shiftRows (undo : Bool) (b : List Nat) : List Nat :=
  (List.range 16).map (fun i => b.getD (4 * ((i / 4 + (if undo then 3 else 1) * (i % 4)) % 4) + i % 4) 0)

/-- A column times a circulant of four constants. -/
def mixColumn (k : List Nat) (a : List Nat) : List Nat :=
  (List.range 4).map (fun i => (List.range 4).foldl (fun r j => r ^^^ times (k.getD ((j + 4 - i) % 4) 0) (a.getD j 0)) 0)
def mix (k : List Nat) (b : List Nat) : List Nat := (columns b).flatMap (mixColumn k)

/-- The words of the key schedule from word i on; `win` are the eight before it, `rc` the round constant. -/
def schedule : Nat → Nat → Nat → List (List Nat) → List (List Nat)
  | 0, _, _, _ => []
  | n + 1, i, rc, win =>
    let p := win.getD 7 []
    let t := if i % 8 = 0 then addList ((p.drop 1 ++ p.take 1).map sbox) [rc, 0, 0, 0] else if i % 8 = 4 then p.map sbox else p
    let w := addList (win.getD 0 []) t
    w :: schedule n (i + 1) (if i % 8 = 0 then twice rc else rc) (win.drop 1 ++ [w])

/-- The fifteen round keys of a key of 32 bytes. -/
def roundKeys (key : List Nat) : List (List Nat) :=
  let first := (List.range 8).map (fun i => (key.drop (4 * i)).take 4)
  let ws := first ++ schedule 52 8 1 first
  (List.range 15).map (fun r => (ws.drop (4 * r)).take 4 |>.flatten)

/-- The rounds after the first key addition; the last does not mix. -/
def encryptRounds : List (List Nat) → List Nat → List Nat
  | [], b => b
  | [k], b => addList (shiftRows false (b.map sbox)) k
  | k :: ks, b => encryptRounds ks (addList (mix [2, 3, 1, 1] (shiftRows false (b.map sbox))) k)
def decryptRounds : List (List Nat) → List Nat → List Nat
  | [], b => b
  | [k], b => addList ((shiftRows true b).map invSbox) k
  | k :: ks, b => decryptRounds ks (mix [14, 11, 13, 9] (addList ((shiftRows true b).map invSbox) k))

/-- One block under a key of 32 bytes. -/
def encrypt (key b : List Nat) : List Nat := match roundKeys key with | k :: ks => encryptRounds ks (addList b k) | [] => b
def decrypt (key b : List Nat) : List Nat := match (roundKeys key).reverse with | k :: ks => decryptRounds ks (addList b k) | [] => b

/-- The n low bytes of a number, and the number of a list of bytes, little-endian. -/
def bytesOf (n v : Nat) : List Nat := (List.range n).map (fun i => v / 256 ^ i % 256)
def valueOf (l : List Nat) : Nat := l.foldr (fun b r => b + 256 * r) 0

/-- A tweak for the next block of the data unit. -/
def nextTweak (t : Nat) : Nat := if t < 2 ^ 127 then 2 * t else (2 * t - 2 ^ 128) ^^^ 0x87

/-- The tweak of a block of 16 bytes: the number of its line of 128 bytes under the second half of the key, once doubled for each block
of the line before it. -/
def tweak (key : BitVec 512) (block : Nat) : Nat :=
  (List.range (block % 8)).foldl (fun t _ => nextTweak t)
    (valueOf (encrypt (bytesOf 32 (key.extractLsb' 256 256).toNat) (bytesOf 16 (block / 8))))

/-- A block of memory, as a little-endian number, encrypted and decrypted under a key slot's key. -/
def xtsEncrypt (key : BitVec 512) (block v : Nat) : Nat :=
  let t := tweak key block
  valueOf (encrypt (bytesOf 32 (key.extractLsb' 0 256).toNat) (bytesOf 16 (v ^^^ t))) ^^^ t
def xtsDecrypt (key : BitVec 512) (block v : Nat) : Nat :=
  let t := tweak key block
  valueOf (decrypt (bytesOf 32 (key.extractLsb' 0 256).toNat) (bytesOf 16 (v ^^^ t))) ^^^ t

end Sys2Proof.Machine.Aes
end

