-- ==== Sys2Proof/Machine/Translate.lean ====
section
/-! DEFINITION. Physical memory under encryption key slots (11_translation R240), page walks (R232 to R237), TLBs (R238) and
the outcome of a translation (R236). -/

namespace Sys2Proof.Machine

/-! ## Physical bytes under a key slot (R240) -/

/-- A key slot; a slot never loaded holds no key. -/
def State.key (s : State) (k : Nat) : KeySlot := kget { loaded := false, key := 0 } s.keys k

/-- The key under which a block of 16 bytes was last written. -/
def State.tagOf (s : State) (block : Nat) : BitVec 512 := kget 0 s.memTag block

/-- The byte at a physical address as decrypted under a key slot: what is stored when its block was written under that
slot's present key, otherwise what the one key encrypts and the other decrypts it to (R240, log 10). -/
def physByte (s : State) (key pa : Nat) : Byte :=
  let k := (s.key key).key
  let t := s.tagOf (pa / 16)
  if t = k then readByte s.mem pa
  else BitVec.ofNat 8 (Aes.xtsDecrypt k (pa / 16) (Aes.xtsEncrypt t (pa / 16) (readNat s.mem (pa / 16 * 16) 16)) / 256 ^ (pa % 16))

/-- n bytes from a physical address as a number. -/
def physNat (s : State) (key pa : Nat) : Nat → Nat
  | 0 => 0
  | n + 1 => (physByte s key pa).toNat + 256 * physNat s key (pa + 1) n

/-- n bytes from a physical address. -/
def physList (s : State) (key pa : Nat) : Nat → List Byte
  | 0 => []
  | n + 1 => physByte s key pa :: physList s key (pa + 1) n

/-- Brings a block under a key slot's present key: it reads as it reads under that slot, and is held under it from then on. The
other blocks of its line keep what they hold: decrypted and encrypted again under one key they are as before. -/
def retag (s : State) (key block : Nat) : State :=
  let k := (s.key key).key
  if s.tagOf block = k then s
  else { s with mem := writeList s.mem (16 * block) (physList s key (16 * block) 16), memTag := kset s.memTag block k }

/-- Writes one byte under a key slot. -/
def physWriteByte (s : State) (key pa : Nat) (b : Byte) : State :=
  let s := retag s key (pa / 16)
  { s with mem := writeByte s.mem pa b }

/-- Writes the low n bytes of a number under a key slot. -/
def physWrite (s : State) (key pa : Nat) : Nat → Nat → State
  | 0, _ => s
  | n + 1, v => physWrite (physWriteByte s key pa (BitVec.ofNat 8 v)) key (pa + 1) n (v / 256)

/-- Writes a list of bytes under a key slot. -/
def physWriteList (s : State) (key pa : Nat) : List Byte → State
  | [] => s
  | b :: rest => physWriteList (physWriteByte s key pa b) key (pa + 1) rest

/-- A line of this device's own memory; only such a line has a home slice here (R262). -/
def isLocal (s : State) (line : Nat) : Bool := !s.mgmt.member || Config.deviceOf line == s.mgmt.deviceNo.toNat

/-- Some lattice-link port is ready: no route uses an unready one (R455). -/
def State.linked (s : State) : Bool := s.mgmt.ready.extractLsb' 15 12 != 0

/-- A device cannot be reached: it has been removed, or no link port is ready, which leaves no route to it (R453, R455; log 65). -/
def State.cutOff (s : State) (device : Nat) : Bool := s.mgmt.drained.contains device || !s.linked

/-- An access to a line fails: at another device that cannot be reached (detail 2; R453), or at an unready stack (detail 1; R455). -/
def lineFault (s : State) (line : Nat) : Option Nat :=
  let hbm := s.mgmt.ready.extractLsb' 0 8
  if !isLocal s line then (if s.cutOff (Config.deviceOf line) then some 2 else none)
  else if hbm = 0 then some 1
  else if hbm != 0xFF && !hbm.getLsbD (Config.stackOf line % 8) then some 1
  else none

/-- A word that an access meets in memory or in a slice is uncorrectable (R458). -/
def wordBad (s : State) (pa n : Nat) : Bool :=
  (!s.badMem.isEmpty && (upTo n).any (fun i => s.badMem.contains ((pa + i) / 8))) ||
  s.slices.any (fun p => p.2.ways.any (fun w => !w.bad.isEmpty &&
    (upTo n).any (fun i => w.line == (pa + i) / 128 && w.bad.contains ((pa + i) % 128 / 8))))

/-- An access to memory fails, in some line or at an uncorrectable word (detail 0) (21_frames R453, R455, R458). -/
def memFault (s : State) (pa n : Nat) : Option Nat :=
  match (upTo (if n = 0 then 0 else (pa + n - 1) / 128 - pa / 128 + 1)).findSome? (fun i => lineFault s (pa / 128 + i)) with
  | some d => some d
  | none => if wordBad s pa n then some 0 else none

/-! ## Ways (R261, R263, R267, R271) -/

/-- The set of a line in an L1 and in a slice (R261). -/
def l1Set (line : Nat) : Nat := line % 256
def sliceSet (line : Nat) : Nat := line / 48 % 1024

/-- The home slice of a line, 0 to 47 on lattice 0 and 48 to 95 on lattice 1 (R262, log 15). -/
def homeDie (line : Nat) : Nat := Config.stackOf line / 4 % 2
def sliceOn (die line : Nat) : Nat := 48 * die + line % 48

/-- The ways of a set that pins reserve, but for the pin of the line itself (R267). -/
def pinnedWays (c : Cache) (setOf : Nat → Nat) (line : Nat) : List Nat :=
  (c.pins.filter (fun p => setOf p.line == setOf line && p.line != line)).map (fun p => p.way)

/-- The class of a line under a schedule: the highest class of a region that holds it, or 0 (R271). -/
def classOfLine (rs : List Region) (line : Nat) : Nat :=
  (rs.filter (fun r => decide (r.base ≤ 128 * line) && decide (128 * line < r.base + 128 * r.lines))).foldl (fun m r => max m r.cls) 0

/-- The way covered by the eviction schedule. -/
def coveredWay (c : Cache) (w : Nat) : Bool := match c.sched with | some (m, _) => m.getLsbD w | none => false

/-- The smallest element by a measure; the first of equals. -/
def leastBy {α : Type} (m : α → Nat) : List α → Option α
  | [] => none
  | x :: xs => match leastBy m xs with
    | none => some x
    | some y => if m y < m x then some y else some x

/-- The way that a line takes when it is allocated: its pinned way; else a free uncovered way, the least recently used
uncovered one, a free covered one, or the covered one of the lowest class and way number; none when every way is
pinned (R263, R267, R271). `nWays` ways are usable. -/
def victimWay (c : Cache) (setOf : Nat → Nat) (nWays line : Nat) : Option Nat :=
  match c.pins.find? (fun p => p.line == line) with
  | some p => some p.way
  | none =>
    let busy := pinnedWays c setOf line
    let cand := (upTo nWays).filter (fun w => !busy.contains w)
    let used := c.ways.filter (fun x => setOf x.line == setOf line)
    let free (w : Nat) : Bool := !used.any (fun x => x.way == w)
    let open_ := cand.filter (fun w => !coveredWay c w)
    match open_.find? free with
    | some w => some w
    | none => match used.find? (fun x => open_.contains x.way) with
      | some x => some x.way
      | none =>
        let cov := cand.filter (fun w => coveredWay c w)
        match cov.find? free with
        | some w => some w
        | none =>
          let rs := match c.sched with | some (_, rs) => rs | none => []
          let l := (used.filter (fun x => cov.contains x.way))
          (leastBy (fun x => 16 * classOfLine rs x.line + x.way) l).map (fun x => x.way)

/-- Puts a line into a way, in last place of recency. -/
def putLine (c : Cache) (setOf : Nat → Nat) (x : Way) : Cache :=
  { c with ways := c.ways.filter (fun y => !(setOf y.line == setOf x.line && y.way == x.way) && y.line != x.line) ++ [x] }

/-- Makes a line the most recently used. -/
def touchLine (c : Cache) (line key : Nat) : Cache :=
  match c.ways.find? (fun x => x.line == line && x.key == key) with
  | none => c
  | some x => { c with ways := c.ways.filter (fun y => !(y.line == line && y.key == key)) ++ [x] }

/-- A slice. -/
def State.slice (s : State) (i : Nat) : Cache := kget Cache.init s.slices i
def State.modSlice (s : State) (i : Nat) (f : Cache → Cache) : State := { s with slices := kset s.slices i (f (s.slice i)) }

/-- Way 15 of sets 0 to 511 of a slice holds the barrier shells (R262). -/
def sliceWays (line : Nat) : Nat := if sliceSet line < 512 then 15 else 16

/-- A slice holds a line under a key slot. -/
def sliceHas (c : Cache) (line key : Nat) : Bool := c.ways.any (fun x => x.line == line && x.key == key)

/-- An access reaches a slice: the line becomes the most recently used, or is allocated; the flag says that it was served
without allocating since every way is pinned (R263). -/
def sliceTake (c : Cache) (line key : Nat) (dirty alloc : Bool) : Bool × Cache :=
  if sliceHas c line key then
    (false, touchLine { c with ways := c.ways.map (fun y => if y.line == line && y.key == key then { y with dirty := y.dirty || dirty } else y) } line key)
  else if !alloc then (false, c)
  else match victimWay c sliceSet (sliceWays line) line with
    | none => (true, c)
    | some w => (false, putLine c sliceSet { line := line, way := w, key := key, data := [], dirty := dirty })

/-- The replicas that are still in a way of their die's slice: one that has lost its way has been evicted (R265). -/
def liveReplicas (slices : KV Cache) (l : List Nat) : List Nat :=
  l.filter (fun k => (kget Cache.init slices (sliceOn (k % 2) (k / 2))).ways.any (fun x => x.line == k / 2))

/-- One more read in the remote-read table of a die (R266): 4 ways, regions of 64 KiB, least recently used first. -/
def countRemote (l : KV (List (Nat × Nat))) (die pa : Nat) : KV (List (Nat × Nat)) :=
  let set_ := 64 * die + pa / 65536 % 64
  let e := kget [] l set_
  let n := ((e.find? (fun x => x.1 == pa / 65536)).map (fun x => x.2)).getD 0
  let e := e.filter (fun x => x.1 != pa / 65536)
  let e := if 4 ≤ e.length then e.drop (e.length - 3) else e
  kset l set_ (e ++ [(pa / 65536, min (n + 1) 65535)])

/-- A read through a mapping with a page mode finds a replica on the die of its unit (R264). -/
def replicaHit (s : State) (die line key : Nat) (pmode : Bool) : Bool :=
  pmode && decide (die < 2) && s.replicas.contains (2 * line + die) && sliceHas (s.slice (sliceOn die line)) line key

/-- What reading a line leaves: the slices, the replicas, the remote-read tables and how often the access bypassed a full set
(R263 to R266). `alloc` is false for `nc`. -/
structure SliceRead where
  slices : KV Cache
  replicas : List Nat
  remote : KV (List (Nat × Nat))
  bypassed : Nat

/-- A read of a line by a unit: it hits the die's replica, or reaches the home slice, and through a replicated mapping leaves a
replica on a lattice die other than the home's (R262 to R266). -/
def sliceRead (s : State) (unit pa key : Nat) (pmode alloc : Bool) : SliceRead :=
  let line := pa / 128
  let die := dieOf unit
  let home := homeDie line
  let near := sliceOn die line
  if replicaHit s die line key pmode then
    { slices := kset s.slices near (sliceTake (s.slice near) line key false alloc).2, replicas := s.replicas, remote := s.remote, bypassed := 0 }
  else
    let own := isLocal s line
    let r := sliceTake (s.slice (sliceOn home line)) line key false alloc
    let sl := if own then kset s.slices (sliceOn home line) r.2 else s.slices
    let copies := pmode && alloc && decide (die < 2) && (die != home || !own)
    let q := sliceTake (kget Cache.init sl near) line key false true
    let sl := if copies then kset sl near q.2 else sl
    let rs := if copies && !q.1 && !s.replicas.contains (2 * line + die) then s.replicas ++ [2 * line + die] else s.replicas
    { slices := sl, replicas := liveReplicas sl rs, remote := if own && die != home then countRemote s.remote home pa else s.remote,
      bypassed := (if own && r.1 then 1 else 0) + (if copies && q.1 then 1 else 0) }

/-- A read of a line from a unit reaches the slices (R262 to R266); the requesting core counts a bypass (R270), and a
requester that is no core counts none. -/
def homeRead (s : State) (unit core pa key : Nat) (pmode nc : Bool) : State :=
  let r := sliceRead s unit pa key pmode (!nc)
  { s with slices := r.slices, replicas := r.replicas, remote := r.remote,
           cores := if core < 1200 then kset s.cores core { s.core core with bypass := (s.core core).bypass + BitVec.ofNat 32 r.bypassed }
                    else s.cores }

/-- A write of a line at its home slice (R261, R263); a line of another device's memory has none here (R262). -/
def homeWrite (s : State) (core pa key : Nat) (nc : Bool) : State :=
  let line := pa / 128
  let i := sliceOn (homeDie line) line
  let r := sliceTake (s.slice i) line key true (!nc)
  let sl := if isLocal s line then kset s.slices i r.2 else s.slices
  { s with slices := sl, replicas := liveReplicas sl s.replicas,
           cores := if core < 1200 then
                      kset s.cores core { s.core core with bypass := (s.core core).bypass + (if isLocal s line && r.1 then 1 else 0) }
                    else s.cores }

/-- The lines in which n bytes from an address lie, by the address of their first byte. -/
def linesOf (pa n : Nat) : List Nat :=
  if n = 0 then [] else (upTo ((pa + n - 1) / 128 - pa / 128 + 1)).map (fun i => pa / 128 * 128 + 128 * i)

/-- A run of bytes is read, or written, through the slices, line by line. -/
def homeReads (s : State) (unit core pa key n : Nat) (pmode : Bool) : State :=
  (linesOf pa n).foldl (fun s a => homeRead s unit core a key pmode false) s
def homeWrites (s : State) (core pa key n : Nat) : State := (linesOf pa n).foldl (fun s a => homeWrite s core a key false) s

/-! ## Page tables (R232 to R236) -/

/-- What an access needs of a page (R236, tests 5 and 6). -/
inductive Need where
  | read
  | write
  | both
deriving DecidableEq, Repr

/-- The outcome of a translation (R236). -/
inductive Xl where
  | ok (pa key : Nat) (pmode : Bool)
  | perm (detail : Nat)
  | absent (level : Nat)
  /-- An entry on the path could not be read: DATA_UNCORRECTABLE with its detail (R455, R458; log 52). -/
  | unc (detail : Nat)
deriving DecidableEq, Repr

/-- What one entry of a walk says. -/
inductive PteSays where
  | malformed
  | absent
  | table (pa : Nat)
  | leaf (span pa : Nat)
deriving DecidableEq, Repr

/-- The span of a leaf of a level and SIZE, when that SIZE is allowed there (R232, R233). -/
def leafSpan (level size : Nat) : Option Nat :=
  if level = 0 then (if size = 0 then some 4096 else if size = 1 then some 65536 else none)
  else if level = 1 then (if size = 0 then some 2097152 else if size = 2 then some 536870912 else none)
  else none

/-- Reads one entry (R233, R236 tests 2 and 3). -/
def pteSays (level : Nat) (e : Dword) : PteSays :=
  let pa := (e.extractLsb' 12 44).toNat * 4096
  let size := (e.extractLsb' 10 2).toNat
  if !e.getLsbD 0 then .absent
  else if e.extractLsb' 7 2 != 0 || e.getLsbD 5 || e.getLsbD 2 then .malformed
  else if e.getLsbD 1 then
    match leafSpan level size with
    | none => .malformed
    | some span => if pa % span = 0 then .leaf span pa else .malformed
  else if level = 0 || e.extractLsb' 56 8 != 0 || size != 0 || e.getLsbD 9 || e.getLsbD 6 || e.getLsbD 4 || e.getLsbD 3 then .malformed
  else .table pa

/-- A leaf as a TLB entry (R238). -/
def leafTlb (ctx va span pa : Nat) (e : Dword) : Tlb :=
  { ctx := ctx, base := va - va % span, span := span, pa := pa, key := (e.extractLsb' 56 8).toNat, pmode := e.getLsbD 9,
    priv := e.getLsbD 6, w := e.getLsbD 4, r := e.getLsbD 3 }

/-- The levels of a walk with the lowest VA bit that each indexes (R232). -/
def walkLevels : List (Nat × Nat) := [(4, 48), (3, 39), (2, 30), (1, 21), (0, 12)]

/-- Reads an entry in key slot 0 through the slices, as the unit of a core reads (R233). -/
def readEntry (s : State) (core pa : Nat) : Except Xl Dword × State :=
  match memFault s pa 8 with
  | some d => (.error (.unc d), s)
  | none => (.ok (BitVec.ofNat 64 (physNat s 0 pa 8)), homeRead s (core / 4) core pa 0 false false)

/-- The leaf whose values an access in a page of grouped entries uses: a free one of the group's leaves, the entry's own where
the one drawn is no leaf of the group's size (R234, log 12). -/
def groupLeaf (s : State) (core ctx va level lo table span pa : Nat) (e : Dword) : Except Xl Tlb × State :=
  let idx := va / 2 ^ lo % 512
  let n := span / 2 ^ lo
  if n = 1 then (.ok (leafTlb ctx va span pa e), s)
  else
    let r := readEntry s core (table + 8 * (idx - idx % n + Config.pick s.draws % n))
    match r.1 with
    | .error x => (.error x, r.2)
    | .ok d => match pteSays level d with
      | .leaf span' pa' => (.ok (if span' = span then leafTlb ctx va span pa' d else leafTlb ctx va span pa e), r.2)
      | _ => (.ok (leafTlb ctx va span pa e), r.2)

/-- Walks the tables from one at `table`. -/
def walkFrom (core ctx va : Nat) : List (Nat × Nat) → Nat → State → Except Xl Tlb × State
  | [], _, s => (.error (.perm 6), s)
  | (level, lo) :: rest, table, s =>
    let r := readEntry s core (table + 8 * (va / 2 ^ lo % 512))
    match r.1 with
    | .error x => (.error x, r.2)
    | .ok e => match pteSays level e with
      | .malformed => (.error (.perm 6), r.2)
      | .absent => (.error (.absent level), r.2)
      | .table pa => walkFrom core ctx va rest pa r.2
      | .leaf span pa => groupLeaf r.2 core ctx va level lo table span pa e

/-- Walks the tables of a context for a core (R235, R236). -/
def walk (s : State) (core ctx va : Nat) : Except Xl Tlb × State :=
  let root := (s.ctx ctx).ptroot
  if !root.getLsbD 0 then (.error (.perm 1), s)
  else walkFrom core ctx va walkLevels ((root.extractLsb' 12 44).toNat * 4096) s

/-- Tests 4 to 7 of R236 on an entry. -/
def checkTlb (s : State) (ctx va : Nat) (need : Need) (e : Tlb) : Xl :=
  if e.priv && !privileged ctx then .perm 4
  else if (match need with | .read => !e.r | .both => !e.r || !e.w | .write => false) then .perm 2
  else if (match need with | .write => !e.w | _ => false) then .perm 3
  else if !(s.key e.key).loaded then .perm 5
  else .ok (e.pa + va % e.span) e.key e.pmode

/-- An entry covers an address of a context. -/
def Tlb.covers (e : Tlb) (ctx va : Nat) : Bool := e.ctx == ctx && decide (e.base ≤ va) && decide (va < e.base + e.span)

/-- Puts an entry in last place of a TLB of some sets of `ways` entries: the least recently used one of its set leaves when the
set is full (R238). -/
def tlbFill (sets ways : Nat) (l : List Tlb) (e : Tlb) : List Tlb :=
  let l := l.filter (fun x => !(x.ctx == e.ctx && x.base == e.base && x.span == e.span))
  if l.length < ways then l ++ [e]
  else
    let mates := l.filter (fun x => Config.tlbSet sets x.ctx x.base % sets == Config.tlbSet sets e.ctx e.base % sets)
    (if mates.length < ways then l else match mates with | x :: _ => l.erase x | [] => l) ++ [e]

/-- An entry in a core's L1 TLB: 1,024 entries in 8 ways. -/
def fillL1Tlb (s : State) (core : Nat) (e : Tlb) : State := s.modCore core (fun c => { c with tlb := tlbFill 128 8 c.tlb e })

/-- Fills both TLBs with an entry that has been used; a unit's L2 TLB has 16,384 entries in 16 ways (R238). -/
def fillTlbs (s : State) (core : Nat) (e : Tlb) : State :=
  (fillL1Tlb s core e).modUnit (core / 4) (fun u => { u with tlb := tlbFill 1024 16 u.tlb e })

/-- Translates an access of a context from a core: the L1 TLB, the unit's L2 TLB, then a walk (R236, R238). R238 has a walk's result fill
the two; an entry found in the L2 fills the L1 as well (DESIGN CHOICE, log 63). -/
def translateEa (s : State) (core ctx : Nat) (ea : Dword) (need : Need) : Xl × State :=
  if ea.extractLsb' 56 8 != 0 || !(s.ctx ctx).ptroot.getLsbD 0 then (.perm 1, s)
  else
    let va := ea.toNat
    match (s.core core).tlb.find? (fun e => e.covers ctx va) with
    | some e => (checkTlb s ctx va need e, fillL1Tlb s core e)
    | none => match (s.tile (core / 4)).tlb.find? (fun e => e.covers ctx va) with
      | some e => (checkTlb s ctx va need e, fillTlbs s core e)
      | none =>
        let w := walk s core ctx va
        match w.1 with
        | .error x => (x, w.2)
        | .ok e =>
          let r := checkTlb s ctx va need e
          let s := { w.2 with draws := s.draws + 1 }
          match r with
          | .ok _ _ _ => (r, fillTlbs s core e)
          | _ => (r, s)

/-- PAGE_WALK_COMPLETE (R239): a walk for an address ends; a leaf fills the TLBs, and no fault is cached (R237). -/
def execPageWalkComplete (core ctx va : Nat) (s : State) : Host.Outcome State Fault Refusal :=
  let w := walk s core ctx va
  match w.1 with
  | .error _ => .next w.2
  | .ok e => .next (fillTlbs { w.2 with draws := s.draws + 1 } core e)

end Sys2Proof.Machine
end

