-- ==== Sys2Proof/Machine/Access.lean ====
section
/-! DEFINITION. The caches (12_caches R261 to R267, R271), the store queue, loads and stores of global memory (13_order R276 to
R288, R295, R296), the reduction buffer (14_sync R319), scratch bytes (10_spaces R217 to R220). -/

namespace Sys2Proof.Machine

/-! ## L1 (R261, R280) -/

/-- A present L1 line of a unit. -/
def l1Find (s : State) (unit line key : Nat) : Option Way := (s.tile unit).l1.ways.find? (fun x => x.line == line && x.key == key)

/-- Brings a line into the L1, or bypasses it when every way is pinned (R263). -/
def l1Fill (s : State) (unit core line key : Nat) : State :=
  let c := (s.tile unit).l1
  match victimWay c l1Set 8 line with
  | none => s.modCore core (fun c => { c with bypass := c.bypass + 1 })
  | some w =>
    let x : Way := { line := line, way := w, key := key, data := physList s key (128 * line) 128, dirty := false }
    s.modUnit unit (fun u => { u with l1 := putLine u.l1 l1Set x })

/-- The bytes at an address of a present line. -/
def Way.bytesAt (x : Way) (pa n : Nat) : Nat :=
  ((x.data.drop (pa % 128)).take n).foldr (fun b r => b.toNat + 256 * r) 0

/-- A read of n bytes of a present line meets an uncorrectable word (R458). -/
def Way.badAt (x : Way) (pa n : Nat) : Bool := !x.bad.isEmpty && (upTo n).any (fun i => x.bad.contains ((pa + i) % 128 / 8))

/-- A line with the low n bytes of v at an address. -/
def Way.store (x : Way) (pa n v : Nat) : Way :=
  { x with bad := x.bad.filter (fun w => !(decide (pa % 128 ≤ 8 * w) && decide (8 * w + 8 ≤ pa % 128 + n))), data := x.data.take (pa % 128) ++ (upTo n).map (fun i => BitVec.ofNat 8 (v / 256 ^ i)) ++ x.data.drop (pa % 128 + n) }

/-- A store updates the present L1 copy of its unit, which becomes the most recently used of its set (R261, R263, R277). -/
def l1Update (s : State) (unit pa key n v : Nat) : State :=
  s.modUnit unit (fun u => { u with l1 := touchLine { u.l1 with ways := u.l1.ways.map (fun x =>
    if x.line == pa / 128 && x.key == key then x.store pa n v else x) } (pa / 128) key })

/-- A wide acquire drops every line of the unit's L1; pinned ways stay reserved (R286). -/
def dropL1 (s : State) (unit : Nat) : State := s.modUnit unit (fun u => { u with l1 := { u.l1 with ways := [] } })

/-! ## Device registers in memory (18_schedule R384, 19_traps R422, 21_frames R445, R454) -/

/-- The physical address lies in one of the register blocks. -/
def inBlocks (pa : Nat) : Bool := decide (0xFFFFFE00000000 ≤ pa) && decide (pa < 0xFFFFFE00004000)

/-- An access reaches the register blocks: they lie in key slot 0 (R384, R422). -/
def regBlock (key pa : Nat) : Bool := inBlocks pa && key == 0

/-- The halted troupe that the debug block selects: its key (R422). -/
def debugKey (s : State) : Option Nat :=
  let sel := s.dbg.sel
  let core := (sel.extractLsb' 0 11).toNat
  match (sel.extractLsb' 27 2).toNat with
  | 0 => some (64 * core + (sel.extractLsb' 11 5).toNat)
  | 1 => some (64 * core + 32)
  | 2 => some (64 * core + 33)
  | _ => none

/-- TICK of the frame counter (R444): cycles since the frame began, 0 while it does not run. -/
def State.tick (s : State) : Nat := if s.frame.en then s.now - s.frame.start else 0

/-- READY of the management block; FLOCK is LOCKED, and KEYS says that key slot 0 is loaded (R455). -/
def readyBits (s : State) : Dword :=
  BitVec.ofNat 64 ((if s.frame.locked then 2 ^ 34 else 0) + (if (s.key 0).loaded then 2 ^ 33 else 0)) ||| (s.mgmt.ready.setWidth 64)

/-- The value of a register of the blocks; write-only and unassigned offsets read 0 (R6, R7, R384, R418, R422, R445, R450, R454). -/
def blockRead (s : State) (pa : Nat) : Dword :=
  let off := pa - 0xFFFFFE00000000
  match off with
  | 0x0000 => s.ptbase ||| (if s.seqEn then 1 else 0)
  | 0x0008 => s.passNo
  | 0x0010 => s.shovf
  | 0x1000 => BitVec.ofNat 64 (s.dbg.ctx + (if s.dbg.en then 4096 else 0))
  | 0x1008 => s.dbg.sel
  | 0x1018 => s.dbg.data
  | 0x1020 =>
    let halted : Bool := match debugKey s with
      | some k => (match s.troupe k with | some t => t.halt == .halted | none => false)
      | none => false
    BitVec.ofNat 64 (s.dbg.err.toNat * 4 + (if halted then 2 else 0) + (if s.dbg.busy then 1 else 0))
  | 0x2000 => BitVec.ofNat 64 (s.frame.period + (if s.frame.en then 2 ^ 32 else 0) + (if s.frame.lock then 2 ^ 33 else 0))
  | 0x2008 => BitVec.ofNat 64 (s.frame.skew.toNat + (if s.frame.locked then 2 ^ 32 else 0) + (if s.frame.lost then 2 ^ 33 else 0)
      + 2 ^ 40 * s.frame.master)
  | 0x2010 => s.frame.subst.setWidth 64
  | 0x3000 => readyBits s
  | 0x3008 => (s.mgmt.throttle - BitVec.ofNat 32 (max s.mgmt.matHold s.mgmt.vecHold - s.now)).setWidth 64
  | _ =>
    if 0x2100 ≤ off && off < 0x2180 then
      let o := kget Output.init s.outputs ((off - 0x2100) / 16)
      if off % 16 = 0 then o.cfg else if off % 16 = 8 then o.mv else 0
    else 0

/-! ## Failed accesses -/

/-- A failed store or reduction is delivered to its troupe as an asynchronous trap with DETAIL bit 7 set (R229, R407). -/
def failStore (s : State) (tk gen thread cause detail : Nat) (ea : Dword) : State :=
  if s.genOf tk = gen then
    let o : Origin := { id := s.ids, thread := thread, cause := cause, detail := 128 + detail, value := ea, slot := 0, async := true, arrived := false, res := none }
    ({ s with ids := s.ids + 1 }).modTroupe tk (fun t => { t with async := t.async ++ [o] })
  else s

/-- Two byte ranges meet. -/
def overlap (a n b m : Nat) : Bool := decide (a < b + m) && decide (b < a + n)

/-! ## Scratch (R217, R220) -/

/-- The scratch allocation of a troupe: unit, first physical byte and size; a handler troupe has none (R413). -/
def scratchOf (s : State) (tk : Nat) (t : Troupe) : Nat × Nat × Nat :=
  if t.handler then (unitOf tk, 0, 0)
  else match s.ens t.ens with
    | some e => (unitOf tk, 65536 * e.base, 65536 * e.count)
    | none => (unitOf tk, 0, 0)

/-- n bytes of scratch from a key, little-endian. -/
def scrRead (s : State) (unit off n : Nat) : Nat := readNat s.scratch (scrKey unit off) n
def scrWrite (s : State) (unit off n v : Nat) : State := { s with scratch := writeNat s.scratch (scrKey unit off) n v }

/-- An uncorrectable word of scratch lies in a range (R229, R458). -/
def scrBad (s : State) (unit off n : Nat) : Bool :=
  !s.badScr.isEmpty && (upTo n).any (fun i => s.badScr.contains (scrKey unit (off + i) / 8))

/-- The bytes of a list of scratch writes fully cover word w. -/
def coversWord (unit base : Nat) (ws : List (Nat × List Byte)) (w : Nat) : Bool :=
  (upTo 8).all (fun i => ws.any (fun x => decide (scrKey unit (base + x.1) ≤ 8 * w + i) && decide (8 * w + i < scrKey unit (base + x.1) + x.2.length)))

/-- Some uncorrectable word is written in part only (R179). -/
def partBad (s : State) (unit base : Nat) (ws : List (Nat × List Byte)) : Bool :=
  s.badScr.any (fun w => ws.any (fun x => overlap (8 * w) 8 (scrKey unit (base + x.1)) x.2.length) && !coversWord unit base ws w)

/-- Writes a list of byte ranges of an allocation in order; a word that is wholly written is sound again. -/
def putScratch (s : State) (unit base : Nat) (ws : List (Nat × List Byte)) : State :=
  { s with scratch := ws.foldl (fun m x => writeList m (scrKey unit (base + x.1)) x.2) s.scratch,
           badScr := s.badScr.filter (fun w => !coversWord unit base ws w) }

/-! ## The scratch port of a core (R221, R223) -/

/-- The cycle in which the next access of the queue is taken: up to four are taken in a cycle, the oldest first, so none is taken
before the one that precedes it. -/
def portCycle (l : List PortItem) (present now : Nat) : Nat :=
  let c := l.foldl (fun c p => max c p.take) (max present now)
  if (l.filter (fun p => p.take == c)).length < 4 then c else c + 1

/-- One access is presented before another: in an earlier cycle, or in the same cycle by a lower lane, or by an earlier slot. -/
def PortItem.before (a b : PortItem) : Bool :=
  decide (a.present < b.present) || (a.present == b.present && (decide (a.lane < b.lane) || (a.lane == b.lane && decide (a.id < b.id))))

/-- Puts an access in its place among those presented. -/
def portInsert (x : PortItem) : List PortItem → List PortItem
  | [] => [x]
  | y :: ys => if x.before y then x :: y :: ys else y :: portInsert x ys

/-- The row of an access in its bank, among the accesses taken in its cycle: rows are ordered by rising word. -/
def portRow (l : List PortItem) (x : PortItem) : Nat :=
  ((l.filter (fun p => p.take == x.take && p.word % 64 == x.word % 64 && decide (p.word < x.word))).map (fun p => p.word)).eraseDups.length

/-- The accesses of a port with one more: those that cycle `now` has not reached are taken anew in their order, and each taken
in cycle c in row r completes at c + 10 + r. -/
def portPlan (now : Nat) (l : List PortItem) (x : PortItem) : List PortItem :=
  let past := l.filter (fun p => decide (p.take < now))
  let open_ := portInsert x (l.filter (fun p => !decide (p.take < now)))
  let taken := open_.foldl (fun acc p => acc ++ [{ p with take := portCycle acc p.present now }]) ([] : List PortItem)
  past ++ taken.map (fun p => { p with due := p.take + 10 + portRow taken p })

/-- The conflicts of a list of accesses: rows beyond the first in a bank (R221). -/
def portConflicts (l : List PortItem) : Nat :=
  let rows := (l.map (fun p => (p.take, p.word))).eraseDups
  rows.length - (rows.map (fun p => (p.1, p.2 % 64))).eraseDups.length

/-- CONFLICTS of a core in a cycle: those counted before, and those of the accesses taken since (R223). -/
def conflictsNow (now : Nat) (c : Core) : Word :=
  c.conflicts + BitVec.ofNat 32 (portConflicts (c.port.filter (fun p => decide (p.take ≤ now))))

/-- An access at a port has still to do what it does: a store to write, or a load to read. -/
def PortItem.writes (p : PortItem) : Bool := match p.act with | .store .. => true | _ => false
def PortItem.loads (p : PortItem) : Bool := match p.act with | .load .. => true | _ => false

/-- The accesses that a port still shows; others lie so far back that they only count as conflicts. -/
def portLive (now : Nat) (p : PortItem) : Bool := decide (now ≤ p.take + 128) || p.writes || p.loads

/-- An access is presented to the port of a core. -/
def portPut (s : State) (core : Nat) (x : PortItem) : State :=
  let old := (s.core core).port
  let gone := portConflicts (old.filter (fun p => !portLive s.now p))
  s.modCore core (fun c =>
    { c with port := portPlan s.now (old.filter (portLive s.now)) x, conflicts := c.conflicts + BitVec.ofNat 32 gone })

/-- An access at a port has done what it does. -/
def portDone (s : State) (core id : Nat) : State :=
  s.modCore core (fun c => { c with port := c.port.map (fun q => if q.id = id then { q with act := .done } else q) })

/-- The store of a port item writes its bytes; an uncorrectable word is left as it is and the fault goes to its troupe (R229). -/
def writePort (s : State) (core : Nat) (p : PortItem) : State :=
  match p.act with
  | .store off n v ea =>
    let s := portDone s core p.id
    if scrBad s (core / 4) off n then failStore s p.troupe p.gen p.thread cDataUnc 0 ea else scrWrite s (core / 4) off n v
  | _ => s

/-- Two accesses at a port belong to one thread. -/
def PortItem.mate (p q : PortItem) : Bool := p.troupe == q.troupe && p.gen == q.gen && p.thread == q.thread

/-- Some store, or some load, of the given threads of a troupe has still to be made at its core's port. -/
def portPending (s : State) (tk : Nat) (ths : BitVec 16) : Bool :=
  (s.core (coreOf tk)).port.any (fun p => p.writes && p.troupe == tk && ths.getLsbD p.thread)
def portReads (s : State) (tk : Nat) (ths : BitVec 16) : Bool :=
  (s.core (coreOf tk)).port.any (fun p => p.loads && p.troupe == tk && ths.getLsbD p.thread)

/-- The stores at the ports of a unit that complete before an access of one of its cores, and those that its own thread made before it,
in the order in which they complete (R221, R280). -/
def storesBefore (s : State) (core : Nat) (p : PortItem) : List PortItem :=
  let sel (q : PortItem) : Bool := q.writes && ((q.mate p && decide (q.id < p.id)) || decide (q.due < p.due) || (q.due == p.due && decide (q.id < p.id)))
  let put (q : PortItem) (l : List PortItem) : List PortItem := l.takeWhile (fun r => decide (r.due ≤ q.due)) ++ q :: l.dropWhile (fun r => decide (r.due ≤ q.due))
  ((upTo 4).flatMap (fun i => (s.core (core / 4 * 4 + i)).port.filter sel)).foldl (fun l q => put q l) []

/-- Scratch as the stores of a troupe at its core's port will leave it: so its own later reads see it (R280). -/
def portView (s : State) (tk : Nat) : State :=
  ((s.core (coreOf tk)).port.filter (fun p => p.writes && p.troupe == tk)).foldl (fun s p => match p.act with
    | .store off n v _ => scrWrite s (unitOf tk) off n v
    | _ => s) s

/-- The value that a load taken at a core's port reads: the bytes of scratch as they stand when the access completes, as far as the
ports of its unit tell in the cycle in which it is taken (R221; log 20). -/
def portBytes (s : State) (core : Nat) (p : PortItem) (off n : Nat) : Nat :=
  (storesBefore s core p).foldl (fun r q => match q.act with
    | .store o m v _ => (upTo n).foldl (fun r j =>
        if o ≤ off + j && off + j < o + m then r - r / 256 ^ j % 256 * 256 ^ j + v / 256 ^ (off + j - o) % 256 * 256 ^ j else r) r
    | _ => r) (scrRead s (core / 4) off n)

/-! ## The store queue (R276 to R280) -/

/-- Sends partials to the home: those that a test selects (R319, R320). `apply` is the reduction's function. -/
def redApply (fn : Nat) (old b : Word) (fadd bfadd : Word → Word → Word) : Word :=
  match fn with
  | 0 => old + b
  | 1 => if BitVec.slt b old then b else old
  | 2 => if BitVec.slt old b then b else old
  | 3 => if b < old then b else old
  | 4 => if old < b then b else old
  | 5 => old &&& b
  | 6 => old ||| b
  | 7 => old ^^^ b
  | 8 => fadd old b
  | _ => bfadd old b

/-- Reports a run of written bytes to the sequencer, for each queue state block that lies in it (R387). -/
def reportTail (s : State) (pa n : Nat) : State :=
  if s.tails.isEmpty then s
  else (upTo ((pa + n + 63) / 64 - pa / 64)).foldl (fun s i =>
    match kfind s.tails (pa / 64 * 64 + 64 * i) with
    | some _ => s.schedule (s.now + 100) (.tailReport (pa / 64 * 64 + 64 * i))
    | none => s) s

/-- Performs one store at its point of coherence (R276, R295, R296). A store into a register block is a register write when its
context is privileged, and is discarded otherwise (R384). An uncorrectable word faults and keeps its other bytes (R229). A store to
the line of a queue state block is reported to the sequencer (R387). -/
def performStore (s : State) (x : StoreItem) : State :=
  if regBlock x.key x.pa then
    if privileged x.ctx then s.schedule s.now (.registerWrite x.pa { v := BitVec.ofNat 64 x.data, n := x.size }) else s
  else match memFault s x.pa x.size with
    | some d => failStore s x.troupe x.gen x.thread cDataUnc d x.ea
    | none =>
      let s := physWrite s x.key x.pa x.size x.data
      let s := if x.mca then l1Update s x.unit x.pa x.key x.size x.data else s
      reportTail (homeWrite s (coreOf x.troupe) x.pa x.key x.nc) x.pa x.size

/-- Performs the oldest store of the queue. -/
def performHead (s : State) : State :=
  match s.storeQ with
  | [] => s
  | x :: rest => performStore { s with storeQ := rest } x

/-- Performs the n oldest stores. -/
def performN : Nat → State → State
  | 0, s => s
  | n + 1, s => performN n (performHead s)

/-- Performs every store of the queue. -/
def drainStores (s : State) : State := performN s.storeQ.length s

/-- Performs the queued stores up to the last that a test selects. -/
def performUntil (s : State) (sel : StoreItem → Bool) : State :=
  match (s.storeQ.zipIdx.filter (fun p => sel p.1)).getLast? with
  | none => s
  | some p => performN (p.2 + 1) s

/-- Performs the queued stores of a thread that meet a range, with every store queued before them, so that a later load of
that thread returns them (R280). -/
def performOwn (s : State) (tk thread pa n : Nat) : State :=
  performUntil s (fun x => x.troupe == tk && x.thread == thread && overlap x.pa x.size pa n)

/-- Performs the queued stores of a unit to a line, before the line is brought into its L1, or takes a value from the home
(R278). -/
def performLine (s : State) (unit line : Nat) : State :=
  performUntil s (fun x => x.unit == unit && (x.pa / 128 == line || (x.pa + x.size - 1) / 128 == line))

/-- Performs the queued stores of a thread: what the thread does at the home follows them (R280). -/
def performThread (s : State) (tk thread : Nat) : State := performUntil s (fun x => x.troupe == tk && x.thread == thread)

/-- Performs the queued stores of a troupe. -/
def performTroupe (s : State) (tk : Nat) : State := performUntil s (fun x => x.troupe == tk)

/-- The core that made the first contribution to a partial. -/
def Partial.core (p : Partial) : Nat := match p.by_ with | c :: _ => coreOf c.troupe | [] => 0

/-- A partial reaches its home word (R319), after the queued stores of its unit to the line (R278); the unit's own copy of the line
takes the result. -/
def sendPartial (fadd bfadd : Word → Word → Word) (unit : Nat) (s : State) (p : Partial) : State :=
  let s := performLine s unit (p.pa / 128)
  match memFault s p.pa 4 with
  | some d => p.by_.foldl (fun s c => failStore s c.troupe c.gen c.thread cDataUnc d c.ea) s
  | none =>
    let v := redApply p.fn (BitVec.ofNat 32 (physNat s p.key p.pa 4)) p.v fadd bfadd
    reportTail (homeWrite (l1Update (physWrite s p.key p.pa 4 v.toNat) unit p.pa p.key 4 v.toNat) p.core p.pa p.key false) p.pa 4

/-- The reduction buffer of a unit sends the partials that a test selects to their home words (R319). -/
def flushPartials (fadd bfadd : Word → Word → Word) (s : State) (unit : Nat) (sel : Partial → Bool) : State :=
  let go := (s.tile unit).partials.filter sel
  go.foldl (sendPartial fadd bfadd unit) (s.modUnit unit (fun u => { u with partials := u.partials.filter (fun p => !sel p) }))

/-- A store at a core's port completes (R221), after the stores that its thread made before it (R280). -/
def performPort (s : State) (core : Nat) (p : PortItem) : State :=
  writePort (performUntil s (fun x => x.troupe == p.troupe && x.gen == p.gen && x.thread == p.thread && decide (x.id < p.id))) core p

/-- The core and the item of a store at a scratch port whose cycle of completion has come; the stores of a thread complete in their
order (R280). -/
def portReady (s : State) : Option (Nat × PortItem) :=
  s.cores.findSome? (fun c => (c.2.port.find? (fun p => p.writes && decide (p.due ≤ s.now) &&
    !c.2.port.any (fun q => q.writes && q.mate p && decide (q.id < p.id)))).map (fun p => (c.1, p)))

/-- The core and the item of a load that a scratch port has taken. -/
def portTaken (s : State) : Option (Nat × PortItem) :=
  s.cores.findSome? (fun c => (c.2.port.find? (fun p => p.loads && decide (p.take ≤ s.now))).map (fun p => (c.1, p)))

end Sys2Proof.Machine
end

