-- ==== Sys2Proof/Machine/Fp.lean ====
section
/-! DEFINITION. Binary floating point (06_numbers R121, R122; 07_scalar R157 to R165): exact values, rounding to nearest
even, the five exceptions, and the special functions. -/

namespace Sys2Proof.Machine

/-- A binary format by the widths of its exponent and fraction (R121). -/
structure FFmt where
  eb : Nat
  mb : Nat
deriving DecidableEq, Repr

/-- f32, f16, bf16 and E5M2 (R121). -/
def f32 : FFmt := ⟨8, 23⟩
def f16 : FFmt := ⟨5, 10⟩
def bf16 : FFmt := ⟨8, 7⟩

/-- The exponent bias, 2^(eb−1) − 1 (R121). -/
def ffBias (f : FFmt) : Nat := 2 ^ (f.eb - 1) - 1
/-- The width in bits. -/
def ffWidth (f : FFmt) : Nat := 1 + f.eb + f.mb
/-- The least exponent of a normal number. -/
def ffEmin (f : FFmt) : Int := 1 - (ffBias f : Int)
/-- The bits of infinity without the sign. -/
def ffInf (f : FFmt) : Nat := (2 ^ f.eb - 1) * 2 ^ f.mb
/-- The canonical quiet NaN (R157). -/
def ffNan (f : FFmt) : Nat := ffInf f + 2 ^ (f.mb - 1)
/-- The sign bit's weight. -/
def ffSign (f : FFmt) : Nat := 2 ^ (f.eb + f.mb)

/-- The five IEEE 754 exceptions, NV bit 4, DZ 3, OF 2, UF 1, NX 0 (R158). -/
abbrev FpFlags := BitVec 5
def fpNV : FpFlags := 16
def fpDZ : FpFlags := 8
def fpOF : FpFlags := 4
def fpUF : FpFlags := 2
def fpNX : FpFlags := 1

/-- What a bit pattern stands for: a NaN (signalling or not), an infinity, or ±m × 2^e. -/
inductive FVal where
  | nan (signalling : Bool)
  | inf (neg : Bool)
  | fin (neg : Bool) (m : Nat) (e : Int)
deriving DecidableEq, Repr

/-- The value of a bit pattern (R121, R122). -/
def ffDecode (f : FFmt) (x : Nat) : FVal :=
  let neg := x / ffSign f % 2 == 1
  let ef := x / 2 ^ f.mb % 2 ^ f.eb
  let mf := x % 2 ^ f.mb
  if ef = 2 ^ f.eb - 1 then
    (if mf = 0 then .inf neg else .nan (mf < 2 ^ (f.mb - 1)))
  else if ef = 0 then .fin neg mf (ffEmin f - f.mb)
  else .fin neg (2 ^ f.mb + mf) ((ef : Int) - ffBias f - f.mb)

/-- Shifts a number left by an integer count, dropping what falls below when the count is negative. -/
def shiftInt (n : Nat) (k : Int) : Nat := if 0 ≤ k then n * 2 ^ k.toNat else n / 2 ^ (-k).toNat

/-- n × 2^e, with something nonzero below when `sticky`, rounded to nearest even at a multiple of 2^q: the multiple and
whether it is inexact. -/
def roundAt (n : Nat) (e : Int) (sticky : Bool) (q : Int) : Nat × Bool :=
  if q ≤ e then (n * 2 ^ (e - q).toNat, sticky)
  else
    let d := 2 ^ (q - e).toNat
    let m := n / d
    let r := n % d
    let up := d < 2 * r || (2 * r == d && (sticky || m % 2 == 1))
    (if up then m + 1 else m, r != 0 || sticky)

/-- Rounds ±n × 2^e into a format to nearest even: its bits and the signals OF, UF, NX (R157, R158; tininess is judged
after rounding). -/
def ffRound (f : FFmt) (neg : Bool) (n : Nat) (e : Int) (sticky : Bool) : Nat × FpFlags :=
  let s := if neg then ffSign f else 0
  if n = 0 then (s, if sticky then fpUF ||| fpNX else 0)
  else
    let top : Int := (Nat.log2 n : Int) + e
    let q := max (top - f.mb) (ffEmin f - f.mb)
    let (m0, inexact) := roundAt n e sticky q
    let (m, q) := if m0 = 2 ^ (f.mb + 1) then (2 ^ f.mb, q + 1) else (m0, q)
    if (ffBias f : Int) < q + f.mb then (s + ffInf f, fpOF ||| fpNX)
    else
      let free := (roundAt n e sticky (top - f.mb)).1
      let tiny := top < ffEmin f && !(free = 2 ^ (f.mb + 1) && top + 1 = ffEmin f)
      let bits := if m < 2 ^ f.mb then m else (q + f.mb + ffBias f).toNat * 2 ^ f.mb + (m - 2 ^ f.mb)
      (s + bits, if inexact then (if tiny then fpUF ||| fpNX else fpNX) else 0)

/-- The exact sum of two finite values as ±n × 2^e; a zero sum of opposite signs is +0 (R157). -/
def exactAdd (sa : Bool) (ma : Nat) (ea : Int) (sb : Bool) (mb : Nat) (eb : Int) : Bool × Nat × Int :=
  let e := min ea eb
  let x : Int := (ma * 2 ^ (ea - e).toNat : Nat)
  let y : Int := (mb * 2 ^ (eb - e).toNat : Nat)
  let t := (if sa then -x else x) + (if sb then -y else y)
  if t = 0 then (sa && sb, 0, e) else (t < 0, t.natAbs, e)

/-- NV when the value is a signalling NaN. -/
def nvOf : FVal → FpFlags
  | .nan true => fpNV
  | _ => 0

/-- The value with its sign inverted. -/
def fvNeg : FVal → FVal
  | .nan s => .nan s
  | .inf n => .inf (!n)
  | .fin n m e => .fin (!n) m e

/-- a + b, rounded once (R159). -/
def fvAdd (f : FFmt) (a b : FVal) : Nat × FpFlags :=
  match a, b with
  | .nan _, _ => (ffNan f, nvOf a ||| nvOf b)
  | _, .nan _ => (ffNan f, nvOf b)
  | .inf s, .inf t => if s = t then ((if s then ffSign f else 0) + ffInf f, 0) else (ffNan f, fpNV)
  | .inf s, .fin .. => ((if s then ffSign f else 0) + ffInf f, 0)
  | .fin .., .inf t => ((if t then ffSign f else 0) + ffInf f, 0)
  | .fin s m e, .fin t n g =>
    let (sg, k, h) := exactAdd s m e t n g
    ffRound f sg k h false

/-- The exact product as a value; NV for 0 × ∞. -/
def fvProd (a b : FVal) : FVal × FpFlags :=
  match a, b with
  | .nan _, _ => (.nan false, nvOf a ||| nvOf b)
  | _, .nan _ => (.nan false, nvOf b)
  | .inf s, .inf t => (.inf (s != t), 0)
  | .inf s, .fin t n _ => if n = 0 then (.nan false, fpNV) else (.inf (s != t), 0)
  | .fin s m _, .inf t => if m = 0 then (.nan false, fpNV) else (.inf (s != t), 0)
  | .fin s m e, .fin t n g => (.fin (s != t) (m * n) (e + g), 0)

/-- A value rounded once into a format. -/
def fvRound (f : FFmt) : FVal → Nat × FpFlags
  | .nan s => (ffNan f, if s then fpNV else 0)
  | .inf n => ((if n then ffSign f else 0) + ffInf f, 0)
  | .fin n m e => ffRound f n m e false

/-- a × b, rounded once (R159). -/
def fvMul (f : FFmt) (a b : FVal) : Nat × FpFlags :=
  let (p, fl) := fvProd a b
  let (r, fl2) := fvRound f p
  (r, fl ||| fl2)

/-- a × b + d with one rounding (R159); 0 × ∞ signals NV whatever d is. -/
def fvFma (f : FFmt) (a b d : FVal) : Nat × FpFlags :=
  let (p, fl) := fvProd a b
  let (r, fl2) := fvAdd f p d
  (r, fl ||| fl2)

/-- a ÷ b, correctly rounded (R163, R164). -/
def fvDiv (f : FFmt) (a b : FVal) : Nat × FpFlags :=
  match a, b with
  | .nan _, _ => (ffNan f, nvOf a ||| nvOf b)
  | _, .nan _ => (ffNan f, nvOf b)
  | .inf _, .inf _ => (ffNan f, fpNV)
  | .inf s, .fin t _ _ => ((if s != t then ffSign f else 0) + ffInf f, 0)
  | .fin s _ _, .inf t => (if s != t then ffSign f else 0, 0)
  | .fin s m e, .fin t n g =>
    if n = 0 then
      (if m = 0 then (ffNan f, fpNV) else ((if s != t then ffSign f else 0) + ffInf f, fpDZ))
    else
      let k := 2 * f.mb + 8 + Nat.log2 n
      ffRound f (s != t) (m * 2 ^ k / n) (e - g - k) (m * 2 ^ k % n != 0)

/-- The integer square root, bit by bit from the top: `r` is the root so far of the number's high part. -/
def isqrtGo (n : Nat) : Nat → Nat → Nat
  | 0, r => r
  | k + 1, r =>
    let c := r + 2 ^ k
    isqrtGo n k (if c * c ≤ n then c else r)

/-- The integer square root. -/
def isqrt (n : Nat) : Nat := isqrtGo n (Nat.log2 n / 2 + 1) 0

/-- √a, correctly rounded (R163, R164). -/
def fvSqrt (f : FFmt) (a : FVal) : Nat × FpFlags :=
  match a with
  | .nan _ => (ffNan f, nvOf a)
  | .inf s => if s then (ffNan f, fpNV) else (ffInf f, 0)
  | .fin s m e =>
    if m = 0 then (if s then ffSign f else 0, 0)
    else if s then (ffNan f, fpNV)
    else
      let k := 2 * f.mb + 8 + (if e % 2 = 0 then 0 else 1)
      let n := m * 2 ^ k
      let n := if (e - k) % 2 = 0 then n else n * 2
      let e2 := if (e - k) % 2 = 0 then (e - k) / 2 else (e - k - 1) / 2
      let r := isqrt n
      ffRound f false r e2 (r * r != n)

/-- Whether a < b, for values that are not NaN. -/
def fvLt (a b : FVal) : Bool :=
  match a, b with
  | .nan _, _ => false
  | _, .nan _ => false
  | .inf s, .inf t => s && !t
  | .inf s, .fin .. => s
  | .fin .., .inf t => !t
  | .fin s m e, .fin t n g =>
    let (neg, k, _) := exactAdd s m e (!t) n g
    neg && k != 0

/-- Whether either is a NaN (R154). -/
def fvUnordered (a b : FVal) : Bool :=
  match a, b with
  | .nan _, _ => true
  | _, .nan _ => true
  | _, _ => false

/-- Whether a = b as numbers; −0 equals +0 (R154). -/
def fvEq (a b : FVal) : Bool := !fvUnordered a b && !fvLt a b && !fvLt b a

/-- The sign bit of a pattern. -/
def signOf (f : FFmt) (x : Nat) : Bool := x / ffSign f % 2 == 1

/-- Whether the value is a NaN. -/
def fvIsNan : FVal → Bool
  | .nan _ => true
  | _ => false

/-- Whether the value is finite. -/
def fvFinite : FVal → Bool
  | .fin .. => true
  | _ => false

/-- `fmin` and `fmax` on patterns (R160): −0 below +0, a lone NaN loses, two NaNs give the canonical one. -/
def ffMinMax (f : FFmt) (wantMax : Bool) (x y : Nat) : Nat × FpFlags :=
  let a := ffDecode f x
  let b := ffDecode f y
  let fl := nvOf a ||| nvOf b
  if fvIsNan a && fvIsNan b then (ffNan f, fl)
  else if fvIsNan a then (y, fl)
  else if fvIsNan b then (x, fl)
  else if fvLt a b then (if wantMax then y else x, fl)
  else if fvLt b a then (if wantMax then x else y, fl)
  else if signOf f x = signOf f y then (x, fl)
  else if signOf f x = wantMax then (y, fl) else (x, fl)

/-- How a value becomes an integer: toward −∞, +∞, zero, or to nearest even. -/
inductive RMode where
  | floor | ceil | trunc | nearest
deriving DecidableEq, Repr

/-- ±m × 2^e as an integer under a mode, with whether it is inexact. -/
def toIntMode (mode : RMode) (neg : Bool) (m : Nat) (e : Int) : Int × Bool :=
  if 0 ≤ e then
    let v : Int := (m * 2 ^ e.toNat : Nat)
    (if neg then -v else v, false)
  else
    let d := 2 ^ (-e).toNat
    let q := m / d
    let r := m % d
    let up := match mode with
      | .floor => neg && r != 0
      | .ceil => !neg && r != 0
      | .trunc => false
      | .nearest => d < 2 * r || (2 * r == d && q % 2 == 1)
    let v : Int := ((if up then q + 1 else q : Nat) : Int)
    (if neg then -v else v, r != 0)

/-- The four rounding functions; the sign of zero is kept and NX is never signalled (R159). -/
def ffIntegral (f : FFmt) (mode : RMode) (x : Nat) : Nat × FpFlags :=
  match ffDecode f x with
  | .nan s => (ffNan f, if s then fpNV else 0)
  | .inf _ => (x, 0)
  | .fin neg m e =>
    let (v, _) := toIntMode mode neg m e
    if v = 0 then (if neg then ffSign f else 0, 0) else ((ffRound f (v < 0) v.natAbs 0 false).1, 0)

/-- `fsat`: the value clamped to +0.0 .. 1.0; NaN and −0 give +0.0 (R159). -/
def ffSat01 (f : FFmt) (x : Nat) : Nat × FpFlags :=
  let one := ffBias f * 2 ^ f.mb
  match ffDecode f x with
  | .nan s => (0, if s then fpNV else 0)
  | .inf s => (if s then 0 else one, 0)
  | .fin neg m e =>
    if neg || m = 0 then (0, 0)
    else if fvLt (.fin false 1 0) (.fin neg m e) then (one, 0) else (x, 0)

/-- The two operations on patterns. -/
def ffAdd (f : FFmt) (x y : Nat) : Nat × FpFlags := fvAdd f (ffDecode f x) (ffDecode f y)
def ffSub (f : FFmt) (x y : Nat) : Nat × FpFlags := fvAdd f (ffDecode f x) (fvNeg (ffDecode f y))
def ffMul (f : FFmt) (x y : Nat) : Nat × FpFlags := fvMul f (ffDecode f x) (ffDecode f y)
def ffFma (f : FFmt) (x y d : Nat) : Nat × FpFlags := fvFma f (ffDecode f x) (ffDecode f y) (ffDecode f d)

/-- A pattern of one format rounded once into another (R144). -/
def ffConvert (src dst : FFmt) (x : Nat) : Nat × FpFlags := fvRound dst (ffDecode src x)

/-! The special functions (R163 to R165). Those that the manual does not round correctly are computed in fixed point with
`fxBits` fractional bits, rounded once, and moved by a free number of units in the last place, from −2 to 2. -/

/-- Fractional bits of the fixed-point values. -/
def fxBits : Nat := 256
/-- One in fixed point. -/
def fxOne : Nat := 2 ^ fxBits

/-- Σ 1 / (k 2^k) for k from n down to 1, in fixed point: the natural logarithm of 2. -/
def fxLn2Go : Nat → Nat
  | 0 => 0
  | k + 1 => fxOne / ((k + 1) * 2 ^ (k + 1)) + fxLn2Go k
/-- ln 2 in fixed point. -/
def fxLn2 : Nat := fxLn2Go 270

/-- arctan(1/d) in fixed point: n terms of the series, from 1/((2i+1) d^(2i+1)) on with alternating signs. -/
def fxAtanInv (d : Nat) : Nat → Nat → Int
  | 0, _ => 0
  | n + 1, i =>
    let t : Int := (fxOne / ((2 * i + 1) * d ^ (2 * i + 1)) : Nat)
    (if i % 2 = 0 then t else -t) + fxAtanInv d n (i + 1)
/-- π in fixed point. -/
def fxPi : Nat := (16 * fxAtanInv 5 60 0 - 4 * fxAtanInv 239 20 0).toNat

/-- The exponential series from its k-th term t on. -/
def fxExpGo (y : Nat) : Nat → Nat → Nat → Nat
  | 0, _, _ => 0
  | n + 1, k, t => t + fxExpGo y n (k + 1) (t * y / fxOne / k)
/-- e^y in fixed point for 0 ≤ y < 1. -/
def fxExp (y : Nat) : Nat := fxExpGo y 60 1 fxOne

/-- The sine or cosine series from its k-th term t on, each term the last × −y² / (k(k+1)). -/
def fxTrigGo (y : Nat) : Nat → Nat → Int → Int
  | 0, _, _ => 0
  | n + 1, k, t => t + fxTrigGo y n (k + 2) (-(t * y * y / (fxOne * fxOne)) / (k * (k + 1)))
/-- sin y in fixed point. -/
def fxSin (y : Nat) : Int := fxTrigGo y 50 2 y

/-- The fractional bits of log2 z for 1 ≤ z < 2, by repeated squaring. -/
def fxLog2Go : Nat → Nat → Nat → Nat
  | 0, _, acc => acc
  | n + 1, z, acc =>
    let w := z * z / fxOne
    if 2 * fxOne ≤ w then fxLog2Go n (w / 2) (2 * acc + 1) else fxLog2Go n w (2 * acc)

/-- 2^x for a fixed-point exponent given as whole part and fraction: a number n and exponent e with value n × 2^e. -/
def fxPow2 (whole : Int) (frac : Nat) : Nat × Int := (fxExp (frac * fxLn2 / fxOne), whole - fxBits)

/-- ±m × 2^e as a fixed-point integer (truncated toward zero). -/
def fxOf (m : Nat) (e : Int) : Nat := shiftInt m (e + fxBits)

/-- The exponent of the unit in the last place of n × 2^e in f32. -/
def ulpExp (n : Nat) (e : Int) : Int := max ((Nat.log2 n : Int) + e - 23) (-149)

/-- The f32 magnitude pattern of n × 2^e rounded toward zero, at most infinity, and whether it is exact. -/
def truncMag (n : Nat) (e : Int) : Nat × Bool :=
  let q := ulpExp n e
  let m := shiftInt n (e - q)
  let bits := if m < 2 ^ 23 then m else (q + 150).toNat * 2 ^ 23 + (m - 2 ^ 23)
  (min (ffInf f32) bits, q ≤ e || n % 2 ^ (q - e).toNat == 0)

/-- The place of the greatest f32 at or below z × 2^g among the f32 values in order, 0 for zero. -/
def floorPlace (z g : Int) : Int :=
  let m := truncMag z.natAbs g
  if 0 ≤ z then m.1 else if m.2 then -(m.1 : Int) else -(m.1 : Int) - 1

/-- The f32 values within 2 ulp of an exact magnitude that lies just above n × 2^e: the places of the least and the greatest
(R163). -/
def sfuBounds (n : Nat) (e : Int) : Int × Int :=
  let q := ulpExp n e
  let g := min e (q + 1)
  let x : Int := (n * 2 ^ (e - g).toNat : Nat)
  let d : Int := (2 ^ (q + 1 - g).toNat : Nat)
  (floorPlace (x - d) g + 1, floorPlace (x + d) g)

/-- A free one of the f32 values within 2 ulp of the exact value (R163, log 9). -/
def sfuMove (fn : Nat) (x : Word) (neg : Bool) (n : Nat) (e : Int) : Nat :=
  let b := sfuBounds n e
  let i := b.1 + (Config.sfuOffset fn x % ((b.2 - b.1).toNat + 1) : Nat)
  i.natAbs + (if neg != decide (i < 0) then 2 ^ 31 else 0)

/-- The value and the signals that a function not rounded correctly returns: NX always, OF or UF by the result (R165). -/
def sfuFree (fn : Nat) (x : Word) (neg : Bool) (n : Nat) (e : Int) : Nat × FpFlags :=
  let r := sfuMove fn x neg n e
  let mag := r % 2 ^ 31
  (r, fpNX ||| (if mag = ffInf f32 then fpOF else if mag < 2 ^ 23 then fpUF else 0))

/-- `rsqrt` (R164). -/
def sfuRsqrt (x : Word) : Nat × FpFlags :=
  match ffDecode f32 x.toNat with
  | .nan s => (ffNan f32, if s then fpNV else 0)
  | .inf s => if s then (ffNan f32, fpNV) else (0, 0)
  | .fin s m e =>
    if m = 0 then ((if s then ffSign f32 else 0) + ffInf f32, fpDZ)
    else if s then (ffNan f32, fpNV)
    else
      let l := Nat.log2 m
      if m = 2 ^ l && ((l : Int) + e) % 2 = 0 then ffRound f32 false 1 (-(((l : Int) + e) / 2)) false
      else
        let (m, e) := if e % 2 = 0 then (m, e) else (2 * m, e - 1)
        sfuFree 1 x false (isqrt (2 ^ (2 * fxBits) / m)) (-(fxBits : Int) - e / 2)

/-- `exp2` (R164, R165). -/
def sfuExp2 (x : Word) : Nat × FpFlags :=
  match ffDecode f32 x.toNat with
  | .nan s => (ffNan f32, if s then fpNV else 0)
  | .inf s => (if s then 0 else ffInf f32, 0)
  | .fin s m e =>
    let (w, inexact) := toIntMode .floor s m e
    if !inexact then
      (if 128 ≤ w then (ffInf f32, fpOF ||| fpNX)
       else if w ≤ -150 then (0, fpUF ||| fpNX)
       else ffRound f32 false 1 w false)
    else if 128 ≤ w then (ffInf f32, fpOF ||| fpNX)
    else
      let w := max w (-400)
      let y := fxOf m e % fxOne
      let frac := if s then fxOne - y else y
      let (n, h) := fxPow2 w frac
      sfuFree 3 x false n h

/-- `log2` (R164). -/
def sfuLog2 (x : Word) : Nat × FpFlags :=
  match ffDecode f32 x.toNat with
  | .nan s => (ffNan f32, if s then fpNV else 0)
  | .inf s => if s then (ffNan f32, fpNV) else (ffInf f32, 0)
  | .fin s m e =>
    if m = 0 then (ffSign f32 + ffInf f32, fpDZ)
    else if s then (ffNan f32, fpNV)
    else
      let l := Nat.log2 m
      let top : Int := (l : Int) + e
      if m = 2 ^ l then ffRound f32 (top < 0) top.natAbs 0 false
      else
        let frac := fxLog2Go 96 (m * fxOne / 2 ^ l) 0
        let v : Int := top * 2 ^ 96 + frac
        sfuFree 4 x (v < 0) v.natAbs (-96)

/-- sin of a turn fraction in quarters: quarter number and the fixed-point rest, 0 ≤ rest < 1/4 turn. -/
def sfuSinTurn (quarter rest : Nat) : Bool × Nat :=
  let y := if quarter % 2 = 0 then rest else fxOne / 4 - rest
  (quarter / 2 % 2 == 1, (fxSin (2 * fxPi * y / fxOne)).toNat)

/-- `sin` and `cos`, in turns (R163, R164). `shift` is the quarter added: 0 for sin, 1 for cos. -/
def sfuTrig (fn shift : Nat) (x : Word) : Nat × FpFlags :=
  match ffDecode f32 x.toNat with
  | .nan s => (ffNan f32, if s then fpNV else 0)
  | .inf _ => (ffNan f32, fpNV)
  | .fin s m e =>
    let (q4, inexact) := toIntMode .floor false (4 * m) e
    if !inexact then
      -- a multiple of a quarter turn: the exact values
      let k := (q4.toNat + shift) % 4
      let one := ffBias f32 * 2 ^ f32.mb
      if k % 2 = 0 then
        (if shift = 0 then (if s then ffSign f32 else 0, 0) else (0, 0))
      else
        let neg := if shift = 0 then (k == 3) != s else k == 3
        ((if neg then ffSign f32 else 0) + one, 0)
    else
      let r := fxOf m e % fxOne
      let quarter := r / (fxOne / 4)
      let (neg, v) := sfuSinTurn (quarter + shift) (r % (fxOne / 4))
      sfuFree fn x (if shift = 0 then neg != s else neg) v (-(fxBits : Int))

/-- e^y for fixed-point y ≥ 0, as n × 2^e. -/
def fxExpBig (y : Nat) : Nat × Int :=
  let t := y * fxOne / fxLn2
  fxPow2 ((t / fxOne : Nat) : Int) (t % fxOne)

/-- `tanh` (R164). -/
def sfuTanh (x : Word) : Nat × FpFlags :=
  match ffDecode f32 x.toNat with
  | .nan s => (ffNan f32, if s then fpNV else 0)
  | .inf s => ((if s then ffSign f32 else 0) + ffBias f32 * 2 ^ f32.mb, 0)
  | .fin s m e =>
    if m = 0 then (if s then ffSign f32 else 0, 0)
    else
      let y := min (fxOf m e) (64 * fxOne)
      let (n, h) := fxExpBig (2 * y)
      let v := shiftInt n (h + fxBits)
      sfuFree 7 x s ((v - fxOne) * fxOne / (v + fxOne)) (-(fxBits : Int))

/-- `sigm` (R163, R164). -/
def sfuSigm (x : Word) : Nat × FpFlags :=
  match ffDecode f32 x.toNat with
  | .nan s => (ffNan f32, if s then fpNV else 0)
  | .inf s => (if s then 0 else ffBias f32 * 2 ^ f32.mb, 0)
  | .fin s m e =>
    if m = 0 then ((ffBias f32 - 1) * 2 ^ f32.mb, 0)
    else
      let y := min (fxOf m e) (256 * fxOne)
      let (n, h) := fxExpBig y
      let v := shiftInt n (h + fxBits)
      -- e^|x| = v; sigm = v / (1 + v) or 1 / (1 + v)
      let num := if s then fxOne else v
      sfuFree 8 x false (num * 2 ^ (2 * fxBits) / (v + fxOne)) (-(2 * fxBits : Nat))

/-- The SFU functions of one argument, by function code (R164). -/
def sfuUnary (fn : Nat) (x : Word) : Nat × FpFlags :=
  match fn with
  | 0 => fvDiv f32 (.fin false 1 0) (ffDecode f32 x.toNat)
  | 1 => sfuRsqrt x
  | 2 => fvSqrt f32 (ffDecode f32 x.toNat)
  | 3 => sfuExp2 x
  | 4 => sfuLog2 x
  | 5 => sfuTrig 5 0 x
  | 6 => sfuTrig 6 1 x
  | 7 => sfuTanh x
  | _ => sfuSigm x

end Sys2Proof.Machine
end

