-- ==== Sys2Proof/Machine/Flags.lean ====
section
/-! DEFINITION. Every flag computation: the IEEE exception test (07_scalar R158), and the completion flags of long-latency
slots with the results that arrive for them (02_words R38, R39; 04_work R71). -/

namespace Sys2Proof.Machine

/-- A thread that signals an enabled exception raises FP_EXC; the fault value holds the signals (R158). -/
def fpCheck (t : Troupe) (fl : BitVec 5) (r : Except Cause Fx) : Except Cause Fx :=
  if fl &&& t.fpEnable != 0 then .error { cause := cFpExc, detail := 0, value := fl.setWidth 64 }
  else match r with
    | .error c => .error c
    | .ok x => .ok { x with fp := fl }

/-- After a long-latency slot: its own part of the operation ends, unless threads wait for their resolution, which keep it
(R39). -/
def settleLong (s : State) (f : Focus) (op : Nat) (faults : List (Nat × Cause)) : State :=
  if faults.isEmpty then s.modTroupe f.troupe (fun t => t.closePart op) else takeTrap s { f with op := some op } faults

/-- Schedules a result and counts it as one more part of its operation. -/
def sendResult (s : State) (f : Focus) (op time : Nat) (fills : List Fill) (g : Option (Nat × Dword)) (fp : BitVec 5) : State :=
  (s.modTroupe f.troupe (fun t => t.addParts op 1)).schedule time
    (.resultArrival { troupe := f.troupe, gen := s.genOf f.troupe, op := op, fills := fills, gdst := g, fp := fp, last := true })

/-- The positions of an exposed result: filled at cycle `due` (R71). -/
def timedPositions (id due : Nat) (ws : List Word) : List Pos := ws.zipIdx.map (fun p => .timed (id + p.2) due (.word p.1))

/-- Reserves the positions of the words that arrive later for thread i, `lat` cycles after its own cycle. -/
def reserveLate (f : Focus) (base lat i : Nat) (d : BitVec 6) (r : Except Cause Fx) : Except Cause Fx :=
  match r with
  | .error c => .error c
  | .ok x => match x.late with
    | none => .ok x
    | some (ws, _) =>
      if d.toNat < 32 then
        match x.th.pushAll (f.issue + i) d.toNat (timedPositions (base + 4 * i) (f.issue + i + lat) ws) with
        | .error c => .error c
        | .ok th => .ok { x with th := th }
      else .ok x

/-- The fills of thread i. -/
def lateFills (base i : Nat) (d : BitVec 6) (ws : List Word) : List Fill :=
  if d.toNat < 32 then
    ws.zipIdx.map (fun p => { thread := i, queue := d.toNat, id := base + 4 * i + p.2, val := .word p.1 })
  else []

/-- The g register that thread i's result writes, zero-extended from its last word (R146, R427). -/
def lateG (d : BitVec 6) (ws : List Word) : Option (Nat × Dword) :=
  if 32 ≤ d.toNat && d.toNat < 48 then some (d.toNat - 32, (ws.getLastD 0).setWidth 64) else none

/-- Schedules the results of every thread that has one. A uniform slot has one result (R35, R162). -/
def sendLate (s : State) (f : Focus) (op base lat : Nat) (d : BitVec 6) (uniform : Bool) (rs : List Ran) : State :=
  rs.zipIdx.foldl (fun s p => match p.1 with
    | .done { late := some (ws, fp), .. } =>
      if uniform && p.2 != leaderOf f.run then s
      else sendResult s f op (f.issue + (if uniform then 0 else p.2) + lat) (lateFills base p.2 d ws) (if f.above p.2 then none else lateG d ws) fp
    | _ => s) s

/-- A slot with an exposed fixed latency (R38, R71): SFU, texel filter, feature grid. -/
def exposedSlot (s : State) (f : Focus) (t : Troupe) (y uniform : Bool) (lat : Nat) (d : BitVec 6)
    (body : Nat → Thread → Except Cause Fx) : State :=
  let flag := selectFlag s f y
  if flagFull s f flag then holdFlag s f flag
  else
    let r := openOp s f flag
    let base := r.2.ids
    let rs := keepG f (ranOf f.run t.threads (fun i th => reserveLate f base lat i d (body i th)))
    let s := ({ r.2 with ids := base + 64 }).modTroupe f.troupe (fun t => applyRan t rs)
    settleLong (sendLate s f r.1 base lat d uniform rs) f r.1 (ranFaults rs)

end Sys2Proof.Machine
end

