-- ==== Sys2Proof/Machine/Bundle.lean ====
section
/-! DEFINITION. Bundles: which slots take a literal (02_words R34), ports, groups and the legality of a bundle (R25 to R48),
its issue (04_work R67 to R70, 18_schedule R392), return into a split bundle (19_traps R406, R414, R416), and the end of a
slot. -/

namespace Sys2Proof.Machine

/-! ## The raw fields of a slot -/

/-- Class and function code of a word; I-form codes have 2 bits and MEM-form codes 3 (R51). -/
def classOf (w : Word) : Nat := bitsAt w 26 5
def fnOf (w : Word) : Nat :=
  let c := classOf w
  if c = 4 || c = 5 then bitsAt w 0 2 else if c = 15 || c = 16 then bitsAt w 0 3 else bitsAt w 0 4

/-- The fields A, B and D that the slot of a class and function code reads, as three Bools (R43). -/
def readsABD (c fn : Nat) : Bool × Bool × Bool :=
  match c with
  | 2 => (decide (fn < 15), decide (fn < 13 || fn = 14), decide (fn = 14))
  | 3 => (decide (fn < 15), decide (fn < 15 && fn ≠ 7 && fn ≠ 8 && fn ≠ 9), decide (fn = 12))
  | 4 => (true, false, false)
  | 5 => (true, false, false)
  | 6 => (decide (2 ≤ fn && fn ≤ 6), decide (fn = 2), false)
  | 7 => (decide (fn < 10 || fn = 14), decide (fn < 10), false)
  | 8 => (decide (fn < 14), decide (fn < 6 || fn = 8), decide (fn = 3))
  | 9 => (decide (fn < 10), decide (fn < 10), decide (fn = 2 || fn = 7))
  | 10 => (true, decide (fn = 5 || fn = 6), false)
  | 11 => (decide (fn < 10), decide (fn = 9), false)
  | 12 => (decide (fn = 8), false, false)
  | 13 => (decide (fn < 12 && fn ≠ 1 && fn ≠ 4 && fn ≠ 7 && fn ≠ 8), decide (fn = 3), false)
  | 14 => (decide (fn = 3 || fn = 9), false, false)
  | 15 => (decide (fn < 5), false, false)
  | 16 => (decide (fn < 5), false, decide (fn < 5))
  | 17 => (decide (fn < 12), decide (fn < 12), decide (fn = 9))
  | 18 => (decide (fn < 10), decide (fn < 10), false)
  | 19 => (decide (fn < 6), decide (fn < 3), false)
  | 20 => (decide (fn < 8), decide (fn < 8), decide (fn < 8))
  | 21 => (decide (fn < 2), false, false)
  | 22 => (decide (fn < 6), decide (1 ≤ fn && fn ≤ 3), false)
  | 27 => (decide (fn < 6), decide (fn < 2 || fn = 5), false)
  | 28 => (decide (fn < 7), decide (fn < 7), decide (fn = 6))
  | 29 => (decide (fn = 1 || fn = 3 || fn = 8), decide (fn = 3 || fn = 8), decide (fn = 5))
  | 30 => (decide (fn < 7), decide (fn = 0 || fn = 1 || fn = 2 || fn = 5 || fn = 6), false)
  | _ => (false, false, false)

/-- The fields A, B and D in which `lit` is permitted (R34). -/
def litABD (w : Word) : Bool × Bool × Bool :=
  let c := classOf w
  let fn := fnOf w
  let r := readsABD c fn
  match c with
  | 6 => (decide (fn = 2 || fn = 4), decide (fn = 2) && isG (w.extractLsb' 20 6), false)
  | 13 => (false, false, false)
  | 14 => (decide (fn = 9), false, false)
  | 21 => (decide (fn = 1), false, false)
  | 28 => (decide (fn < 6), decide (fn < 7), false)
  | 29 => (decide (fn = 1 || fn = 3), decide (fn = 3), decide (fn = 5))
  | 30 => (false, false, false)
  | 16 => r
  | 20 => r
  | _ => (r.1, r.2.1, false)

/-- The word takes the next slot as its literal (R34). -/
def takesLiteral (w : Word) : Bool :=
  let p := litABD w
  (p.1 && bitsAt w 14 6 == 61) || (p.2.1 && bitsAt w 8 6 == 61) || (p.2.2 && bitsAt w 20 6 == 61)

/-- VA and VB of a VEC or VMEM slot read a vector port: VB of FN 0 to 5 with BS = 0, of `vcvt` codes 5 and 6, of `vsel`
and `vperm`; only the index register of `vgath` and `vscat` (R43, R170 to R179). -/
def vectorReads (w : Word) : Bool × Bool :=
  let fn := fnOf w
  let sub := bitsAt w 4 6
  if classOf w = 23 then
    (fn != 12 || sub == 1,
     (decide (fn < 6) && !w.getLsbD 7) || (fn == 10 && (sub == 5 || sub == 6)) || fn == 13 || fn == 14)
  else (classOf w == 24 && (fn == 4 || fn == 5), false)

/-- The vector read ports that a slot uses, numbered 4 and 5 beside the four queue-file ports (R43, R44). -/
def vectorPorts (w : Word) : List Nat :=
  (if (vectorReads w).1 then [4 + bitsAt w 10 1] else []) ++
  (if (vectorReads w).2 then [4 + (bitsAt w 10 1 + 1) % 2] else [])

/-- The read ports that a slot uses (R43). -/
def portsOf (w : Word) : List Nat :=
  let c := classOf w
  let r := readsABD c (fnOf w)
  let base := if c = 4 || c = 5 then bitsAt w 2 2 else if c = 15 || c = 16 then bitsAt w 5 2 else bitsAt w 6 2
  let dPort := if c = 16 then base + 1 else base + 2
  (if r.1 && decide (bitsAt w 14 6 < 48) then [base % 4] else []) ++
  (if r.2.1 && decide (bitsAt w 8 6 < 48) then [(base + 1) % 4] else []) ++
  (if r.2.2 && decide (bitsAt w 20 6 < 48) then [dPort % 4] else []) ++ vectorPorts w

/-- The slot names a q register as a destination it writes (R45). -/
def writesQueue (w : Word) : Bool :=
  let c := classOf w
  let fn := fnOf w
  let q := decide (bitsAt w 20 6 < 32)
  match c with
  | 15 => decide (fn < 5)
  | 2 | 3 => q && decide (fn < 15)
  | 4 | 5 | 10 => q
  | 8 => q && decide (fn < 14)
  | 9 | 11 => q && decide (fn < 10)
  | 17 => q && decide (fn < 12)
  | 6 => q && decide (fn ≤ 2 || fn = 4 || fn = 5)
  | 19 => q && decide (fn = 0 || fn = 2 || fn = 4 || fn = 5)
  | 20 => q && decide (fn = 9)
  | 21 => q && decide (fn < 3)
  | 28 => q && decide (fn < 6)
  | 29 => q && decide (fn = 4)
  | _ => false

/-- The group of a class and its limit per bundle (R46). -/
def groupOf (c : Nat) : Nat × Nat :=
  if 2 ≤ c && c ≤ 7 then (1, 3)
  else if 8 ≤ c && c ≤ 10 then (2, 2)
  else match c with
    | 11 => (3, 1) | 15 => (4, 1) | 16 => (4, 1) | 17 => (4, 1) | 18 => (4, 1) | 20 => (4, 1)
    | 12 => (5, 1) | 13 => (5, 1) | 29 => (5, 1) | 30 => (5, 1)
    | 23 => (6, 1) | 24 => (7, 1) | 25 => (8, 1) | 26 => (9, 1) | 28 => (10, 1)
    | 14 => (11, 1) | 22 => (11, 1) | 19 => (11, 1) | 21 => (11, 1) | 27 => (11, 1)
    | _ => (0, 8)

/-! ## Legality of a bundle (R26, R48) -/

/-- The slots of a bundle that are not literals, as (index, word), with its length; none when it has no legal end: no stop
bit among 8 slots, the end of its segment, or a stop bit on a slot that takes a literal. -/
def scanBundle (ws : Nat → Option Word) : Nat → Nat → Option (List (Nat × Word) × Nat)
  | 0, _ => none
  | fuel + 1, k =>
    match ws k with
    | none => none
    | some w =>
      if takesLiteral w then
        if stopBit w then none
        else match ws (k + 1) with
          | none => none
          | some l =>
            if 8 ≤ k + 1 then none
            else if stopBit l then some ([(k, w)], k + 2)
            else match scanBundle ws fuel (k + 2) with
              | none => none
              | some (r, n) => some ((k, w) :: r, n)
      else if 8 ≤ k then none
      else if stopBit w then some ([(k, w)], k + 1)
      else match scanBundle ws fuel (k + 1) with
        | none => none
        | some (r, n) => some ((k, w) :: r, n)

/-- No value stands twice in a list. -/
def noRepeat : List Nat → Bool
  | [] => true
  | x :: xs => !xs.contains x && noRepeat xs

/-- A control slot is the last slot of a bundle (R47). -/
def controlLast : List (Nat × Word) → Bool
  | [] => true
  | [_] => true
  | (_, w) :: rest => (groupOf (classOf w)).1 != 5 && controlLast rest

/-- Headers and guards stand where they may (R36, R41). -/
def headersLegal (l : List (Nat × Word)) : Bool :=
  l.all (fun p => classOf p.2 != 0 || p.1 == 0) &&
  l.all (fun p => classOf p.2 != 1 || p.1 == 0 ||
    (p.1 == 1 && (match l with | (_, w) :: _ => classOf w == 0 | [] => false)))

/-- The limits of R44 to R46. -/
def limitsLegal (l : List (Nat × Word)) : Bool :=
  noRepeat (l.flatMap (fun p => portsOf p.2)) &&
  decide ((l.filter (fun p => writesQueue p.2)).length ≤ 3) &&
  l.all (fun p => let g := groupOf (classOf p.2)
    decide ((l.filter (fun q => (groupOf (classOf q.2)).1 == g.1)).length ≤ g.2))

/-- A bundle breaks no condition of R48; this is checked before any slot is (R50). -/
def legalBundle (ws : Nat → Option Word) : Bool :=
  match scanBundle ws 8 0 with
  | none => false
  | some (l, n) => decide (4 ≤ n) && headersLegal l && controlLast l && limitsLegal l

/-! ## Text -/

/-- The address lies in the kernel's segments (R392). -/
def inKernel (t : Troupe) (a : Nat) : Bool := decide (t.text ≤ a) && decide (a < t.text + 4096 * t.segs)

/-- The word of slot k of the bundle at an address; none past the end of its segment frame. Words past the used length
read as zero (R28, R392). -/
def wordAt (s : State) (tk : Nat) (t : Troupe) (base k : Nat) : Option Word :=
  match s.frameOf tk t base with
  | none => none
  | some r =>
    let i := (base - t.text) % 4096 / 4 + k
    if i < 1024 then some (r.words.getD i 0) else none

/-! ## Issue -/

/-- The guard that gates a bundle's threads, when it has one in a legal place (R41); a header that ends its bundle has none. -/
def guardOf (s : State) (tk : Nat) (t : Troupe) : Option (BitVec 3 × Bool) :=
  let at_ (k : Nat) := match wordAt s tk t t.pc k with
    | some w => if classOf w = 1 then some (w.extractLsb' 23 3, w.getLsbD 22) else none
    | none => none
  match wordAt s tk t t.pc 0 with
  | some w => if classOf w = 0 then (if stopBit w then none else at_ 1) else at_ 0
  | none => none

/-- The active threads whose predicate, inverted by NEG, is true (R41, R73). -/
def passing (t : Troupe) (m : BitVec 16) (p : BitVec 3) (neg : Bool) : BitVec 16 :=
  maskOf ((threadsOf m).filter (fun i => (t.thread i).pred p.toNat != neg))

/-- A focus at slot k of the bundle at the program counter. -/
def newFocus (s : State) (tk : Nat) (t : Troupe) (k : Nat) (pass run : BitVec 16) (op : Option Nat) : Focus :=
  { troupe := tk, k := k, base := t.pc, issue := s.now, latch := t, pass := pass, run := run, word := 0, lit := 0, target := none,
    resuming := false, acted := false, sent := [], answer := none, op := op, first := true, width := 1, last := false,
    cont := (t.pc, false), ctl := none }

/-- A focus at the slot where a split bundle is re-entered: predicates and `scopesel` are those of its first issue (R156, R290). -/
def splitFocus (s : State) (tk : Nat) (t : Troupe) (sp : Split) (pass run : BitVec 16) : Focus :=
  { newFocus s tk t sp.slot pass run sp.op with
    first := false, answer := sp.answer,
    latch := { t with scopesel := sp.scopesel, threads := (upTo 16).map (fun i => { t.thread i with preds := sp.preds.getD i (t.thread i).preds }) } }

/-- A troupe issues in this cycle, in the turn of its lane, and its bundle occupies the next 16 (R68, R70). -/
def markIssue (s : State) (tk : Nat) : State :=
  s.modTroupe tk (fun t => { t with lastIssue := s.now, readyAt := s.now + 16, lane := s.now % 16 })

/-- The length of a bundle that no thread runs: as its slots and literals give it, else to its first stop bit (R28). -/
def bundleEnd (ws : Nat → Option Word) : Option Nat :=
  match scanBundle ws 8 0 with
  | some (_, n) => some n
  | none => ((upTo 8).find? (fun k => match ws k with | some w => stopBit w | none => false)).map (fun k => k + 1)

/-- The troupe has fallen through to the start of a segment that holds no word, whose zeros R66 never issues: it is passed over, and past
the last one the fall-through has left the kernel (R392; the model's reading, log 50). -/
def atEmpty (s : State) (tk : Nat) (t : Troupe) : Bool :=
  t.fell && (t.pc - t.text) % 4096 == 0 && (match s.frameOf tk t t.pc with | some r => r.words.isEmpty | none => false)

/-- The program counter lies outside the kernel, or past the used length of its last segment by a fall-through (R392). -/
def overrun (s : State) (tk : Nat) (t : Troupe) : Bool :=
  !inKernel t t.pc || (t.fell && ((t.pc - t.text) % 4096 != 0 || (atEmpty s tk t && decide (t.text + 4096 * t.segs ≤ t.pc + 4096))))

/-- The troupe goes on after a bundle in which no thread is left to run a slot (R406); it stays where the bundle has no end. -/
def skipBundle (s : State) (tk : Nat) (t : Troupe) : State :=
  match bundleEnd (wordAt s tk t t.pc) with
  | none => s
  | some n => s.modTroupe tk (fun u =>
      let a := fallThrough s tk t t.pc (t.pc + 4 * n)
      { u with pc := a.1, fell := a.2, split := none })

/-- Raising a trap at the issue itself, before any slot: SLOT_RESUME 0 (R48, R392). With no thread that passes, and for the other
threads of a handler troupe (R413), no slot of the bundle is left to run. The slot of a split bundle that cannot be re-entered ends,
and with it its part of its operation (R39). -/
def trapAtIssue (s : State) (tk : Nat) (t : Troupe) (pass : BitVec 16) (c : Cause) : State :=
  let s := s.modTroupe tk (fun u => u.closeOpt (t.split.bind (fun p => p.op)))
  let f := newFocus s tk t 0 pass pass none
  let faults := (threadsOf pass).map (fun i => (i, c))
  if t.handler then skipBundle (handlerLoses s tk faults) tk t
  else if pass = 0 then skipBundle (s.modTroupe tk (writeTrapRegs 0 0 t.pc 0 0 c)) tk t
  else takeTrap s f faults

/-- A trap in the fetch of a bundle: no slot of it has been read, so the troupe resumes at its start (R392). -/
def trapFetch (s : State) (tk : Nat) (t : Troupe) (c : Cause) : State :=
  (trapAtIssue s tk t t.active c).modTroupe tk
    (fun t => { t with split := none })

/-- Positions tagged in the snapshot buffer take effect at the first bundle after a resumption, issued at cycle r (R420). -/
def Pos.resume (r : Nat) : Pos → Pos
  | .tagged id l v => if l ≤ 16 then fillPos v else .timed id (r - 16 + l) v
  | p => p

/-- Fills the tagged positions of a troupe that issues at cycle r. -/
def resumeTagged (r : Nat) (t : Troupe) : Troupe :=
  { t with threads := t.threads.map (fun th => { th with qs := th.qs.map (fun p => (p.1, p.2.map (fun e => { e with pos := e.pos.resume r }))) }) }

/-- Which fields of a read slot name queues, in the order A, B, D, with the entries each pops (R29, R226, R348, R427). -/
def poppedBy (w : Word) : List Nat :=
  let c := classOf w
  let fn := fnOf w
  let r := readsABD c fn
  let ka := if c = 4 || c = 5 then w.getLsbD 4 else if c = 15 then w.getLsbD 25 else if c = 16 then false else if c = 20 then false else w.getLsbD 5
  let kb := if c = 20 || c = 17 && decide (32 ≤ bitsAt w 8 6) then false else w.getLsbD 4
  let a := bitsAt w 14 6
  let b := bitsAt w 8 6
  let d := bitsAt w 20 6
  let na := if c = 28 && fn = 6 then 4 else 1
  let nd := if c = 16 && bitsAt w 3 2 = 3 then 2 else 1
  (if r.1 && decide (a < 32) && !ka && !(c = 6 && fn = 5) then List.replicate na a else []) ++
  (if r.2.1 && decide (b < 32) && !kb then [b] else []) ++
  (if r.2.2 && decide (d < 32) then List.replicate nd d else [])

/-- The destination of a slot that a supply writes (R414): a queue with its number of positions, a g register, a predicate. -/
inductive SupplyDst where
  | queue (q n : Nat)
  | greg (i : Nat)
  | pred (p : Nat)
  | nothing
deriving DecidableEq, Repr

/-- The destination of a slot's word. -/
def supplyDst (w : Word) : SupplyDst :=
  let c := classOf w
  let fn := fnOf w
  let d := bitsAt w 20 6
  if c = 7 || (c = 19 && fn = 1) then .pred (d % 8)
  else if writesQueue w then .queue (d % 32) (if (c = 15 && bitsAt w 3 2 = 3) || (c = 6 && fn = 4) then 2 else 1)
  else if (c = 23 && fn = 11) || (c = 25 && (fn = 6 || fn = 9)) || (c = 26 && fn = 7) then
    (if bitsAt w 21 5 < 16 then .greg (bitsAt w 21 5) else .nothing)
  else if 32 ≤ d && d < 48 && (decide (2 ≤ c && c ≤ 11) || c = 13 || c = 14 || c = 17 || c = 19 || c = 20 && fn = 9 || c = 21 || c = 22
      || c = 27 || (c = 28 && decide (fn < 6)) || (c = 29 && (fn = 4 || fn = 8)) || c = 30) then .greg (d - 32)
  else .nothing

/-- The words that a supply of v writes (R414). -/
def supplyWords (n : Nat) (w v : Word) : List Word := if n = 2 then (if classOf w = 6 then [v, v] else [v, 0]) else [v]

/-- A supplied thread commits slot k with the value in place of its result: sources are popped, the destination written;
none when a queue has no room for it (R414). -/
def supplyThread (cyc : Nat) (w v : Word) (th : Thread) : Option (Thread × Option (Nat × Dword)) :=
  let th := (poppedBy w).foldl (fun th q => th.drop q) th
  match supplyDst w with
  | .queue q n => match th.pushAll cyc q ((supplyWords n w v).map (fun x => .filled x false)) with
    | .ok th => some (th, none)
    | .error _ => none
  | .greg i => some (th, some (i, v.setWidth 64))
  | .pred p => some (th.setPred p (v.getLsbD 0), none)
  | .nothing => some (th, none)

/-- The slot of a word executes once for the troupe (R35, R102). -/
def uniformWord (w : Word) : Bool :=
  let c := classOf w
  let r := readsABD c (fnOf w)
  let names (n : Nat) : Bool := decide (32 ≤ n && n < 48) || n == 56 || n == 61 || n == 59
  if c = 12 || c = 13 || c = 14 || c = 21 || c = 22 || (23 ≤ c && c ≤ 27) || c = 30 then true
  else if c = 7 || c = 15 then false
  else if c = 29 then
    (match fnOf w with
     | 1 => names (bitsAt w 14 6)
     | 3 => false
     | 4 => !decide (bitsAt w 20 6 < 32)
     | _ => true)
  else if c = 20 && fnOf w = 8 then true
  else (!r.1 || names (bitsAt w 14 6)) && (!r.2.1 || names (bitsAt w 8 6)) && names (bitsAt w 20 6)

/-- Every origin of a troupe is settled (R416). -/
def originsSettled (t : Troupe) : Bool := t.origins.all (fun o => o.res.isSome)

/-- The new origin of a supplied thread whose queue has no room (R414). -/
def supplyOver (w : Word) : Cause :=
  { cause := cQueueOver, detail := 3, value := (match supplyDst w with | .queue q _ => BitVec.ofNat 64 q | _ => 0) }

/-- Supplies the origin with an identifier (R414). The slot of a resident troupe commits at once for the thread, whose value stays in
a g register unless a thread of higher index has committed it (R106); a thread
without room becomes a new origin. A uniform slot, an asynchronous trap, a troupe whose segment is in no frame and a
swapped-out one wait for their re-entry. -/
def supplyOrigin (s : State) (id : Nat) (v : Word) : State :=
  match s.troupes.find? (fun p => p.2.origins.any (fun o => o.id == id && o.res.isNone)) with
  | none => settleOrigin s id (.supply v)
  | some (tk, t) => match t.origins.find? (fun o => o.id == id) with
    | none => s
    | some o =>
      let word := wordAt s tk t t.pc o.slot
      let w := word.getD 0
      let above : Bool := (threadsOf ((match t.split with | some sp => sp.pass | none => 0) &&& t.active)).any (fun j =>
        decide (o.thread < j) && !t.origins.any (fun x => x.thread == j && x.res != some .done))
      if o.async || word.isNone || uniformWord w then settleOrigin s id (.supply v)
      else match supplyThread s.now w v (t.thread o.thread) with
        | some (th, g) => s.modTroupe tk (fun t =>
            let t := markOrigin id .done (t.setThread o.thread th)
            match g with | some (i, x) => if above then t else t.gwrite i x | none => t)
        | none =>
          let os := originsOf s.ids o.slot false [(o.thread, supplyOver w)]
          (({ s with ids := s.ids + 1 }).modTroupe tk (fun t =>
            { markOrigin id .done t with origins := (markOrigin id .done t).origins ++ os })).schedule s.now (.originArrival tk)

/-- Settles the origins of a split troupe before its re-entry (R406, R414): threads that chose retry run slot k again. A
uniform slot runs once again if any origin chose retry, for every thread of PASS unless it has acted already (R102), and
otherwise commits with the value of the lowest-indexed supply. Answers the threads that run slot k again, and new faults. -/
def settleOrigins (s : State) (t : Troupe) (sp : Split) (w : Word) : Troupe × BitVec 16 × List (Nat × Cause) :=
  let live := t.origins.filter (fun o => t.active.getLsbD o.thread)
  let retries := live.filter (fun o => o.res == some .retry || o.async)
  let supplies := live.filterMap (fun o => match o.res with | some (.supply v) => if o.async then none else some (o, v) | _ => none)
  let t0 := { t with origins := [] }
  if !uniformWord w then
    supplies.foldl (fun (a : Troupe × BitVec 16 × List (Nat × Cause)) p =>
      match supplyThread s.now w p.2 (a.1.thread p.1.thread) with
      | some (th, g) =>
        let u := a.1.setThread p.1.thread th
        let above : Bool := (threadsOf (sp.pass &&& t.active)).any (fun j => decide (p.1.thread < j) && !live.any (fun o => o.thread == j))
        ((match g with | some (i, x) => if above then u else u.gwrite i x | none => u), a.2.1, a.2.2)
      | none => (a.1, a.2.1, a.2.2 ++ [(p.1.thread, supplyOver w)])) (t0, maskOf (retries.map (fun o => o.thread)), [])
  else if !retries.isEmpty then (t0, if sp.answer.isSome then maskOf (live.map (fun o => o.thread)) else sp.pass &&& t.active, [])
  else match supplies with
    | [] => (t0, 0, [])
    | (_, v) :: _ =>
      let lead := match sp.answer with | some (l, _) => l | none => leaderOf (sp.pass &&& t.active)
      let ths := if sp.answer.isSome then live.map (fun o => o.thread) else threadsOf (sp.pass &&& t.active)
      let t1 := if ths.contains lead then t0.setThread lead ((poppedBy w).foldl (fun th q => th.drop q) (t0.thread lead)) else t0
      match supplyDst w with
      | .queue q n =>
        ths.foldl (fun (a : Troupe × BitVec 16 × List (Nat × Cause)) i =>
          match (a.1.thread i).pushAll s.now q ((supplyWords n w v).map (fun x => .filled x false)) with
          | .ok th => (a.1.setThread i th, 0, a.2.2)
          | .error _ => (a.1, 0, a.2.2 ++ [(i, supplyOver w)])) (t1, 0, [])
      | .greg i => (t1.gwrite i (v.setWidth 64), 0, [])
      | _ => (t1, 0, [])

/-- The origins that chose retry: they stay while a new origin of the same slot is settled (R414). -/
def keptRetries (l : List Origin) : List Origin := l.filter (fun o => o.res == some .retry)

/-- Raises the oldest pending asynchronous trap of a troupe at the point of a bundle issue (R407, R358); in a handler troupe its
threads end (R413), and a speculative troupe stops with it until its speculation is decided (R377). A bundle in which the troupe
stands is re-entered after it. -/
def raiseAsync (s : State) (tk : Nat) (t : Troupe) : State :=
  let go (faults : List (Nat × Cause)) : State :=
    let s := s.modTroupe tk Troupe.dropAsync
    if t.handler then handlerLoses s tk faults
    else if faults.isEmpty then s
    else
      let c := (firstFault faults).2
      let redo := maskOf (faults.map (fun x => x.1))
      let os := originsOf s.ids 0 true faults
      ({ s with ids := s.ids + faults.length }).modTroupe tk (fun t =>
        { writeTrapRegs 0 0 t.pc t.active redo c t with origins := (if t.split.isSome then t.origins else []) ++ os }) |>.schedule s.now (.originArrival tk)
  let late (x : Late) : List (Nat × Cause) :=
    (threadsOf t.active).map (fun i => (i, { cause := cPromiseLate, detail := x.engine, value := BitVec.ofNat 64 (x.promise % 2 ^ 32) }))
  let failed (o : Origin) : List (Nat × Cause) :=
    if t.active.getLsbD o.thread then [(o.thread, { cause := o.cause, detail := o.detail, value := o.value })] else []
  if !t.spec.sketches.isEmpty then s.modTroupe tk (fun t => { t with wait := some .commit })
  else match t.late, t.async with
    | x :: _, o :: _ => if x.id < o.id then go (late x) else go (failed o)
    | x :: _, [] => go (late x)
    | [], o :: _ => go (failed o)
    | [], [] => s

/-! ## Parity of entries that a debugger has written (R407, R424) -/

/-- The q registers that a slot reads, popped or not (R29). -/
def queuesRead (w : Word) : List Nat :=
  let r := readsABD (classOf w) (fnOf w)
  (if r.1 && decide (bitsAt w 14 6 < 32) then [bitsAt w 14 6] else []) ++ (if r.2.1 && decide (bitsAt w 8 6 < 32) then [bitsAt w 8 6] else []) ++
  (if r.2.2 && decide (bitsAt w 20 6 < 32) then [bitsAt w 20 6] else [])

/-- The threads in which a bundle that is about to issue would reach an entry whose parity is wrong and which a debugger has
written: the check finds it when the bundle issues, before any slot. -/
def editedBad (s : State) (tk : Nat) (t : Troupe) : List Nat :=
  if t.threads.all (fun th => th.qs.all (fun q => q.2.all (fun e => !e.edited))) then []
  else match scanBundle (wordAt s tk t t.pc) 8 0 with
    | none => []
    | some (l, _) =>
      let qs := l.flatMap (fun p => queuesRead p.2)
      (threadsOf t.active).filter (fun i => qs.any (fun q =>
        (((t.thread i).queue q).take (qs.filter (fun r => r == q)).length).any (fun e => e.edited && (match e.pos with | .filled _ b => b | _ => false))))

/-- Pends DATA_UNCORRECTABLE for the threads that would read such an entry (R407). -/
def pendEdited (s : State) (tk : Nat) (t : Troupe) : State :=
  (editedBad s tk t).foldl (fun s i =>
    let c := openCause cDataUnc 0 s.now
    let o : Origin := { id := s.ids, thread := i, cause := c.cause, detail := c.detail, value := c.value, slot := 0, async := true, arrived := false, res := none }
    ({ s with ids := s.ids + 1 }).modTroupe tk (fun t => { t with async := t.async ++ [o] })) s

/-! ## The end of a slot -/

/-- After a slot has committed: the next slot, the end of the bundle, or, when a hold has just ended, re-entry at the next
slot in the troupe's next turn (R29, R69). -/
def advance (s : State) (tk : Nat) : State :=
  match s.focus with
  | none => s
  | some f =>
    if f.troupe != tk then s
    else if f.last then finishBundle s f
    else if f.resuming then
      { s.modTroupe tk (fun t => splitAt f (f.k + f.width) f.pass 0 none t) with focus := none }
    else { s with focus := some { f with k := f.k + f.width, run := f.pass, op := none, acted := false, sent := [], answer := none } }

/-- Sets the word, literal, width and end of the slot of the focus from its words (R25, R34). A slot that completes a hold has
been read, whatever has become of its segment's frame meanwhile (R69). -/
def readSlot (s : State) (f : Focus) : Focus × Word :=
  if f.resuming then (f, f.word)
  else
    let w := (wordAt s f.troupe f.latch f.base f.k).getD 0
    let l := (wordAt s f.troupe f.latch f.base (f.k + 1)).getD 0
    let two := takesLiteral w && !stopBit w
    let g := { f with word := w, lit := literalValue l, width := if two then 2 else 1, last := stopBit w || (two && stopBit l) }
    ({ g with cont := fallThrough s f.troupe f.latch f.base g.after }, w)

/-- Re-entry at slot k for the threads that run it again; with none, at the slot after it (R406). -/
def reenter (s : State) (f : Focus) : State :=
  if f.run = 0 then
    let f' := (readSlot s f).1
    advance { s with focus := some { f' with op := none } } f.troupe
  else { s with focus := some f }

/-- A troupe enters the bundle at its program counter, or re-enters it where it is split (R28, R30, R40, R406). -/
def enterBundle (s : State) (tk : Nat) (t : Troupe) : State :=
  let gate := match guardOf s tk t with | some (p, n) => passing t t.active p n | none => t.active
  if !legalBundle (wordAt s tk t t.pc) then trapAtIssue s tk t gate (openCause cIllegalBundle 0 s.now)
  else match t.split with
    | none =>
      let t := { t with origins := [] }
      { s.setTroupe tk t with focus := some (newFocus s tk t 0 t.active t.active none) }
    | some sp =>
      let w := (wordAt s tk t t.pc sp.slot).getD 0
      let pass := sp.pass &&& t.active
      if t.origins.isEmpty then
        let t := { t with split := none }
        let run := if sp.redo = 0 then pass else sp.redo &&& t.active
        { s.setTroupe tk t with focus := some (splitFocus s tk t sp pass run) }
      else
        let r := settleOrigins s t sp w
        let s := s.setTroupe tk { r.1 with split := none }
        let f := splitFocus s tk t sp pass r.2.1
        if !r.2.2.isEmpty then
          takeTrap (s.modTroupe tk (fun u => { u with origins := keptRetries t.origins })) f r.2.2
        else if r.2.1 = 0 then reenter (s.modTroupe tk (fun t => t.closeOpt sp.op)) f
        else reenter s f

/-- The troupe issues: it passes over a segment that holds no word (log 50), or takes a pending asynchronous trap, or enters its
bundle (R28, R30, R40, R66, R392, R406, R407). The asynchronous traps that came before a split bundle have been resolved when it is
re-entered. -/
def issueTroupe (s : State) (tk : Nat) : State :=
  match s.troupe tk with
  | none => s
  | some t =>
    if atEmpty s tk t && !overrun s tk t then s.modTroupe tk (fun t => { t with pc := t.pc + 4096 })
    else
      let s := (markIssue s tk).modTroupe tk (resumeTagged s.now)
      if t.asyncDue then raiseAsync s tk t
      else if overrun s tk t then trapFetch s tk t { cause := cPagePerm, detail := 7, value := BitVec.ofNat 64 t.pc }
      else
        let s := s.modTroupe tk (fun t =>
          if t.surfaced then { t with surfaced := false, origins := t.origins.filter (fun o => !o.async) } else t)
        match s.troupe tk with
        | none => s
        | some t =>
          if t.split.isNone && !(editedBad s tk t).isEmpty then
            let s := pendEdited s tk t
            (match s.troupe tk with | some t => raiseAsync s tk t | none => s)
          else enterBundle s tk t

/-- Where a troupe that is to stop may stop: between bundles, at a split that a trap or a park has made, in the wait of its own
instruction, and wherever a handler or a halted troupe stands. A slot that holds for room, for earlier accesses or for its answer
goes on to the end of its bundle (R253, R417). -/
def stands (t : Troupe) : Bool :=
  t.handler || t.halt == .halted || !t.replay.isEmpty || !t.origins.isEmpty || t.spec.squashed ||
  (match t.wait with
   | some (.until _) => false
   | some (.room ..) => false
   | some (.order ..) => false
   | some _ => true
   | none => t.split.isNone)

/-- The troupe issues no more until its swap is over (R253, R417). -/
def atStop (t : Troupe) : Bool := t.stopped || (t.stopping && stands t)

/-- The troupe has nothing left that keeps it from issuing: no wait, no replay entry, no unresolved origin, not halted, not
at its stop for a swap (R67, R242, R409, R421). -/
def mayIssue (s : State) (t : Troupe) : Bool :=
  t.wait.isNone && t.replay.isEmpty && originsSettled t && t.halt != .halted && !atStop t && !t.spec.squashed &&
  decide (t.readyAt ≤ s.now)

/-- The troupe is ready: it may issue and its segment is in a frame, or lies outside the kernel (R392, R393). -/
def isReady (s : State) (tk : Nat) (t : Troupe) : Bool :=
  mayIssue s t && ((s.frameOf tk t t.pc).isSome || overrun s tk t)

/-- The slot of a focus with the threads that it strikes when it is illegal: in a header before the bundle's guard, those that
pass the guard (R41, R42, R49). -/
def struckFocus (s : State) (f : Focus) : Focus :=
  if f.first && f.k == 0 && classOf f.word == 0 then
    match guardOf s f.troupe f.latch with
    | some (p, n) => { f with pass := passing f.latch f.pass p n, run := passing f.latch f.pass p n }
    | none => f
  else f

/-- ILLEGAL_SLOT at the slot of the focus (R49). When no thread passed the guard the redo mask is empty, no origin
arises, and the bundle goes on after the slot (R406). -/
def illegalSlot (s : State) (f : Focus) : State :=
  let f := struckFocus s f
  let c := openCause cIllegalSlot 0 f.issue
  if f.run = 0 then
    let s := s.modTroupe f.troupe (writeTrapRegs f.k f.k f.base f.pass 0 c)
    if f.last then finishBundle s f
    else { s.modTroupe f.troupe (splitAt f (f.k + f.width) f.pass 0 none) with focus := none }
  else trapAll s f c

/-- The core of a focus has the unit of a class: MAT only on a tile, GFX only on a guide cluster (R15, R49). -/
def coreHas (tk c : Nat) : Bool := !(c == 25 && isGuide (unitOf tk)) && !(c == 28 && !isGuide (unitOf tk))

end Sys2Proof.Machine
end

