-- ==== Sys2Proof/Machine/Memops.lean ====
section
/-! DEFINITION. What the memory group shares (10_spaces R224 to R231, 11_translation R242 to R245, 14_sync R314 to R320,
17_sketch R375): effective addresses, the access of one thread to each space, fault records, held effects. -/

namespace Sys2Proof.Machine

/-- The adds of R320. -/
def faddW (a b : Word) : Word := BitVec.ofNat 32 (ffAdd f32 a.toNat b.toNat).1
def bfaddW (a b : Word) : Word :=
  BitVec.ofNat 32 ((ffAdd bf16 (a.toNat % 65536) (b.toNat % 65536)).1 % 65536 + 65536 * (ffAdd bf16 (a.toNat / 65536) (b.toNat / 65536)).1)

/-- The new value of a word under ATOM function code fn (R314). -/
def atomApply (fn : Nat) (old b d : Word) : Word :=
  match fn with
  | 8 => b
  | 9 => if old = d then b else old
  | 10 => faddW old b
  | 11 => if b ≤ old then 0 else old + 1
  | n => redApply n old b faddW bfaddW

/-- Sends the partials of a unit that lie in a line (R319). -/
def flushLine (s : State) (unit line : Nat) : State :=
  if (s.tile unit).partials.isEmpty then s else flushPartials faddW bfaddW s unit (fun p => p.pa / 128 == line)

/-- Sends the partials of a unit in the lines of a range (R319). -/
def flushRange (s : State) (unit pa n : Nat) : State :=
  if (s.tile unit).partials.isEmpty then s else flushPartials faddW bfaddW s unit (fun p => (linesOf pa n).contains (p.pa / 128 * 128))

/-- Sends every partial to which a troupe contributed (R319): it marks, fences, releases or arrives. -/
def flushTroupe (s : State) (tk : Nat) : State :=
  if (s.tile (unitOf tk)).partials.isEmpty then s
  else flushPartials faddW bfaddW s (unitOf tk) (fun p => p.by_.any (fun c => c.troupe == tk))

/-- A release of a troupe at the homes: the reductions to which it contributed and every queued store perform; what waits in its
queues or at its scratch port the caller has awaited (R281, R285). -/
def release (s : State) (tk : Nat) : State := drainStores (flushTroupe s tk)

/-! ## Scopes (R277, R282) -/

/-- The cores of a scope-table word (R283). -/
def scopeWord (s : State) (ctx entry w : Nat) : Dword := kget 0 (s.ctx ctx).scopes (32 * entry + w)

/-- A scope set is wide (R277): entries 0 and 1 never, 2 to 4 always, 5 to 31 when the set leaves the issuing unit. -/
def wideScope (s : State) (ctx unit entry : Nat) : Bool :=
  if entry ≤ 1 then false
  else if entry ≤ 4 then true
  else
    let w18 := scopeWord s ctx entry 18
    let word (w : Nat) : Dword := if w = 18 then w18 &&& 0xFFFFFFFFFFFF else scopeWord s ctx entry w
    let own := unit * 4 / 64
    let mask : Dword := BitVec.ofNat 64 (15 * 2 ^ (unit * 4 % 64))
    w18.getLsbD 48 || (upTo 19).any (fun w => (if w = own then word w &&& ~~~mask else word w) != 0)

/-- An acquire (R286): a wide one drops the unit's L1. -/
def acquireAt (s : State) (tk : Nat) (wide : Bool) : State := if wide then dropL1 s (unitOf tk) else s

/-- An acquire at a scope entry (R286). -/
def acquire (s : State) (tk ctx entry : Nat) : State := acquireAt s tk (wideScope s ctx (unitOf tk) entry)

/-! ## What a matrix operation still reads and writes (R194, R200 to R202) -/

/-- Byte ranges of the ensemble's allocation that an operation reads, one for each record; the place of a record that follows one
not yet read is known only within bounds. -/
def MatKind.reads : MatKind → List (Nat × Nat)
  | .load _ addr _ count stride _ =>
    (upTo count).map (fun i => if stride = 0 then (addr + 48 * i, 240 * i + 288) else (addr + i * stride, 288))
  | .pass _ ps => ps.flatMap (fun p => (upTo p.n).map (fun i => (p.addr + i * p.stride, 16 * (p.p + 1))))
  | _ => []

/-- The byte ranges that a drain writes, one for each row. -/
def MatKind.writes : MatKind → List (Nat × Nat)
  | .drain _ dst _ mr _ nc stride fmt _ => (upTo mr).map (fun i => (dst + i * stride, nc * (if fmt = 0 then 4 else 2)))
  | _ => []

/-- The planes of a pass in each record (R183). -/
def MatKind.planes : MatKind → Nat
  | .pass _ (p :: _) => p.p
  | _ => 1

/-- How many of its records an operation has read to the end: a load all of them at its start, a pass six for each group whose
planes have entered the array (R185). -/
def MatOp.readsDone (o : MatOp) : Nat :=
  match o.kind with
  | .pass .. => 6 * ((o.done - 4) / o.kind.planes)
  | .load _ _ _ count _ _ => if o.started.isSome then count else 0
  | _ => 0

/-- The ranges that an operation has still to read, and those that it has still to write. -/
def MatOp.toRead (o : MatOp) : List (Nat × Nat) := o.kind.reads.drop o.readsDone
def MatOp.toWrite (o : MatOp) : List (Nat × Nat) := o.kind.writes.drop o.done

/-- A troupe posted an operation or one of its pieces. -/
def MatOp.by_ (o : MatOp) (tk : Nat) : Bool :=
  match o.kind with
  | .pass _ ps => ps.any (fun p => p.troupe == tk)
  | _ => o.troupe == tk

/-- The operations of a unit that have not completed. -/
def matOps (s : State) (u : Nat) : List MatOp := (s.tile u).running ++ (s.tile u).rtab

/-- Ranges by physical offset, for an operation of an ensemble. -/
def physRanges (s : State) (ens : Nat) (l : List (Nat × Nat)) : List (Nat × Nat) :=
  let base := match s.ens ens with | some e => 65536 * e.base | none => 0
  l.map (fun r => (base + r.1, r.2))

/-- A number is given out before a place in program order. -/
def earlier (lim : Option Nat) (id : Nat) : Bool := match lim with | some n => decide (id < n) | none => true

/-- The ranges that the operations which a troupe has posted before a place in program order have still to read, by physical offset,
the pieces of joint passes not yet formed among them. -/
def matReads (s : State) (tk : Nat) (lim : Option Nat) : List (Nat × Nat) :=
  ((matOps s (unitOf tk)).filter (fun o => o.by_ tk && earlier lim o.id)).flatMap (fun o => physRanges s o.ens o.toRead) ++
  (s.enss.filter (fun e => e.2.unit == unitOf tk)).flatMap (fun e =>
    physRanges s e.1 (MatKind.reads (.pass true ((e.2.joins.flatMap (fun j => j.2)).filter (fun p => p.troupe == tk && earlier lim p.id)))))

/-- The ranges that the drains which a troupe has posted before a place in program order have still to write. -/
def matWrites (s : State) (tk : Nat) (lim : Option Nat) : List (Nat × Nat) :=
  ((matOps s (unitOf tk)).filter (fun o => o.by_ tk && earlier lim o.id)).flatMap (fun o => physRanges s o.ens o.toWrite)

/-! ## Accesses that wait for earlier ones (R279 to R281, R285, R286) -/

/-- A thread of a troupe as it makes an access. -/
def whoOf (s : State) (tk : Nat) (t : Troupe) (i : Nat) : Who := { troupe := tk, gen := s.genOf tk, thread := i, ctx := t.ctx, ens := t.ens }

/-- Two accesses meet; a window access may meet any. -/
def placesMeet (p : Place) (n : Nat) (q : Place) (m : Nat) : Bool :=
  match p, q with
  | .scratch u a, .scratch v b => u == v && overlap a n b m
  | .global a _ _, .global b _ _ => overlap a n b m
  | .window, _ => true
  | _, .window => true
  | _, _ => false

/-- A waiting access meets another. -/
def actMeets (a : Act) (p : Place) (q : Place) (m : Nat) : Bool :=
  match a with
  | .bytes ws => (match p with | .scratch u b => ws.any (fun w => placesMeet (.scratch u (b + w.1)) w.2.length q m) | _ => false)
  | .load _ size .. => placesMeet p (2 ^ size) q m
  | .store _ size .. => placesMeet p (2 ^ size) q m
  | _ => placesMeet p 4 q m

/-- Some range of a unit's scratch meets an access. -/
def rangesMeet (unit : Nat) (l : List (Nat × Nat)) (p : Place) (n : Nat) : Bool := l.any (fun r => placesMeet (.scratch unit r.1) r.2 p n)

/-- An item stands in the queues of a thread. -/
def WaitItem.of (x : WaitItem) (w : Who) : Bool := x.who.troupe == w.troupe && x.who.gen == w.gen && x.ths.getLsbD w.thread

/-- A waiting item holds back a later store of its thread: stores keep their order, and a load the bytes it is to read. -/
def WaitItem.beforeStore (x : WaitItem) (p : Place) (n : Nat) : Bool :=
  match x.what with
  | .access (.load ea size fn q op ids wide) r => actMeets (.load ea size fn q op ids wide) r p n
  | _ => true

/-- A waiting item holds back a later load of its thread: loads keep their order, and a store of the same bytes comes first. -/
def WaitItem.beforeLoad (x : WaitItem) (p : Place) (n : Nat) : Bool :=
  match x.what with
  | .access a r => (match a with
    | .store .. => actMeets a r p n
    | .red .. => actMeets a r p n
    | .bytes _ => actMeets a r p n
    | _ => true)
  | _ => true

/-- The release that an access is (R285). -/
def Act.rel : Act → Option Bool
  | .store _ _ _ _ _ r => r
  | .atom _ _ _ _ _ _ _ _ _ r => r
  | .red _ _ _ _ _ _ r => r
  | _ => none

/-- Two accesses belong to one ATOM or RED slot and name one word: the lower thread comes first (R318). -/
def slotMates (a : Act) (p : Place) (b : Act) (q : Place) : Bool :=
  (match p, q with | .global x _ _, .global y _ _ => x / 4 == y / 4 | _, _ => false) &&
  (match a, b with
   | .atom _ _ _ _ _ op _ _ _ _, .atom _ _ _ _ _ op' _ _ _ _ => op == op'
   | .red _ _ _ _ _ k _, .red _ _ _ _ _ k' _ => k == k'
   | _, _ => false)

/-- An access waits behind one of a lower thread of its slot. -/
def mateWaits (l : List WaitItem) (w : Who) (a : Act) (p : Place) : Bool :=
  l.any (fun x => x.who.troupe == w.troupe && x.who.gen == w.gen && (match x.what with | .access b q => slotMates a p b q | _ => false))

/-- A push of a thread is held at a full queue (R118, R276). -/
def pushHeld (s : State) (w : Who) : Bool := s.cores.any (fun c => c.2.pushes.any (fun p => p.source == some (w.troupe, w.gen, w.thread)))

/-- A reduction of a thread is in a partial of its unit (R319), but for those in a line that the access at hand reaches. -/
def partialHeld (s : State) (w : Who) (line : Option Nat) : Bool :=
  (s.tile (unitOf w.troupe)).partials.any (fun p => some (p.pa / 128) != line &&
    p.by_.any (fun c => c.troupe == w.troupe && c.gen == w.gen && c.thread == w.thread))

/-- The line that an access reaches. -/
def Place.line : Place → Option Nat
  | .global pa _ _ => some (pa / 128)
  | _ => none

/-- The register that a load reads has a store of the thread still on its way. -/
def registerBusy (s : State) (w : Who) (p : Place) : Bool :=
  match p with
  | .global pa key _ => regBlock key pa && (s.storeQ.any (fun x => x.troupe == w.troupe && x.thread == w.thread && x.pa / 8 == pa / 8) ||
      s.agenda.any (fun e => match e.2 with | .registerWrite a _ => a / 8 == pa / 8 && decide (e.1 ≤ s.now) | _ => false))
  | _ => false

/-- A held effect of a thread comes before a place in program order (R376). -/
def heldBefore (s : State) (w : Who) : Bool :=
  match s.troupe w.troupe with
  | none => false
  | some t => s.genOf w.troupe == w.gen && t.spec.held.any (fun h => earlier w.seq h.seq && (match h.act with
      | .bytes _ => true
      | .copy _ => false
      | .enq .. => false
      | _ => h.thread == w.thread))

/-- Stores of a thread stand in the store queue. -/
def storeQueued (s : State) (w : Who) : Bool :=
  s.storeQ.any (fun x => x.troupe == w.troupe && x.gen == w.gen && x.thread == w.thread && earlier w.seq x.id)

/-- Accesses of a thread stand at its scratch port: stores that have not been made, loads whose value is not fixed. -/
def portStores (s : State) (w : Who) : Bool :=
  (s.core (coreOf w.troupe)).port.any (fun p => p.writes && p.troupe == w.troupe && p.gen == w.gen && p.thread == w.thread && earlier w.seq p.id)
def portLoads (s : State) (w : Who) : Bool :=
  (s.core (coreOf w.troupe)).port.any (fun p => p.loads && p.troupe == w.troupe && p.gen == w.gen && p.thread == w.thread && earlier w.seq p.id)

/-- Some earlier access of a thread has still to perform; `l` are the waiting items before it. -/
def pendingAny (s : State) (l : List WaitItem) (w : Who) : Bool :=
  l.any (fun x => x.of w) || pushHeld s w || partialHeld s w none || storeQueued s w || portStores s w || portLoads s w || heldBefore s w ||
  !(matWrites s w.troupe w.seq).isEmpty || !(matReads s w.troupe w.seq).isEmpty

/-- A store of a thread must wait. What goes to memory or through a window follows the thread's stores at its scratch port. -/
def storeBlocked (s : State) (l : List WaitItem) (w : Who) (p : Place) (n : Nat) : Bool :=
  l.any (fun x => x.of w && x.beforeStore p n) || pushHeld s w || partialHeld s w p.line || !(matWrites s w.troupe w.seq).isEmpty ||
  rangesMeet (unitOf w.troupe) (matReads s w.troupe w.seq) p n || (match p with | .scratch .. => false | _ => portStores s w)

/-- A load of a thread must wait: the reads of earlier MAT operations come before it, and a load of memory follows the loads at the
thread's scratch port (R279, R280). -/
def loadBlocked (s : State) (l : List WaitItem) (w : Who) (p : Place) (n : Nat) : Bool :=
  l.any (fun x => x.of w && x.beforeLoad p n) || rangesMeet (unitOf w.troupe) (matWrites s w.troupe w.seq) p n || registerBusy s w p ||
  !(matReads s w.troupe w.seq).isEmpty || (match p with | .scratch .. => false | _ => portLoads s w)

/-- An acquire of a thread must wait for its earlier loads. -/
def acquireBlocked (s : State) (l : List WaitItem) (w : Who) : Bool :=
  l.any (fun x => x.of w && (match x.what with
    | .access (.load ..) _ => true
    | .access (.atom ..) _ => true
    | .access .. => false
    | _ => true)) || !(matReads s w.troupe w.seq).isEmpty || portLoads s w

/-- A release of a thread must wait: for every earlier access of the thread, and, at a wide scope, for the stores of its unit, which
the thread may have read (R285). -/
def releaseBlocked (s : State) (l : List WaitItem) (w : Who) (wide : Bool) : Bool :=
  pendingAny s l w || (wide && s.storeQ.any (fun x => x.unit == unitOf w.troupe && earlier w.seq x.id))

/-- An access of a thread at a place must wait. -/
def accessBlocked (s : State) (l : List WaitItem) (w : Who) (a : Act) (p : Place) : Bool :=
  (match a.rel with | some wide => releaseBlocked s l w wide | none => false) ||
  (match a with
   | .load _ size .. => loadBlocked s l w p (2 ^ size)
   | .atom .. => loadBlocked s l w p 4 || storeBlocked s l w p 4 || mateWaits l w a p
   | .store _ size .. => storeBlocked s l w p (2 ^ size)
   | .red .. => storeBlocked s l w p 4 || mateWaits l w a p
   | _ => storeBlocked s l w p 4)

/-- A waiting item may perform. -/
def itemReady (s : State) (l : List WaitItem) (x : WaitItem) : Bool :=
  match x.what with
  | .mark => !pendingAny s l x.who
  | .acquire _ => !acquireBlocked s l x.who
  | .access (.bytes _) _ => (threadsOf x.ths).all (fun i => !pendingAny s l { x.who with thread := i })
  | .access a p => !accessBlocked s l x.who a p

/-- The first item that may perform; `l` are those before. -/
def readyFrom (s : State) : List WaitItem → List WaitItem → Option WaitItem
  | _, [] => none
  | l, x :: rest => if itemReady s l x then some x else readyFrom s (l ++ [x]) rest

/-- The first waiting item that may perform. -/
def readyItem (s : State) : Option WaitItem := readyFrom s [] s.waitQ

/-- Puts an item in its place in program order. -/
def insertItem (x : WaitItem) : List WaitItem → List WaitItem
  | [] => [x]
  | y :: ys => if x.id < y.id then x :: y :: ys else y :: insertItem x ys

/-- Something joins the queues of some threads, at its place in program order. -/
def enqueue (s : State) (w : Who) (ths : BitVec 16) (what : Waiting) : State :=
  let id := w.seq.getD s.ids
  { s with ids := s.ids + 1, waitQ := insertItem { id := id, who := { w with seq := some id }, ths := ths, what := what } s.waitQ }

/-- An access of one thread joins its queues. -/
def enqueueAct (s : State) (w : Who) (a : Act) (p : Place) : State := enqueue s w (BitVec.ofNat 16 (2 ^ w.thread)) (.access a p)

/-- The waiting items before an access of a thread. -/
def waitingBefore (s : State) (w : Who) : List WaitItem := s.waitQ.filter (fun x => earlier w.seq x.id)

/-- A fence stands in the queues of every thread that a test selects (R290). -/
def fenceThreads (s : State) (tk : Nat) (t : Troupe) (what : Waiting) (pend : State → Who → Bool) : State :=
  ((upTo 16).filter (fun i => pend s (whoOf s tk t i))).foldl
    (fun s i => enqueue s (whoOf s tk t i) (BitVec.ofNat 16 (2 ^ i)) what) s

/-- An acquire of every thread of a troupe (R286, R290): a wide one drops the unit's L1, and where a thread's earlier loads have
still to perform, later accesses of that thread follow them. -/
def acquireAll (s : State) (tk : Nat) (t : Troupe) (wide : Bool) : State :=
  acquireAt (fenceThreads s tk t (.acquire wide) (fun s w => acquireBlocked s s.waitQ w)) tk wide

/-- Earlier accesses of some threads hold a bundle back (R194, R275, R280, R291 to R293). -/
def orderPending (s : State) (tk : Nat) (t : Troupe) (ths : BitVec 16) (k : OrderKind) : Bool :=
  let any (p : Who → Bool) : Bool := (threadsOf ths).any (fun i => p (whoOf s tk t i))
  let waits : Bool := any (fun w => s.waitQ.any (fun x => x.of w))
  let drains : Bool := !(matWrites s tk none).isEmpty
  let port : Bool := portPending s tk ths
  let reads : Bool := drains || !(matReads s tk none).isEmpty || portReads s tk ths || any (fun w => s.waitQ.any (fun x => x.of w && x.beforeLoad .window 1))
  let stores : Bool := port || waits || drains || any (fun w => pushHeld s w || partialHeld s w none)
  match k with
  | .reads => reads
  | .loads => port || reads
  | .scratch => port || waits
  | .posted => port || waits || any (fun w => pushHeld s w || partialHeld s w none)
  | .stores => stores
  | .all => stores || portReads s tk ths || !(matReads s tk none).isEmpty

/-- Some thread's next store is a release (R285). -/
def releasing (t : Troupe) (ths : BitVec 16) : Bool := (threadsOf ths).any (fun i => (t.thread i).release.isSome)

/-- The stores of a slot that are the next of their threads have been made. -/
def clearReleases (ths : BitVec 16) (t : Troupe) : Troupe :=
  (threadsOf ths).foldl (fun t i => if (t.thread i).release.isSome then t.setThread i { t.thread i with release := none } else t) t

/-- A slot whose stores perform in the slot itself, in all the given threads: where one of them is a release, it holds until every
earlier access has performed, and the stores of the unit go home first (R285). -/
def afterFence (s : State) (f : Focus) (t : Troupe) (ths : BitVec 16) (k : State → State) : State :=
  if !releasing t ths then k s
  else if orderPending s f.troupe t ths .all then holdFor s f (.order ths .all)
  else k ((release s f.troupe).modTroupe f.troupe (clearReleases ths))

/-! ## One access of one thread -/

/-- Reads n bytes of global memory for a thread (R278, R280): the unit's L1 copy, or the home, which fills the L1 unless
`nc`. The first part is none when the data is uncorrectable, with its detail. A load that returns a done record observes the
completion, wherever it has found it (R292). -/
def globalRead (s : State) (w : Who) (pa key n : Nat) (pmode nc : Bool) : Except Nat Nat × State :=
  let unit := unitOf w.troupe
  if regBlock key pa then
    (.ok (if privileged w.ctx then (blockRead s (pa / 8 * 8)).toNat / 256 ^ (pa % 8) % 256 ^ n else 0), s)
  else
    let s := performOwn (flushLine s unit (pa / 128)) w.troupe w.thread pa n
    match l1Find s unit (pa / 128) key with
    | some x =>
      let s := s.modUnit unit (fun u => { u with l1 := touchLine u.l1 (pa / 128) key })
      if x.badAt pa n then (.error 0, s) else
      (.ok (x.bytesAt pa n), if s.doneAt.any (fun d => overlap d 16 pa n) && physNat s key pa n == x.bytesAt pa n then dropL1 s unit else s)
    | none =>
      let s := performLine s unit (pa / 128)
      match memFault s pa n with
      | some d => (.error d, s)
      | none =>
        let v := physNat s key pa n
        let s := homeRead s unit (coreOf w.troupe) pa key pmode nc
        let s := if nc then s else l1Fill s unit (coreOf w.troupe) (pa / 128) key
        (.ok v, if s.doneAt.any (fun d => overlap d 16 pa n) then dropL1 s unit else s)

/-- The mode of a store issued now (R297). -/
def State.mca (s : State) (ctx : Nat) : Bool := (s.ctx ctx).ctxcfg.getLsbD 0

/-- Issues a global store (R277, R295): under MCA = 0 the unit's L1 copy takes it at once, after the queued stores to its line that
update the copy when their home has them (R278, R297); its home takes it when it performs. -/
def globalStore (s : State) (w : Who) (pa key n v : Nat) (ea : Dword) (nc mca : Bool) : State :=
  let unit := unitOf w.troupe
  let s := flushLine s unit (pa / 128)
  let s := if mca || regBlock key pa then s else
    l1Update (performUntil s (fun x => x.mca && x.unit == unit && (x.pa / 128 == pa / 128 || (x.pa + x.size - 1) / 128 == pa / 128))) unit pa key n v
  let r := s.drawTime 1
  let x : StoreItem :=
    { id := s.ids, troupe := w.troupe, gen := w.gen, thread := w.thread, unit := unit, ctx := w.ctx, ea := ea, pa := pa,
      key := key, size := n, data := v, nc := nc, mca := mca, due := r.1 }
  { r.2 with ids := s.ids + 1, storeQ := r.2.storeQ ++ [x] }

/-- An atomic on a word (R288, R316): at the home when its scope is wide or no L1 way is free, after the queued stores, and not at a
replica; otherwise on the unit's L1 copy, whose result travels on as a store; under MCA = 1 the copy takes the result when the home
has it, so the result performs at once (R296, R318). Answers the old value, or the detail of an uncorrectable word. -/
def atomWord (s : State) (w : Who) (pa key : Nat) (ea : Dword) (pmode wide mca : Bool) (f : Word → Word) : Except Nat Word × State :=
  let unit := unitOf w.troupe
  let s := flushLine s unit (pa / 128)
  if wide && !regBlock key pa then
    let s := drainStores s
    match memFault s pa 4 with
    | some d => (.error d, s)
    | none =>
      let old := BitVec.ofNat 32 (physNat s key pa 4)
      let s := physWrite s key pa 4 (f old).toNat
      let s := l1Update s unit pa key 4 (f old).toNat
      let s := homeWrite (homeRead s unit (coreOf w.troupe) pa key false true) (coreOf w.troupe) pa key false
      (.ok old, reportTail s pa 4)
  else
    let r := globalRead s w pa key 4 pmode false
    match r.1 with
    | .error d => (.error d, r.2)
    | .ok v =>
      let old := BitVec.ofNat 32 v
      let s := globalStore r.2 w pa key 4 (f old).toNat ea false mca
      (.ok old, if mca then performOwn s w.troupe w.thread pa 4 else s)

/-- A wide reduction follows the queued stores of its thread, or, as a release, those of its unit, and joins the reduction buffer of
its unit (R280, R285, R319); a narrow one performs on the L1 copy (R288). -/
def reduceWord (s : State) (w : Who) (pa key : Nat) (ea : Dword) (pmode wide mca : Bool) (rel : Option Bool) (fn : Nat) (b : Word) : State :=
  let unit := unitOf w.troupe
  if wide && !regBlock key pa then
    let s := if rel == some true then drainStores s else performThread s w.troupe w.thread
    let s := flushPartials faddW bfaddW s unit (fun p => p.pa / 128 == pa / 128 && !(p.pa == pa && p.fn == fn && p.key == key))
    let ps := (s.tile unit).partials
    let c : Contrib := { troupe := w.troupe, gen := w.gen, thread := w.thread, ens := w.ens, ea := ea }
    if ps.any (fun p => p.pa == pa && p.fn == fn && p.key == key) then
      s.modUnit unit (fun u => { u with partials := ps.map (fun p =>
        if p.pa == pa && p.fn == fn && p.key == key then
          { p with v := redApply fn p.v b faddW bfaddW, by_ := p.by_ ++ [c] }
        else p) })
    else
      let p : Partial :=
        { pa := pa, key := key, fn := fn, v := b, by_ := [c], first := s.now }
      (s.modUnit unit (fun u => { u with partials := ps ++ [p] })).schedule (s.now + 64) (.partialFlush unit)
  else
    let r := atomWord s w pa key ea pmode false mca (fun old => redApply fn old b faddW bfaddW)
    match r.1 with
    | .ok _ => r.2
    | .error d => failStore r.2 w.troupe w.gen w.thread cDataUnc d ea

/-- PARTIAL_FLUSH (R319): 64 cycles after its first contribution a partial goes to its home. -/
def execPartialFlush (unit : Nat) (s : State) : Res :=
  .next (flushPartials faddW bfaddW s unit (fun p => decide (p.first + 64 ≤ s.now)))

/-! ## Fault records (R245, R246) -/

/-- The bytes of a number, little-endian. -/
def numBytes (n v : Nat) : List Byte := (upTo n).map (fun i => BitVec.ofNat 8 (v / 256 ^ i))

/-- The 32 bytes of a fault record (R245). -/
def faultRecord (s : State) (tk ctx : Nat) (ea : Dword) (kind level count : Nat) : FaultRec :=
  numBytes 8 ea.toNat ++ numBytes 2 (ctx % 4096) ++ numBytes 1 kind ++ numBytes 1 level ++ numBytes 2 (unitOf tk) ++
  numBytes 1 (cixOf tk) ++ numBytes 1 (slotOf tk) ++ numBytes 1 (min count 255) ++ numBytes 7 0 ++ numBytes 8 s.now

/-- Writes held records while the ring has room (R246). -/
def flushRecords (ctx : Nat) : Nat → State → State
  | 0, s => s
  | n + 1, s =>
    let c := s.ctx ctx
    let base := (c.pfring.extractLsb' 12 44).toNat * 4096
    let cap := 2 ^ ((c.pfring.extractLsb' 0 4).toNat + 7)
    match c.pfheld with
    | [] => s
    | r :: rest =>
      if base = 0 || cap ≤ (c.pftail - c.pfhead).toNat then s
      else
        let s := physWriteList s 0 (base + 32 * (c.pftail.toNat % cap)) r
        flushRecords ctx n (s.modCtx ctx (fun c => { c with pftail := c.pftail + 1, pfheld := rest }))

/-- Posts a fault record: it is held when the ring has no room (R246). -/
def postRecord (s : State) (ctx : Nat) (r : FaultRec) : State :=
  let s := s.modCtx ctx (fun c => { c with pfheld := c.pfheld ++ [r] })
  flushRecords ctx (s.ctx ctx).pfheld.length s

/-- The address of a replay entry and its record kind (R245). -/
def actEa : Act → Dword
  | .load ea .. => ea
  | .store ea .. => ea
  | .atom ea .. => ea
  | .red ea .. => ea
  | .copy c => c.ga
  | .fork _ ea => ea
  | .take _ _ ea => ea
  | .steal _ _ _ ea => ea
  | .bytes _ => 0
  | .enq .. => 0
def actKind : Act → Nat
  | .load .. => 0
  | .store .. => 1
  | .atom .. => 2
  | .red .. => 2
  | .copy c => if c.toScratch then 3 else 4
  | _ => 5

/-- Another troupe of the unit is parked on the page of an address (R245). -/
def pageParked (s : State) (tk ctx : Nat) (ea : Dword) : Bool :=
  s.troupes.any (fun p => p.1 != tk && unitOf p.1 == unitOf tk && p.2.ctx == ctx && p.2.parkedAt.isSome &&
    (match p.2.replay with | r :: _ => (actEa r.act).toNat / 4096 == ea.toNat / 4096 | [] => false))

/-- Parks at the slot of the focus and posts the first absent access's record unless its page already has one (R242, R245). -/
def parkWithRecord (s : State) (f : Focus) (t : Troupe) (entries : List (Replay × Nat)) (faults : List (Nat × Cause)) : State :=
  match entries with
  | [] => settleSlot s f faults
  | (r, level) :: _ =>
    let ea := actEa r.act
    let s := if pageParked s f.troupe t.ctx ea then s
             else postRecord s t.ctx (faultRecord s f.troupe t.ctx ea (actKind r.act) level 1)
    parkSlot s f (entries.map (fun p => { p.1 with level := p.2 })) faults

/-! ## Speculative effects (R375, R376) -/

/-- A troupe is speculative while it consumes a sketch that has not committed (R374). -/
def Troupe.speculative (t : Troupe) : Bool := !t.spec.sketches.isEmpty

/-- A scratch range lies wholly inside one of the troupe's spec regions. -/
def inSpecRegion (t : Troupe) (off n : Nat) : Bool := t.spec.regions.any (fun r => decide (r.1 ≤ off) && decide (off + n ≤ r.2))

/-- The speculative buffer has room for n more entries (R376). -/
def specRoom (t : Troupe) (n : Nat) : Bool := decide (t.spec.held.length + n ≤ 32)

/-- Holds effects until commit, each at its place in program order (R376). -/
def holdEffects (s : State) (tk : Nat) (l : List (Nat × Act)) : State :=
  ({ s with ids := s.ids + l.length }).modTroupe tk (fun t =>
    { t with spec := { t.spec with held := t.spec.held ++ l.zipIdx.map (fun (p : (Nat × Act) × Nat) => ({ thread := p.1.1, act := p.1.2, seq := s.ids + p.2 } : Held)) } })

/-- A speculative troupe stalls at the slot until commit (R375). -/
def stallCommit (s : State) (f : Focus) : State :=
  { (s.modTroupe f.troupe (fun t => { splitAt f f.k f.pass f.run f.op t with wait := some .commit })) with focus := none }

/-! ## Threads of a memory slot -/

/-- What a memory slot has done so far: the state, threads that met a cause, absent accesses with their levels. -/
structure MemRun where
  s : State
  faults : List (Nat × Cause)
  absent : List (Replay × Nat)
  fills : List Fill
deriving DecidableEq, Repr

/-- The threads in which a slot runs: the leader alone when the slot is uniform (R35, R102). -/
def slotThreads (f : Focus) (uniform : Bool) : List Nat := if uniform then [leaderOf f.run] else threadsOf f.run

/-- A fault of a uniform slot strikes every thread that runs it (R102). -/
def spreadFaults (f : Focus) (uniform : Bool) (l : List (Nat × Cause)) : List (Nat × Cause) :=
  if uniform then (match l with | (_, c) :: _ => (threadsOf f.run).map (fun t => (t, c)) | [] => []) else l

/-- Writes a thread of the focus's troupe. -/
def putThread (s : State) (f : Focus) (i : Nat) (th : Thread) : State := s.modTroupe f.troupe (fun t => t.setThread i th)

/-- The live thread of the focus's troupe. -/
def liveThread (s : State) (f : Focus) (i : Nat) : Thread := ((s.troupe f.troupe).map (fun t => t.thread i)).getD Thread.init

end Sys2Proof.Machine
end

