-- ==== Sys2Proof/Machine/LoadStore.lean ====
section
/-! DEFINITION. The LD and ST classes (10_spaces R221, R224 to R231) and the windows (05_queues R116 to R119; 10_spaces R230,
R231). -/

namespace Sys2Proof.Machine

/-! ## Where an access lands -/

/-- The outcome of steps 2 and 3 of R228 for one access. -/
inductive Reach where
  | scratch (unit off : Nat)
  | global (pa key : Nat) (pmode : Bool)
  | window
  | absent (level : Nat)
  | trap (c : Cause)
deriving DecidableEq, Repr

/-- The effective address (R225). -/
def memEa (f : Focus) (gb : BitVec 3) (x : Dword) (off : BitVec 4) (size : Nat) : Dword :=
  f.latch.gread (8 + gb.toNat) + x + off.signExtend 64 * BitVec.ofNat 64 (2 ^ size)

/-- Steps 2 and 3 of R228 for the spaces that the function codes 0 to 3 name; windows are reached apart. -/
def reach (s : State) (tk : Nat) (t : Troupe) (fn n : Nat) (ea : Dword) (need : Need) : Reach × State :=
  if ea.toNat % n ≠ 0 then (.trap { cause := cAlign, detail := 0, value := ea }, s)
  else if fn = 0 then
    let a := scratchOf s tk t
    if a.2.2 < ea.toNat + n then (.trap { cause := cScratchBounds, detail := 0, value := ea }, s)
    else (.scratch a.1 (a.2.1 + ea.toNat), s)
  else if fn = 4 then (.window, s)
  else
    let r := translateEa s (coreOf tk) t.ctx ea need
    match r.1 with
    | .ok pa key pm => (.global pa key pm, r.2)
    | .perm d => (.trap { cause := cPagePerm, detail := d, value := ea }, r.2)
    | .unc d => (.trap { cause := cDataUnc, detail := d, value := ea }, r.2)
    | .absent l => (.absent l, r.2)

/-- The words that a load pushes (R226). -/
def loadWords (size v : Nat) : List Word :=
  if size = 3 then [BitVec.ofNat 32 v, BitVec.ofNat 32 (v / 2 ^ 32)] else [BitVec.ofNat 32 v]

/-- The fills of a load's positions with its words, or with the mark of R229. -/
def loadFills (i q : Nat) (ids : List Nat) (ws : List Word) : List Fill :=
  List.zipWith (fun id w => { thread := i, queue := q, id := id, val := .word w }) ids ws
def markFills (i q : Nat) (ids : List Nat) (cause detail : Nat) (ea : Dword) : List Fill :=
  ids.map (fun id => { thread := i, queue := q, id := id, val := .error (cause + 256 * detail) ea })

/-- Writes bytes of scratch for a thread at once, after its earlier stores; an uncorrectable word is left as it is and the fault
goes to the troupe (R229). -/
def scratchStore (s : State) (w : Who) (unit off n v : Nat) (ea : Dword) : State :=
  let s := performThread s w.troupe w.thread
  if scrBad s unit off n then failStore s w.troupe w.gen w.thread cDataUnc 0 ea else scrWrite s unit off n v

/-! ## Windows (R116 to R119, R230, R231) -/

/-- The row bit of a unit (R385): row r of lattice d is 12·d + r, the guide die 24. -/
def rowOfUnit (u : Nat) : Nat := if isGuide u then 24 else u / 12

/-- The running partition to which a unit belongs. -/
def partOf (s : State) (u : Nat) : Option (Nat × Part) := s.parts.find? (fun p => p.2.running && Nat.testBit p.2.rows (rowOfUnit u))

/-- The partition of a unit runs a context: only then do its queues and scratch serve it (R21). -/
def unitServes (s : State) (u ctx : Nat) : Bool := match partOf s u with | some p => p.2.ctx == ctx | none => false

/-- A queue-window address names a queue of another device of the domain, whose devices are numbered 0 to 143 (R116, R117, R216). -/
def windowFar (s : State) (a : Nat) : Bool :=
  let d := a / 2 ^ 28 % 256
  s.mgmt.member && decide (a < 2 ^ 36) && decide (a / 2 ^ 18 % 512 < 300) && decide (d < 144) && d != s.mgmt.deviceNo.toNat && !s.cutOff d

/-- The troupe, thread and queue that a queue-window address names (R116). -/
def windowTarget (a : Nat) : Nat × Nat × Nat :=
  (64 * (4 * (a / 2 ^ 18 % 512) + a / 2 ^ 16 % 4) + a / 2 ^ 11 % 32, a / 2 ^ 7 % 16, a / 4 % 32)

/-- The queue of this device that a queue-window address names; none when it is refused (R116, R117). -/
def windowQueue (s : State) (ctx a : Nat) : Option (Nat × Nat × Nat) :=
  let u := a / 2 ^ 18 % 512
  let q := windowTarget a
  if 2 ^ 36 ≤ a || 300 ≤ u || a / 2 ^ 28 % 256 ≠ s.mgmt.deviceNo.toNat || !unitServes s u ctx then none
  else match s.troupe q.1 with
    | none => none
    | some t => if t.ctx = ctx && t.wopen.getLsbD q.2.2 then some q else none

/-- A queue window accepts an access; a queue of another device answers as it will (R117, log 54). -/
def windowOpen (s : State) (ctx a : Nat) : Bool := if windowFar s a then (Config.farQueue s.draws).1 else (windowQueue s ctx a).isSome

/-- A push enters its queue: behind every reserved position, filled (R118). -/
def enterPush (ws : List Word) (q : Nat) (th : Thread) : Thread :=
  th.setQueue q (th.queue q ++ ws.map (fun w => { pos := .filled w false, fresh := false }))

/-- A push reaches its target: refused, discarded for its generation, or accepted. An accepted one waits at the target's core for
the end of the cycle, behind every reservation of that cycle and every earlier push (R117, R118). -/
def windowPush (s : State) (p : PushReq) : Bool × State :=
  if windowFar s p.addr then ((Config.farQueue s.draws).1, { s with draws := s.draws + 1 })
  else match windowQueue s p.ctx p.addr with
    | none => (false, s)
    | some (tk, _, _) =>
      if s.genOf tk % 16 ≠ p.gen % 16 then (true, s)
      else (true, s.modCore (coreOf tk) (fun c => { c with pushes := c.pushes ++ [p] }))

/-- WINDOW_PUSH (R117). -/
def execWindowPush (p : PushReq) (s : State) : Res := .next (windowPush s p).2

/-- The target of an accepted push as it now stands: none once its troupe has gone, when the push is discarded and counts as
performed (R117; log 55). -/
def pushTroupe (s : State) (p : PushReq) : Option Troupe :=
  let tk := (windowTarget p.addr).1
  if s.genOf tk % 16 = p.gen % 16 then (s.troupe tk).filter (fun t => t.ctx == p.ctx) else none

/-- The oldest accepted push of a core can leave the window path: its queue has room, or its troupe has gone (R118). -/
def pushReady (s : State) (core : Nat) : Bool :=
  match (s.core core).pushes with
  | [] => false
  | p :: _ =>
    let q := windowTarget p.addr
    match pushTroupe s p with
    | none => true
    | some t => decide (((t.thread q.2.1).queue q.2.2).length + p.words.length ≤ 4)

/-- HELD_PUSH_ENTRY (R118): the oldest accepted push of a core enters its queue when there is room for it. -/
def execHeldPushEntry (core : Nat) (s : State) : Res :=
  match (s.core core).pushes with
  | [] => .next s
  | p :: rest =>
    if pushReady s core then
      let q := windowTarget p.addr
      let s := s.modCore core (fun c => { c with pushes := rest })
      match pushTroupe s p with
      | none => .next s
      | some _ => .next (s.modTroupe q.1 (fun t => t.setThread q.2.1 (enterPush p.words q.2.2 (t.thread q.2.1))))
    else .next s

/-- The counts that a window load returns, in the format of `qcnt` (R109, R119): positions that an open bundle has pushed are
counted as they stand. -/
def windowCounts (s : State) (ctx a : Nat) : Option Word :=
  if windowFar s a then (let r := Config.farQueue s.draws; if r.1 then some r.2 else none)
  else match windowQueue s ctx a with
    | none => none
    | some (tk, i, q) => match s.troupe tk with
      | none => none
      | some t => some (qcntWord s.now ((t.thread i).settle.queue q))

/-- The unit and physical offset that a scratch-window address names for a context; none when it is refused (R230, R231). -/
def windowScratch (s : State) (ctx a : Nat) : Option (Nat × Nat) :=
  let u := a / 2 ^ 18 % 512
  let off := a / 2 ^ 28 % 32 * 2 ^ 18 + a % 2 ^ 18
  if 2 ^ 33 ≤ a || 300 ≤ u || granulesOf u * 65536 ≤ off || !unitServes s u ctx then none
  else if s.enss.any (fun p => p.2.unit == u && p.2.ctx == ctx && decide (p.2.base ≤ off / 65536) && decide (off / 65536 < p.2.base + p.2.count))
    then some (u, off) else none

/-- A window address names scratch. -/
def isScratchWindow (a : Nat) : Bool := a / 2 ^ 27 % 2 == 1

/-- What a window access meets: the trap of R117, R119 or R231, or nothing. -/
def windowTrap (s : State) (ctx n : Nat) (store : Bool) (ea : Dword) : Option Cause :=
  let a := (ea.extractLsb' 0 40).toNat
  if isScratchWindow a then
    if ea.extractLsb' 40 20 != 0 then some { cause := cWindowAbsent, detail := 0, value := ea }
    else match windowScratch s ctx a with
      | none => some { cause := cWindowAbsent, detail := 0, value := ea }
      | some (u, off) => if !store && scrBad s u off n then some { cause := cDataUnc, detail := 0, value := ea } else none
  else if (if store then n < 4 else n ≠ 4) then some { cause := cAlign, detail := 0, value := ea }
  else if ea.extractLsb' 40 20 != 0 || !windowOpen s ctx a then some { cause := cWindowAbsent, detail := 0, value := ea }
  else none

/-- The value of an accepted window load. -/
def windowValue (s : State) (ctx n : Nat) (ea : Dword) : Nat :=
  let a := (ea.extractLsb' 0 40).toNat
  if isScratchWindow a then (match windowScratch s ctx a with | some (u, off) => scrRead s u off n | none => 0)
  else ((windowCounts s ctx a).getD 0).toNat

/-- Performs an accepted window store of a thread, after its earlier stores (R280). -/
def windowStore (s : State) (w : Who) (n v : Nat) (ea : Dword) : State :=
  let a := (ea.extractLsb' 0 40).toNat
  let s := performThread s w.troupe w.thread
  if isScratchWindow a then
    match windowScratch s w.ctx a with
    | some (u, off) => if scrBad s u off n then failStore s w.troupe w.gen w.thread cDataUnc 0 ea else scrWrite s u off n v
    | none => s
  else (windowPush s { ctx := w.ctx, addr := a, gen := (ea.extractLsb' 60 4).toNat,
                       words := if n = 8 then [BitVec.ofNat 32 v, BitVec.ofNat 32 (v / 2 ^ 32)] else [BitVec.ofNat 32 v],
                       source := some (w.troupe, w.gen, w.thread), ens := some w.ens }).2

/-- Fills the requester's position with the answer to a window load, or, when it is refused, with a mark. -/
def answerWindow (s : State) (w : WinReq) (v : Option Nat) : State :=
  s.modTroupe w.troupe (fun t => t.setThread w.thread ((t.thread w.thread).fill w.queue w.id (match v with
    | some v => .filled (BitVec.ofNat 32 v) false
    | none => .mark cWindowAbsent (BitVec.ofNat 64 w.addr))))

/-- WINDOW_LOAD (R119). -/
def execWindowLoad (w : WinReq) (s : State) : Res :=
  .next (answerWindow { s with draws := s.draws + 1 } w ((windowCounts s w.ctx w.addr).map (fun v => v.toNat)))

/-- SCRATCH_WINDOW_ACCESS (R231): an access reaches the scratch that its address names, or is refused. -/
def execScratchWindowAccess (w : WinReq) (s : State) : Res :=
  match windowScratch s w.ctx w.addr with
  | none => .next (if w.store then s else answerWindow s w none)
  | some (u, off) =>
    if w.store then .next (if scrBad s u off w.size then s else scrWrite s u off w.size w.data.toNat)
    else .next (answerWindow s w (some (scrRead s u off w.size)))

/-! ## Speculative checks (R375) -/

/-- Where an access of a troupe lies: (0, scratch key), which a scratch window reaches too, (1, effective address), or (2, window
address). -/
def placeKey (s : State) (tk : Nat) (t : Troupe) (fn : Nat) (ea : Dword) : Nat × Nat :=
  let a := (ea.extractLsb' 0 40).toNat
  if fn = 0 then (let r := scratchOf s tk t; (0, scrKey r.1 (r.2.1 + ea.toNat)))
  else if fn = 4 then
    (if isScratchWindow a then (match windowScratch s t.ctx a with | some r => (0, scrKey r.1 r.2) | none => (2, a)) else (2, a))
  else (1, ea.toNat)

/-- An access of a thread overlaps a held store of the same thread; bytes of vector and plane writes belong to every thread. -/
def meetsHeld (s : State) (tk : Nat) (t : Troupe) (i fn n : Nat) (ea : Dword) : Bool :=
  let p := placeKey s tk t fn ea
  let meets (q : Nat × Nat) (m : Nat) : Bool := p.1 == q.1 && overlap q.2 m p.2 n
  t.spec.held.any (fun h => match h.act with
    | .store e z k .. => h.thread == i && meets (placeKey s tk t k e) (2 ^ z)
    | .red e .. => h.thread == i && meets (1, e.toNat) 4
    | .bytes ws => ws.any (fun w => meets (placeKey s tk t 0 (BitVec.ofNat 64 w.1)) w.2.length)
    | _ => false)

/-- The effective addresses of a slot in the threads that can form one. -/
def slotEas (f : Focus) (t : Troupe) (ths : List Nat) (a : BitVec 6) (k : Bool) (gb : BitVec 3) (off : BitVec 4) (size : Nat) : List (Nat × Dword) :=
  ths.filterMap (fun i => match readSrc f (f.issue + i) i (t.thread i) a k with
    | .ok (o, _) => some (i, memEa f gb (o.addr (a == 61)) off size)
    | .error _ => none)

/-! ## Loads -/

/-- A thread of a memory slot has met a cause. -/
def MemRun.fail (m : MemRun) (i : Nat) (c : Cause) : MemRun := { m with faults := m.faults ++ [(i, c)] }

/-- Reserves n positions of queue q of a thread for a result on its way. -/
def reservePos (cyc id n q : Nat) (th : Thread) : Except Cause Thread :=
  th.pushAll cyc q ((upTo n).map (fun j => .reserved (id + j)))

/-- The result of a load of a troupe that has performed is on its way: it fills its positions at a cycle and its part of the
operation ends. -/
def sendLoad (s : State) (tk gen op time : Nat) (fills : List Fill) (replayed : Bool) : State :=
  s.schedule time (.resultArrival { troupe := tk, gen := gen, op := op, fills := fills, gdst := none, fp := 0, last := true, replayed := replayed })

/-- A load of scratch is presented to its core's port in cycle `cyc` (R221). -/
def scratchLoad (s : State) (w : Who) (lane cyc : Nat) (ea : Dword) (size q op : Nat) (ids : List Nat) (off : Nat) : State :=
  portPut s (coreOf w.troupe)
    { id := ids.headD 0, present := cyc, lane := lane, take := 0, word := off / 8, due := 0, troupe := w.troupe, gen := w.gen,
      thread := w.thread, ens := w.ens, act := .load off size q op ids ea }

/-- A core's port has taken a load: its value is that of its bytes when the access completes, and its positions fill then (R221). -/
def takeLoad (s : State) (core : Nat) (p : PortItem) : State :=
  match p.act with
  | .load off size q op ids ea =>
    let fills := if scrBad s (core / 4) off (2 ^ size) then markFills p.thread q ids cDataUnc 0 ea
                 else loadFills p.thread q ids (loadWords size (portBytes s core p off (2 ^ size)))
    let s := portDone s core p.id
    let s := if s.genOf p.troupe = p.gen then s.modTroupe p.troupe (fun t =>
        if t.drains then t
        else t.setThread p.thread (fills.foldl (fun th x => th.fill q x.id (.coming x.id p.due x.val)) (t.thread p.thread))) else s
    sendLoad s p.troupe p.gen op p.due fills false
  | _ => s

/-- A load of a thread performs where it lands; its part of the operation is counted already. -/
def performLoad (s : State) (w : Who) (p : Place) (lane cyc : Nat) (ea : Dword) (size fn q op : Nat) (ids : List Nat) (replayed : Bool) : State :=
  match p with
  | .scratch _ off => scratchLoad s w lane cyc ea size q op ids off
  | .global pa key pm =>
    let g := globalRead s w pa key (2 ^ size) pm (fn == 3)
    let fills := match g.1 with
      | .ok v => loadFills w.thread q ids (loadWords size v)
      | .error d => markFills w.thread q ids cDataUnc d ea
    let d := g.2.drawTime 1
    sendLoad d.2 w.troupe w.gen op d.1 fills replayed
  | .window => sendLoad s w.troupe w.gen op s.now [] replayed

/-- A load of a thread issues: it performs, or it waits for earlier accesses of its thread (R280, R281), an acquire with what
follows it (R286). -/
def issueLoad (s : State) (w : Who) (p : Place) (lane cyc : Nat) (ea : Dword) (size fn q op : Nat) (ids : List Nat) (wide : Bool) : State :=
  let s := s.modTroupe w.troupe (fun t => t.addParts op 1)
  let act := Act.load ea size fn q op ids wide
  if accessBlocked s (waitingBefore s w) w act p then
    let s := enqueueAct s w act p
    if fn = 2 then enqueue s w (BitVec.ofNat 16 (2 ^ w.thread)) (.acquire wide) else s
  else performLoad s w p lane cyc ea size fn q op ids false

/-- A load of one thread (R225 to R229). Its positions are reserved now and stay its own through a park: a replay fills them and
reserves none anew (R242, R247; log 49). -/
def loadThread (f : Focus) (t : Troupe) (fn op : Nat) (wide : Bool) (x : LdF) (m : MemRun) (i : Nat) : MemRun :=
  let cyc := f.issue + i
  let size := x.size.toNat
  let n := 2 ^ size
  match readSrc f cyc i (liveThread m.s f i) x.a (x.ka == 1) with
  | .error c => m.fail i c
  | .ok (a, th) =>
    let ea := memEa f x.gb (a.addr (x.a == 61)) x.off size
    let r := reach m.s f.troupe t fn n ea .read
    match r.1 with
    | .trap c => { m with s := r.2 }.fail i c
    | w =>
      let cnt := if size = 3 then 2 else 1
      let id := r.2.ids
      let ids := (upTo cnt).map (fun j => id + j)
      match reservePos cyc id cnt x.d.toNat th with
      | .error c => { m with s := r.2 }.fail i c
      | .ok th =>
        let s := putThread { r.2 with ids := id + 2 } f i th
        let who := whoOf s f.troupe t i
        match w with
        | .scratch u off => { m with s := issueLoad s who (.scratch u off) (lixOf f) cyc ea size fn x.d.toNat op ids wide }
        | .global pa key pm => { m with s := issueLoad s who (.global pa key pm) (lixOf f) cyc ea size fn x.d.toNat op ids wide }
        | .absent l =>
          { m with s := s.modTroupe f.troupe (fun t => t.addParts op 1),
                   absent := m.absent ++ [({ thread := i, faults := 1, act := .load ea size fn x.d.toNat op ids wide }, l)] }
        | _ => { m with s := s }

/-- A load from scratch or global memory (R227, R228): it opens its operation, runs in each thread, and parks or traps
where threads met an absent page or a cause. An acquire acts when its loads have performed (R286). -/
def loadSlot (fn : Nat) (x : LdF) (s : State) : Res :=
  atSlot s (fun f t =>
    let flag := selectFlag s f false
    if flagFull s f flag then holdFlag s f flag
    else if t.speculative && (slotEas f t (threadsOf f.run) x.a (x.ka == 1) x.gb x.off x.size.toNat).any
        (fun p => meetsHeld s f.troupe t p.1 fn (2 ^ x.size.toNat) p.2) then stallCommit s f
    else
      let wide := fn == 2 && wideScope s t.ctx (unitOf f.troupe) f.latch.scopesel.toNat
      let r := openOp s f flag
      let m := (threadsOf f.run).foldl (loadThread f t fn r.1 wide x) { s := r.2, faults := [], absent := [], fills := [] }
      let s := acquireAt m.s f.troupe wide
      if m.faults.isEmpty then parkWithRecord (s.modTroupe f.troupe (fun t => t.closePart r.1)) f t m.absent []
      else parkWithRecord s { f with op := some r.1 } t m.absent m.faults)

/-- `ld.s` (R227). -/
def execLdS (x : LdF) (s : State) : Res := loadSlot 0 x s
/-- `ld.g` (R227). -/
def execLdG (x : LdF) (s : State) : Res := loadSlot 1 x s
/-- `ld.g.acq` (R227, R286). -/
def execLdGAcq (x : LdF) (s : State) : Res := loadSlot 2 x s
/-- `ld.g.nc` (R227). -/
def execLdGNc (x : LdF) (s : State) : Res := loadSlot 3 x s

/-! ## Window slots (R231) -/

/-- A thread of a window slot with the access that it sends, or with the cause that it met before. -/
def Sent.ok (i : Nat) (ea data : Dword) : Sent := { thread := i, ea := ea, data := data, fault := none }
def Sent.bad (i : Nat) (c : Cause) : Sent := { thread := i, ea := 0, data := 0, fault := some (c.cause, c.detail, c.value) }

/-- The cause with which a thread of a window slot ends: its own, or its target's refusal. -/
def Sent.cause (s : State) (ctx n : Nat) (store : Bool) (x : Sent) : Option Cause :=
  match x.fault with
  | some (c, d, v) => some { cause := c, detail := d, value := v }
  | none => windowTrap s ctx n store x.ea

/-- The slot holds and has acted, until its answer has come (R69). -/
def holdReply (s : State) (f : Focus) : State :=
  let r := s.drawTime 1
  holdActing r.2 { f with acted := true } (.until r.1)

/-- The causes that the threads of a slot have met. -/
def Sent.causes (l : List Sent) : List (Nat × Cause) :=
  l.filterMap (fun x => x.fault.map (fun c => (x.thread, { cause := c.1, detail := c.2.1, value := c.2.2 })))

/-- The slot has acted and holds until its answers have come; the threads that met a cause trap then, or at once when no thread
awaits an answer (R69). -/
def holdAnswer (s : State) (f : Focus) (faults : List (Nat × Cause)) : State :=
  if !faults.isEmpty && (threadsOf f.run).all (fun i => faults.any (fun c => c.1 == i)) then takeTrap s f faults
  else holdReply s { f with sent := faults.map (fun c => .bad c.1 c.2) }

/-- The answers have come, and the slot commits. -/
def answered (s : State) (f : Focus) : State := settleSlot s f (Sent.causes f.sent)

/-- The threads of a window slot have sent their accesses: the bundle holds until every target has answered (R69, R231). With
nothing sent, the slot traps at once. -/
def sendWindows (s : State) (f : Focus) (l : List Sent) (uniform : Bool) : State :=
  if l.all (fun x => x.fault.isSome) then
    takeTrap s f (spreadFaults f uniform (Sent.causes l))
  else holdReply s { f with sent := l }

/-- The access of one thread of `ld.w`. -/
def loadSent (s : State) (f : Focus) (x : LdF) (i : Nat) : Sent :=
  let size := x.size.toNat
  match readSrc f (f.issue + i) i (liveThread s f i) x.a (x.ka == 1) with
  | .error c => .bad i c
  | .ok (a, _) =>
    let ea := memEa f x.gb (a.addr (x.a == 61)) x.off size
    if ea.toNat % 2 ^ size ≠ 0 then .bad i { cause := cAlign, detail := 0, value := ea } else .ok i ea 0

/-- The threads of `ld.w` reserve their positions when the slot issues (R97), beside the entries that their slot has still to pop. -/
def keepLoads (s : State) (f : Focus) (x : LdF) : State × Focus :=
  keepSpots s f (fun i th => match readSrc f (f.issue + i) i th x.a (x.ka == 1) with | .ok r => r.2 | .error _ => th) x.d.toNat
    (if x.size = 3 then 2 else 1)

/-- The answer of one thread of `ld.w` has come: its sources are popped and its positions fill, or it meets a cause, which releases
them. -/
def loadAnswered (f : Focus) (t : Troupe) (x : LdF) (m : MemRun) (y : Sent) : MemRun :=
  let n := 2 ^ x.size.toNat
  let th := liveThread m.s f y.thread
  let ids := f.spots y.thread (if x.size = 3 then 2 else 1)
  let held : Bool := (th.queue x.d.toNat).any (fun e => ids.any (fun j => e.pos == .reserved j))
  let free : State := putThread m.s f y.thread (th.setQueue x.d.toNat ((th.queue x.d.toNat).filter (fun e => !ids.any (fun j => e.pos == .reserved j))))
  let next (s : State) : State := { s with draws := s.draws + 1 }
  match y.cause m.s t.ctx n false with
  | some c => { m with s := next free }.fail y.thread c
  | none =>
    if !held then { m with s := next m.s }.fail y.thread (openCause cQueueOver 0 f.issue)
    else
      let th := match readSrc f m.s.now y.thread th x.a (x.ka == 1) with | .ok r => r.2 | .error _ => th
      let ws := loadWords x.size.toNat (windowValue m.s t.ctx n y.ea)
      { m with s := next (putThread m.s f y.thread ((ids.zip ws).foldl (fun th p => th.fill x.d.toNat p.1 (.filled p.2 false)) th)) }

/-- `ld.w` (R231): counts on no flag; the bundle holds until every thread's answer has come. -/
def execLdW (x : LdF) (s : State) : Res :=
  atSlot s (fun f t =>
    if f.acted then
      let m := f.sent.foldl (loadAnswered f t x) { s := s, faults := [], absent := [], fills := [] }
      settleSlot m.s f m.faults
    else if f.run = 0 then s
    else if t.speculative && (slotEas f t (threadsOf f.run) x.a (x.ka == 1) x.gb x.off x.size.toNat).any
        (fun p => meetsHeld s f.troupe t p.1 4 (2 ^ x.size.toNat) p.2) then stallCommit s f
    else if orderPending s f.troupe t f.run .loads then holdFor s f (.order f.run .loads)
    else
      let l := (threadsOf f.run).map (loadSent s f x)
      if l.all (fun y => y.fault.isSome) then sendWindows s f l false
      else (let r := keepLoads s f x; sendWindows r.1 r.2 l false))

/-! ## Stores -/

/-- Reads store data: a q register gives one entry, or two as b64, the low word first (R226). -/
def readData (f : Focus) (cyc i : Nat) (th : Thread) (d : BitVec 6) (size : Nat) : Except Cause (Dword × Thread) :=
  if d.toNat < 32 then
    match th.head cyc d.toNat with
    | .error c => .error c
    | .ok lo =>
      let th1 := th.drop d.toNat
      if size = 3 then
        match th1.head cyc d.toNat with
        | .error c => .error c
        | .ok hi => .ok (lo.setWidth 64 ||| (hi.setWidth 64 <<< 32), th1.drop d.toNat)
      else .ok (lo.setWidth 64, th1)
  else .ok ((fixedOperand f i d).hi, th)

/-- A store executes once for the troupe when A and D are drawn from g, `z`, `lit` and `cix` (R228). -/
def storeUniform (x : StF) : Bool := uniformNames [x.a, x.d]

/-- The store of one thread is held while the troupe speculates: it lies outside the troupe's spec regions (R375), or meets a held
store, which is to perform before it (R376). -/
def storeHeld (s : State) (tk : Nat) (t : Troupe) (i fn n : Nat) (ea : Dword) : Bool :=
  t.speculative && (!(fn == 0 && inSpecRegion t ea.toNat n) || meetsHeld s tk t i fn n ea)

/-- A store of a thread performs, or goes its way to perform: to its core's scratch port, to the store queue, to its window
(R221, R276). -/
def performStoreAt (s : State) (w : Who) (p : Place) (lane cyc : Nat) (ea : Dword) (size fn : Nat) (data : Dword) (mca : Bool) : State :=
  match p with
  | .scratch _ off =>
    portPut { s with ids := s.ids + 1 } (coreOf w.troupe)
      { id := w.seq.getD s.ids, present := cyc, lane := lane, take := 0, word := off / 8, due := 0, troupe := w.troupe, gen := w.gen,
        thread := w.thread, ens := w.ens, act := .store off (2 ^ size) data.toNat ea }
  | .global pa key _ => globalStore s w pa key (2 ^ size) data.toNat ea (fn == 3) mca
  | .window => match windowTrap s w.ctx (2 ^ size) true ea with
    | some c => failStore { s with draws := s.draws + 1 } w.troupe w.gen w.thread c.cause c.detail ea
    | none => windowStore s w (2 ^ size) data.toNat ea

/-- A store of a thread issues; it waits for earlier accesses of its thread that have still to perform, a release for all of
them (R280, R281, R285). -/
def issueStore (s : State) (w : Who) (p : Place) (lane cyc : Nat) (ea : Dword) (size fn : Nat) (data : Dword) (mca : Bool) (rel : Option Bool) : State :=
  let act := Act.store ea size fn data mca rel
  if accessBlocked s (waitingBefore s w) w act p then enqueueAct s w act p
  else performStoreAt s w p lane cyc ea size fn data mca

/-- The release that a store of a thread is: an `st.g.rel` at the scope of the slot, or the first store after a fence (R285). -/
def releaseOf (wide : Bool) (fn : Nat) (th : Thread) : Option Bool :=
  if fn = 2 then some (wide || th.release == some true) else th.release

/-- A store of one thread (R225 to R229); that of a uniform slot is made in the bundle's first cycle (R68). -/
def storeThread (f : Focus) (t : Troupe) (fn : Nat) (x : StF) (wide : Bool) (m : MemRun) (i : Nat) : MemRun :=
  let cyc := if storeUniform x then f.issue else f.issue + i
  let size := x.size.toNat
  let n := 2 ^ size
  match readSrc f cyc i (liveThread m.s f i) x.a false with
  | .error c => m.fail i c
  | .ok (a, th) => match readData f cyc i th x.d size with
    | .error c => m.fail i c
    | .ok (v, th) =>
      let ea := memEa f x.gb (a.addr (x.a == 61)) x.off size
      let data : Dword := BitVec.ofNat 64 (v.toNat % 256 ^ n)
      let mca := m.s.mca t.ctx
      let rel := releaseOf wide fn th
      let act := Act.store ea size fn data mca rel
      let r := reach m.s f.troupe t fn n ea .write
      let next (s : State) : State := putThread s f i { th with release := none }
      match r.1 with
      | .trap c => { m with s := r.2 }.fail i c
      | .absent l => { m with s := next r.2, absent := m.absent ++ [({ thread := i, faults := 1, act := act }, l)] }
      | w =>
        match (if fn = 4 then windowTrap r.2 t.ctx n true ea else none) with
        | some c => { m with s := { r.2 with draws := r.2.draws + 1 } }.fail i c
        | none =>
          let who := whoOf r.2 f.troupe t i
          if storeHeld r.2 f.troupe t i fn n ea then { m with s := holdEffects (next r.2) f.troupe [(i, act)] }
          else match w with
            | .scratch u off => { m with s := issueStore (next r.2) who (.scratch u off) (lixOf f) cyc ea size fn data mca rel }
            | .global pa key pm => { m with s := issueStore (next r.2) who (.global pa key pm) (lixOf f) cyc ea size fn data mca rel }
            | _ => { m with s := next r.2 }

/-- The stores of a slot that would be held find the buffer full (R375). -/
def storeStalls (s : State) (f : Focus) (t : Troupe) (fn : Nat) (x : StF) : Bool :=
  t.speculative && !specRoom t ((slotEas f t (slotThreads f (storeUniform x)) x.a false x.gb x.off x.size.toNat).filter
    (fun p => storeHeld s f.troupe t p.1 fn (2 ^ x.size.toNat) p.2)).length

/-- Runs a store in its threads. -/
def storeRun (s : State) (f : Focus) (t : Troupe) (fn : Nat) (x : StF) : MemRun :=
  (slotThreads f (storeUniform x)).foldl (storeThread f t fn x (wideScope s t.ctx (unitOf f.troupe) f.latch.scopesel.toNat)) { s := s, faults := [], absent := [], fills := [] }

/-- A store to scratch or global memory (R227, R228). A release store performs after every earlier access of its thread
(R285). -/
def storeSlot (fn : Nat) (x : StF) (s : State) : Res :=
  atSlot s (fun f t =>
    if f.run = 0 then s
    else if storeStalls s f t fn x then stallCommit s f
    else
      let s := if fn = 2 then flushTroupe s f.troupe else s
      let m := storeRun s f t fn x
      parkWithRecord m.s f t m.absent (spreadFaults f (storeUniform x) m.faults))

/-- `st.s` (R227). -/
def execStS (x : StF) (s : State) : Res := storeSlot 0 x s
/-- `st.g` (R227). -/
def execStG (x : StF) (s : State) : Res := storeSlot 1 x s
/-- `st.g.rel` (R227, R285). -/
def execStGRel (x : StF) (s : State) : Res := storeSlot 2 x s
/-- `st.g.nc` (R227). -/
def execStGNc (x : StF) (s : State) : Res := storeSlot 3 x s

/-- The access of one thread of `st.w`. -/
def storeSent (s : State) (f : Focus) (x : StF) (i : Nat) : Sent :=
  let cyc := f.issue + i
  let size := x.size.toNat
  match readSrc f cyc i (liveThread s f i) x.a false with
  | .error c => .bad i c
  | .ok (a, th) => match readData f cyc i th x.d size with
    | .error c => .bad i c
    | .ok (v, _) =>
      let ea := memEa f x.gb (a.addr (x.a == 61)) x.off size
      if ea.toNat % 2 ^ size ≠ 0 then .bad i { cause := cAlign, detail := 0, value := ea }
      else .ok i ea (BitVec.ofNat 64 (v.toNat % 256 ^ 2 ^ size))

/-- The sources of one thread of `st.w` are popped. -/
def popSent (f : Focus) (x : StF) (s : State) (y : Sent) : State :=
  let th := liveThread s f y.thread
  match readSrc f s.now y.thread th x.a false with
  | .error _ => s
  | .ok (_, th) => match readData f s.now y.thread th x.d x.size.toNat with
    | .error _ => s
    | .ok (_, th) => putThread s f y.thread th

/-- The answers of the targets of `st.w`, each device of the domain giving one for every thread. -/
def storeAnswers (s : State) (ctx n : Nat) (l : List Sent) : List (Sent × Option Cause) :=
  l.zipIdx.map (fun p => (p.1, p.1.cause { s with draws := s.draws + p.2 } ctx n true))

/-- Every target of `st.w` has answered: the sources of the accepted threads are popped, and then their stores perform. -/
def storesAnswered (s : State) (f : Focus) (t : Troupe) (x : StF) : State :=
  let n := 2 ^ x.size.toNat
  let l := storeAnswers s t.ctx n f.sent
  let good := (l.filter (fun y => y.2.isNone)).map (fun y => y.1)
  let s' := (good.foldl (popSent f x) s).modTroupe f.troupe (clearReleases (maskOf (good.map (fun y => y.thread))))
  let s' := good.foldl (fun u y => windowStore u (whoOf s f.troupe t y.thread) n y.data.toNat y.ea) s'
  settleSlot { s' with draws := s.draws + l.length } f
    (spreadFaults f (storeUniform x) (l.filterMap (fun y => y.2.map (fun c => (y.1.thread, c)))))

/-- `st.w` (R231): the bundle holds until every target has answered. -/
def execStW (x : StF) (s : State) : Res :=
  atSlot s (fun f t =>
    if f.acted then storesAnswered s f t x
    else if f.run = 0 then s
    else if storeStalls s f t 4 x then stallCommit s f
    else if t.speculative then (let m := storeRun s f t 4 x; settleSlot m.s f (spreadFaults f (storeUniform x) m.faults))
    else if orderPending s f.troupe t f.run .all then holdFor s f (.order f.run .all)
    else sendWindows (if releasing t f.run then release s f.troupe else s) f ((slotThreads f (storeUniform x)).map (storeSent s f x)) (storeUniform x))

/-- RESULT_ARRIVAL (R97): a result arrives, fills its positions or is discarded for its generation, and its part of the
flag's operation ends. -/
def execResultArrival (a : Arrival) (s : State) : Res := .next (deliver s a)

end Sys2Proof.Machine
end

