-- ==== Sys2Proof/Machine/Atomics.lean ====
section
/-! DEFINITION. The ATOM and RED classes (14_sync R314 to R320; 13_order R288). -/

namespace Sys2Proof.Machine

/-- The scope at which an atomic performs: wide, or on the unit's L1 copy. A narrow one that finds no copy and every way pinned
performs at the home, and `bypasscnt` counts it (R316). -/
def atomScope (s : State) (tk : Nat) (wide : Bool) (pa key : Nat) : Bool × State :=
  let u := unitOf tk
  if wide then (true, s)
  else if (l1Find s u (pa / 128) key).isNone && (victimWay (s.tile u).l1 l1Set 8 (pa / 128)).isNone then
    (true, s.modCore (coreOf tk) (fun c => { c with bypass := c.bypass + 1 }))
  else (false, s)

/-- The sources of an atomic slot in one thread: address operand, b, and d when the function reads it (R314, R315). -/
def atomSources (f : Focus) (cyc i : Nat) (th : Thread) (a b d : BitVec 6) (ka kb cas : Bool) : Except Cause (Operand × Word × Word × Thread) :=
  match readSrc f cyc i th a ka with
  | .error c => .error c
  | .ok (av, th) => match readSrc f cyc i th b kb with
    | .error c => .error c
    | .ok (bv, th) =>
      if cas then
        match readSrc f cyc i th d false with
        | .error c => .error c
        | .ok (dv, th) => .ok (av, bv.lo, dv.lo, th)
      else .ok (av, bv.lo, 0, th)

/-- The address of an atomic: g8 and the operand (R314). -/
def atomEa (f : Focus) (x : BitVec 6) (a : Operand) : Dword := f.latch.gread 8 + a.addr (x == 61)

/-- Where the old value of an atomic goes when it arrives (R314). -/
def atomFills (i id : Nat) (d : BitVec 6) (v : FillVal) : List Fill :=
  if d.toNat < 32 then [{ thread := i, queue := d.toNat, id := id, val := v }] else []
def atomGdst (d : BitVec 6) (v : Word) : Option (Nat × Dword) :=
  if 32 ≤ d.toNat && d.toNat < 48 then some (d.toNat - 32, v.setWidth 64) else none

/-- A slot in which B names a q register has KB as its peek bit and counts on SETX; otherwise KB selects SETY (R315). -/
def atomPeek (x : RegF) : Bool := decide (x.b.toNat < 32) && x.kb == 1
def atomSety (x : RegF) : Bool := !decide (x.b.toNat < 32) && x.kb == 1

/-- The result of an atomic is on its way. -/
def sendAtom (s : State) (w : Who) (op : Nat) (fills : List Fill) (g : Option (Nat × Dword)) (replayed : Bool) : State :=
  let d := s.drawTime 1
  d.2.schedule d.1 (.resultArrival { troupe := w.troupe, gen := w.gen, op := op, fills := fills, gdst := g, fp := 0, last := true, replayed := replayed })

/-- An atomic of a thread performs on a word of global memory; its part of the operation is counted already. -/
def performAtom (s : State) (w : Who) (p : Place) (ea : Dword) (fn : Nat) (b d : Word) (dst op id : Nat) (wide mca replayed : Bool) : State :=
  let x := BitVec.ofNat 6 dst
  match p with
  | .global pa key pm =>
    let sc := atomScope s w.troupe wide pa key
    let g := atomWord sc.2 w pa key ea pm sc.1 mca (fun old => atomApply fn old b d)
    match g.1 with
    | .ok old => sendAtom g.2 w op (atomFills w.thread id x (.word old)) (atomGdst x old) replayed
    | .error e => sendAtom g.2 w op (atomFills w.thread id x (.error (cDataUnc + 256 * e) ea)) none replayed
  | _ => sendAtom s w op [] none replayed

/-- An atomic of a thread issues: it enters both queues of its thread, and waits for what holds back a load or a store (R279,
R316), and for the lower threads of its slot that name its word (R318). -/
def issueAtom (s : State) (w : Who) (p : Place) (ea : Dword) (fn : Nat) (b d : Word) (dst op id : Nat) (wide mca : Bool) (rel : Option Bool) : State :=
  let s := s.modTroupe w.troupe (fun t => t.addParts op 1)
  let act := Act.atom ea fn b d dst op id wide mca rel
  if accessBlocked s (waitingBefore s w) w act p then enqueueAct s w act p
  else performAtom s w p ea fn b d dst op id wide mca false

/-- An atomic of one thread; `gOnly` is the one thread whose result a g register keeps (R106). -/
def atomThread (f : Focus) (t : Troupe) (fn op gOnly : Nat) (wide : Bool) (x : RegF) (m : MemRun) (i : Nat) : MemRun :=
  let cyc := f.issue + i
  match atomSources f cyc i (liveThread m.s f i) x.a x.b x.d (x.ka == 1) (atomPeek x) (fn == 9) with
  | .error c => m.fail i c
  | .ok (a, b, d, th) =>
    let ea := atomEa f x.a a
    let r := reach m.s f.troupe t 1 4 ea .both
    match r.1 with
    | .trap c => { m with s := r.2 }.fail i c
    | w =>
      let id := r.2.ids
      match (if x.d.toNat < 32 then reservePos cyc id 1 x.d.toNat th else .ok th) with
      | .error c => { m with s := r.2 }.fail i c
      | .ok th =>
        let s := putThread { r.2 with ids := id + 1 } f i { th with release := none }
        let dst := if x.d.toNat < 32 || i = gOnly then x.d.toNat else 56
        let mca := s.mca t.ctx
        match w with
        | .global pa key pm => { m with s := issueAtom s (whoOf s f.troupe t i) (.global pa key pm) ea fn b d dst op id wide mca th.release }
        | .absent l =>
          { m with s := s.modTroupe f.troupe (fun t => t.addParts op 1),
                   absent := m.absent ++ [({ thread := i, faults := 1, act := .atom ea fn b d dst op id wide mca th.release }, l)] }
        | _ => { m with s := s }

/-- Runs an atomic in its threads. A g register keeps the result of the highest-indexed thread that the slot commits, or has
committed before (R106). -/
def atomRun (s : State) (f : Focus) (t : Troupe) (fn op : Nat) (wide : Bool) (x : RegF) (ths : List Nat) : MemRun :=
  let go (g : Nat) : MemRun := ths.foldl (atomThread f t fn op g wide x) { s := s, faults := [], absent := [], fills := [] }
  let bad := (go 16).faults
  let last := ((ths.filter (fun i => !bad.any (fun c => c.1 == i))).getLast?).getD 16
  go (if f.above last then 16 else last)

/-- The threads of a uniform atomic: the leader reads and performs, and its result goes to every thread that runs the slot.
D is then a g register or `z`, so one result suffices (R35, R314). -/
def atomUniform (x : RegF) : Bool := uniformNames [x.d, x.a, x.b]

/-- The slot of an ATOM (R314, R315, R318). It stalls a speculative troupe (R375). -/
def atomSlot (fn : Nat) (x : RegF) (s : State) : Res :=
  atSlot s (fun f t =>
    let flag := selectFlag s f (atomSety x)
    if f.run = 0 then s
    else if t.speculative then stallCommit s f
    else if flagFull s f flag then holdFlag s f flag
    else
      let r := openOp s f flag
      let m := atomRun r.2 f t fn r.1 (wideScope s t.ctx (unitOf f.troupe) f.latch.scopesel.toNat) x (slotThreads f (atomUniform x))
      if m.faults.isEmpty then parkWithRecord (m.s.modTroupe f.troupe (fun t => t.closePart r.1)) f t m.absent []
      else parkWithRecord m.s { f with op := some r.1 } t m.absent (spreadFaults f (atomUniform x) m.faults))

/-- `atom.add` (R314). -/
def execAtomAdd (x : RegF) (s : State) : Res := atomSlot 0 x s
/-- `atom.min.i32` (R314). -/
def execAtomMinI32 (x : RegF) (s : State) : Res := atomSlot 1 x s
/-- `atom.max.i32` (R314). -/
def execAtomMaxI32 (x : RegF) (s : State) : Res := atomSlot 2 x s
/-- `atom.min.n32` (R314). -/
def execAtomMinN32 (x : RegF) (s : State) : Res := atomSlot 3 x s
/-- `atom.max.n32` (R314). -/
def execAtomMaxN32 (x : RegF) (s : State) : Res := atomSlot 4 x s
/-- `atom.and` (R314). -/
def execAtomAnd (x : RegF) (s : State) : Res := atomSlot 5 x s
/-- `atom.or` (R314). -/
def execAtomOr (x : RegF) (s : State) : Res := atomSlot 6 x s
/-- `atom.xor` (R314). -/
def execAtomXor (x : RegF) (s : State) : Res := atomSlot 7 x s
/-- `atom.xchg` (R314). -/
def execAtomXchg (x : RegF) (s : State) : Res := atomSlot 8 x s
/-- `atom.cas` (R314). -/
def execAtomCas (x : RegF) (s : State) : Res := atomSlot 9 x s
/-- `atom.fadd.f32` (R314). -/
def execAtomFaddF32 (x : RegF) (s : State) : Res := atomSlot 10 x s
/-- `atom.incw` (R314). -/
def execAtomIncw (x : RegF) (s : State) : Res := atomSlot 11 x s

/-! ## RED -/

/-- The function number of a RED in the reduction buffer is its FN (R317). -/
def redUniform (x : RedF) : Bool := uniformNames [x.a, x.b]

/-- A reduction of a thread performs. -/
def performRed (s : State) (w : Who) (p : Place) (ea : Dword) (fn : Nat) (b : Word) (wide mca : Bool) (rel : Option Bool) : State :=
  match p with
  | .global pa key pm =>
    let sc := atomScope s w.troupe wide pa key
    reduceWord sc.2 w pa key ea pm sc.1 mca rel fn b
  | _ => s

/-- A reduction of a thread issues, or waits for its earlier stores (R279, R280) and for the lower threads of its slot that name its
word (R318). -/
def issueRed (s : State) (w : Who) (p : Place) (ea : Dword) (fn : Nat) (b : Word) (wide mca : Bool) (slot : Nat) (rel : Option Bool) : State :=
  let act := Act.red ea fn b wide mca slot rel
  if accessBlocked s (waitingBefore s w) w act p then enqueueAct s w act p else performRed s w p ea fn b wide mca rel

/-- A reduction of one thread (R317). -/
def redThread (f : Focus) (t : Troupe) (fn slot : Nat) (wide : Bool) (x : RedF) (m : MemRun) (i : Nat) : MemRun :=
  let cyc := f.issue + i
  match atomSources f cyc i (liveThread m.s f i) x.a x.b 56 (x.ka == 1) (x.kb == 1) false with
  | .error c => m.fail i c
  | .ok (a, b, _, th) =>
    let ea := atomEa f x.a a
    let r := reach m.s f.troupe t 1 4 ea .write
    let mca := m.s.mca t.ctx
    let act := Act.red ea fn b wide mca slot th.release
    match r.1 with
    | .trap c => { m with s := r.2 }.fail i c
    | .absent l =>
      { m with s := putThread r.2 f i { th with release := none }, absent := m.absent ++ [({ thread := i, faults := 1, act := act }, l)] }
    | .global pa key pm =>
      let s := putThread r.2 f i { th with release := none }
      if t.speculative then { m with s := holdEffects s f.troupe [(i, act)] }
      else { m with s := issueRed s (whoOf s f.troupe t i) (.global pa key pm) ea fn b wide mca slot th.release }
    | _ => m

/-- The slot of a RED (R317, R318); it counts on no flag. -/
def redSlot (fn : Nat) (x : RedF) (s : State) : Res :=
  atSlot s (fun f t =>
    if f.run = 0 then s
    else if t.speculative && !specRoom t (slotThreads f (redUniform x)).length then stallCommit s f
    else
      let m := (slotThreads f (redUniform x)).foldl (redThread f t fn s.ids (wideScope s t.ctx (unitOf f.troupe) f.latch.scopesel.toNat) x) { s := s, faults := [], absent := [], fills := [] }
      parkWithRecord m.s f t m.absent (spreadFaults f (redUniform x) m.faults))

/-- `red.add` (R317). -/
def execRedAdd (x : RedF) (s : State) : Res := redSlot 0 x s
/-- `red.min.i32` (R317). -/
def execRedMinI32 (x : RedF) (s : State) : Res := redSlot 1 x s
/-- `red.max.i32` (R317). -/
def execRedMaxI32 (x : RedF) (s : State) : Res := redSlot 2 x s
/-- `red.min.n32` (R317). -/
def execRedMinN32 (x : RedF) (s : State) : Res := redSlot 3 x s
/-- `red.max.n32` (R317). -/
def execRedMaxN32 (x : RedF) (s : State) : Res := redSlot 4 x s
/-- `red.and` (R317). -/
def execRedAnd (x : RedF) (s : State) : Res := redSlot 5 x s
/-- `red.or` (R317). -/
def execRedOr (x : RedF) (s : State) : Res := redSlot 6 x s
/-- `red.xor` (R317). -/
def execRedXor (x : RedF) (s : State) : Res := redSlot 7 x s
/-- `red.fadd.f32` (R317). -/
def execRedFaddF32 (x : RedF) (s : State) : Res := redSlot 8 x s
/-- `red.fadd.bf16x2` (R317). -/
def execRedFaddBf16x2 (x : RedF) (s : State) : Res := redSlot 9 x s

/-! ## What has waited performs (R276, R279 to R281) -/

/-- An access performs that waited in a queue. -/
def performWaiting (s : State) (x : WaitItem) (a : Act) (p : Place) : State :=
  let w := x.who
  let lane := laneOf w.troupe % 16
  match a with
  | .load ea size fn q op ids _ => performLoad s w p lane s.now ea size fn q op ids false
  | .store ea size fn data mca _ => performStoreAt s w p lane s.now ea size fn data mca
  | .atom ea fn b d dst op id wide mca _ => performAtom s w p ea fn b d dst op id wide mca false
  | .red ea fn b wide mca _ rel => performRed s w p ea fn b wide mca rel
  | .bytes ws => (match p with | .scratch u base => putScratch (performTroupe s w.troupe) u base ws | _ => s)
  | _ => s

/-- A waiting item leaves the queues and performs. -/
def performItem (s : State) (x : WaitItem) : State :=
  let s : State := { s with waitQ := s.waitQ.filter (fun y => y.id != x.id) }
  match x.what with
  | .mark => s
  | .acquire wide => acquireAt s x.who.troupe wide
  | .access a p => performWaiting s x a p

/-- The oldest store of the store queue is due. -/
def headDue (s : State) : Bool := match s.storeQ with | x :: _ => decide (x.due ≤ s.now) | [] => false

/-- STORE_PERFORM (R276): the oldest store of the store queue reaches its point of coherence; before it, a store whose cycle at a
scratch port has come, or an access that need wait no more; after it, when no store is due, a load that a scratch port has taken. -/
def execStorePerform (s : State) : Res :=
  match portReady s with
  | some (c, p) => .next (performPort s c p)
  | none => match readyItem s with
    | some x => .next (performItem s x)
    | none => if headDue s then .next (performHead s) else match portTaken s with
      | some (c, p) => .next (takeLoad s c p)
      | none => .next (performHead s)

end Sys2Proof.Machine
end

