-- ==== Sys2Proof/Machine/Copy.lean ====
section
/-! DEFINITION. The CPY class (16_engines R342 to R347; 13_order R291), and reading and writing runs of physical bytes at the
home, which the engines share. -/

namespace Sys2Proof.Machine

/-! ## Runs of physical bytes at the home -/

/-- n bytes from a physical address as an agent of a context reads them: memory under a key slot, or registers of the
device's blocks (R384); the detail of an uncorrectable or unready read otherwise. -/
def homeBytes (s : State) (ctx pa key n : Nat) : Except Nat (List Byte) :=
  if regBlock key pa then
    .ok ((upTo n).map (fun i => if privileged ctx then BitVec.ofNat 8 ((blockRead s ((pa + i) / 8 * 8)).toNat / 256 ^ ((pa + i) % 8)) else 0))
  else match memFault s pa n with
    | some d => .error d
    | none => .ok (physList s key pa n)

/-- A unit reads n bytes at the home: partials of its tile in those lines go first (R319), and the read goes through the slices
(R262 to R266). -/
def homeFetch (s : State) (unit core ctx pa key n : Nat) (pmode : Bool) : Except Nat (List Byte) × State :=
  let s := flushRange s unit pa n
  (homeBytes s ctx pa key n, if regBlock key pa then s else homeReads s unit core pa key n pmode)

/-- Writes a run of bytes into a register block, register by register. -/
def blockWrite (s : State) (pa : Nat) : Nat → List Byte → State
  | _, [] => s
  | 0, _ => s
  | n + 1, bs =>
    let k := 8 - pa % 8
    let part := bs.take k
    blockWrite (s.schedule s.now (.registerWrite pa { v := BitVec.ofNat 64 (part.foldr (fun b r => b.toNat + 256 * r) 0), n := part.length }))
      (pa + k) n (bs.drop k)

/-- Writes a run of bytes at the home for a core, updating the copy of its unit (R261), whose partials in those lines go first
(R319); the detail of a failure otherwise. -/
def writeHome (s : State) (core ctx pa key : Nat) (bs : List Byte) : Option Nat × State :=
  let unit := core / 4
  if bs.isEmpty then (none, s)
  else if regBlock key pa then (none, if privileged ctx then blockWrite s pa bs.length bs else s)
  else match memFault s pa bs.length with
    | some d => (some d, s)
    | none =>
      let s := homeWrites (physWriteList (flushRange s unit pa bs.length) key pa bs) core pa key bs.length
      let v := bs.foldr (fun b r => b.toNat + 256 * r) 0
      (none, reportTail (l1Update s unit pa key bs.length v) pa bs.length)

/-- Writes bytes to scratch. -/
def scrWriteList (s : State) (unit off : Nat) (bs : List Byte) : State :=
  { s with scratch := writeList s.scratch (scrKey unit off) bs }
def scrReadList (s : State) (unit off n : Nat) : List Byte := readList s.scratch (scrKey unit off) n

/-! ## Tag counters (R345, R346) -/

/-- A transfer of the thread with tag N has issued. -/
def Thread.tagUp (n : Nat) (th : Thread) : Thread := th.setTag n { th.tag n with n := (th.tag n).n + 1 }
/-- The tag counters of a transfer fall, and its part of the flag's operation ends; a troupe that has gone counts nothing
(R104, R346). -/
def endCopy (s : State) (c : CopyOp) (err : Option (Nat × Dword)) : State :=
  if s.genOf c.troupe = c.gen then
    s.modTroupe c.troupe (fun t =>
      let t := (c.threads.foldl (fun t i => t.setThread i ((t.thread i).tagDown c.tag err)) t).closePart c.op
      if c.replayed then t.replayDone else t)
  else s

/-- Performs a transfer: it moves its bytes, or fails and writes nothing (R343, R346). -/
def performCopy (s : State) (c : CopyOp) : State :=
  let u := unitOf c.troupe
  let ctx := ((s.ens c.ens).map (fun e => e.ctx)).getD 4095
  if c.toScratch then
    let r := if c.count = 0 then (.ok [], s) else homeFetch s u (coreOf c.troupe) ctx c.pa c.key c.count c.pmode
    match r.1 with
    | .error d => endCopy r.2 c (some (cDataUnc + 256 * d, c.ga))
    | .ok bs =>
      if scrBad r.2 u c.off c.size then endCopy r.2 c (some (cDataUnc, c.sa))
      else endCopy (scrWriteList r.2 u c.off (bs ++ zeroBytes (c.size - bs.length))) c none
  else if scrBad s u c.off c.count then endCopy s c (some (cDataUnc, c.sa))
  else
    let r := writeHome s (coreOf c.troupe) ctx c.pa c.key (scrReadList s u c.off c.count)
    endCopy r.2 c (r.1.map (fun d => (cDataUnc + 256 * d, c.ga)))

/-- COPY_PERFORM (R346). -/
def execCopyPerform (c : CopyOp) (s : State) : Res := .next (performCopy s c)

/-! ## Transfer slots -/

/-- The tag of a transfer slot: 2·KA + KB (R342). -/
def cpyTag (x : CpyF) : Nat := 2 * x.tagHi.toNat + x.tagLo.toNat

/-- A transfer executes once for the troupe when D, A and B are drawn from g, `z`, `lit` and `cix` (R35, R345). -/
def cpyUniform (x : CpyF) : Bool := uniformNames [x.d, x.a, x.b]

/-- A transfer that has formed its addresses goes on its way (R345). -/
def launchCopy (s : State) (c : CopyOp) : State :=
  let r := s.drawTime 1
  r.2.schedule r.1 (.copyPerform c)

/-- A transfer of one thread, or of the troupe in its leader (R343, R344). -/
def copyThread (f : Focus) (t : Troupe) (n : Nat) (toScratch uniform : Bool) (op : Nat) (x : CpyF) (m : MemRun) (i : Nat) : MemRun :=
  let cyc := f.issue + i
  match atomSources f cyc i (liveThread m.s f i) x.a x.b x.d false false false with
  | .error c => m.fail i c
  | .ok (a, b, _, th) => match readSrc f cyc i th x.d false with
    | .error c => m.fail i c
    | .ok (d, th) =>
      let ga := atomEa f x.a a
      let sa := d.addr (x.d == 61)
      let c := min b.toNat n
      let sc := scratchOf m.s f.troupe t
      if ga.toNat % n ≠ 0 then m.fail i { cause := cAlign, detail := 0, value := ga }
      else if sa.toNat % n ≠ 0 then m.fail i { cause := cAlign, detail := 0, value := sa }
      else if sc.2.2 < sa.toNat + n then m.fail i { cause := cScratchBounds, detail := 0, value := sa }
      else
        let ths := if uniform then threadsOf f.run else [i]
        let r := if c = 0 then (Reach.global 0 0 false, m.s)
                 else reach m.s f.troupe t 1 1 ga (if toScratch then .read else .write)
        let op : CopyOp :=
          { troupe := f.troupe, gen := m.s.genOf f.troupe, op := op, ens := t.ens, threads := ths, tag := cpyTag x,
            toScratch := toScratch, ga := ga, sa := sa, pa := 0, key := 0, off := sc.2.1 + sa.toNat, size := n, count := c }
        match r.1 with
        | .trap k => { m with s := r.2 }.fail i k
        | w =>
          let s := (putThread r.2 f i th).modTroupe f.troupe (fun t =>
            (ths.foldl (fun t j => t.setThread j ((t.thread j).tagUp op.tag)) t).addParts op.op 1)
          match w with
          | .absent l => { m with s := s, absent := m.absent ++ [({ thread := i, faults := 1, act := .copy op }, l)] }
          | .global pa key pm =>
            let op := { op with pa := pa, key := key, pmode := pm }
            if t.speculative then { m with s := holdEffects s f.troupe [(i, .copy op)] }
            else { m with s := launchCopy s op }
          | _ => { m with s := s }

/-- A tag counter of some thread has no room (R345). -/
def tagFull (t : Troupe) (n : Nat) (ths : BitVec 16) : Bool := (threadsOf ths).any (fun i => decide (63 ≤ ((t.thread i).tag n).n))

/-- A transfer slot (R342 to R345): it is held at issue until every earlier store of its threads has performed (R291). -/
def copySlot (n : Nat) (toScratch : Bool) (x : CpyF) (s : State) : Res :=
  atSlot s (fun f t =>
    let flag := selectFlag s f false
    let u := cpyUniform x
    if f.run = 0 then s
    else if t.speculative && !specRoom t (slotThreads f u).length then stallCommit s f
    else if flagFull s f flag then holdFlag s f flag
    else if tagFull t (cpyTag x) f.run then holdFor s f (.room 15 (some (cpyTag x, f.run)) false)
    else if orderPending s f.troupe t f.run .stores then holdFor s f (.order f.run .stores)
    else
      let r := openOp s f flag
      let m := (slotThreads f u).foldl (copyThread f t n toScratch u r.1 x) { s := r.2, faults := [], absent := [], fills := [] }
      if m.faults.isEmpty then parkWithRecord (m.s.modTroupe f.troupe (fun t => t.closePart r.1)) f t m.absent []
      else parkWithRecord m.s { f with op := some r.1 } t m.absent (spreadFaults f u m.faults))

/-- `cpy.g2s.4` (R342). -/
def execCpyG2s4 (x : CpyF) (s : State) : Res := copySlot 4 true x s
/-- `cpy.g2s.8` (R342). -/
def execCpyG2s8 (x : CpyF) (s : State) : Res := copySlot 8 true x s
/-- `cpy.g2s.16` (R342). -/
def execCpyG2s16 (x : CpyF) (s : State) : Res := copySlot 16 true x s
/-- `cpy.g2s.32` (R342). -/
def execCpyG2s32 (x : CpyF) (s : State) : Res := copySlot 32 true x s
/-- `cpy.s2g.4` (R342). -/
def execCpyS2g4 (x : CpyF) (s : State) : Res := copySlot 4 false x s
/-- `cpy.s2g.8` (R342). -/
def execCpyS2g8 (x : CpyF) (s : State) : Res := copySlot 8 false x s
/-- `cpy.s2g.16` (R342). -/
def execCpyS2g16 (x : CpyF) (s : State) : Res := copySlot 16 false x s
/-- `cpy.s2g.32` (R342). -/
def execCpyS2g32 (x : CpyF) (s : State) : Res := copySlot 32 false x s

/-! ## `waittag` and `tagcnt` (R347) -/

/-- Every thread of a mask has no transfer outstanding with a tag. -/
def tagsDone (t : Troupe) (m : BitVec 16) (n : Nat) : Bool := (threadsOf m).all (fun i => ((t.thread i).tag n).n == 0)

/-- `waittag` has waited: the recorded failures are raised and cleared, and for the other threads it is an acquire at
device scope (R291, R347). -/
def finishTag (s : State) (f : Focus) (t : Troupe) (n : Nat) : State :=
  let bad := (threadsOf f.run).filterMap (fun i => match ((t.thread i).tag n).err with
    | some (c, a) => some (i, ({ cause := c % 256, detail := c / 256, value := a } : Cause))
    | none => none)
  let s := s.modTroupe f.troupe (fun t =>
    bad.foldl (fun t p => t.setThread p.1 ((t.thread p.1).setTag n { (t.thread p.1).tag n with err := none })) t)
  settleSlot (acquireAll s f.troupe t true) f bad

/-- `waittag` (R347). -/
def execWaittag (x : TagF) (s : State) : Res :=
  atUniform s (fun f t =>
    if tagsDone t f.run x.tag.toNat then finishTag s f t x.tag.toNat else holdActing s f (.waittag x.tag.toNat))

/-- `tagcnt` (R347). -/
def execTagcnt (x : TagDF) (s : State) : Res :=
  atSlot s (fun f t => perThread s f t (fun i th =>
    let c := th.tag x.tag.toNat
    writeDst (f.issue + i) th x.d (BitVec.ofNat 64 (c.n + if c.err.isSome then 256 else 0))))

end Sys2Proof.Machine
end

