-- ==== Sys2Proof/Machine/Sync.lean ====
section
/-! DEFINITION. The SYNC class: fences, `mark` and `scope` (13_order R281, R285 to R290), barriers with their shells and links
(14_sync R298 to R306; 11_translation R255, R256); and the SEM class (14_sync R307 to R313). -/

namespace Sys2Proof.Machine

/-! ## Fences (R289, R290) -/

/-- A release fence of a troupe: the next store of each thread is a release at its scope (R285); like every fence it sends the troupe's
reductions home (R319). -/
def releaseAll (s : State) (tk : Nat) (wide : Bool) : State :=
  (flushTroupe s tk).modTroupe tk (fun t => { t with threads := t.threads.map (fun th => { th with release := some (wide || th.release == some true) }) })

/-- `fence.acq` (R290); like every fence it sends the troupe's reductions home (R319). -/
def execFenceAcq (x : RawBF) (s : State) : Res :=
  atUniform s (fun f t => acquireAll (flushTroupe s f.troupe) f.troupe t (wideScope s t.ctx (unitOf f.troupe) x.b.toNat))
/-- `fence.rel` (R290). -/
def execFenceRel (x : RawBF) (s : State) : Res :=
  atUniform s (fun f t => releaseAll s f.troupe (wideScope s t.ctx (unitOf f.troupe) x.b.toNat))
/-- `fence.ar` (R290). -/
def execFenceAr (x : RawBF) (s : State) : Res :=
  atUniform s (fun f t =>
    let wide := wideScope s t.ctx (unitOf f.troupe) x.b.toNat
    acquireAll (releaseAll s f.troupe wide) f.troupe t wide)
/-- `mark` (R281, R290). -/
def execMark (_ : StopF) (s : State) : Res :=
  atUniform s (fun f t => fenceThreads (flushTroupe s f.troupe) f.troupe t .mark (fun s w => pendingAny s s.waitQ w))
/-- `scope` (R290). -/
def execScope (x : ScopeF) (s : State) : Res :=
  atUniform s (fun f _ =>
    (writeG s f x.d (f.latch.scopesel.setWidth 64)).modTroupe f.troupe (fun t => { t with scopesel := x.b.setWidth 5 }))

/-! ## Finding ensembles -/

/-- The resident ensemble of a company with a linear index, with its key. -/
def State.ensAt (s : State) (comp linear : Nat) : Option (Nat × Ensemble) :=
  s.enss.find? (fun p => p.2.comp == comp && p.2.linear == linear)

/-! ## Barriers (R299 to R301) -/

/-- Barrier n of an ensemble. -/
def Ensemble.bar (e : Ensemble) (n : Nat) : Bar := kget (Bar.init e.size) e.bars n
def Ensemble.setBar (e : Ensemble) (n : Nat) (b : Bar) : Ensemble := { e with bars := kset e.bars n b }

/-- An ensemble on its unit, or in the context of a unit that is pre-empted (R417); and a change of it there. -/
def State.ensKept (s : State) (ek : Nat) : Option Ensemble := (s.ens ek).orElse (fun _ => s.savedUnits.findSome? (fun x => kfind x.enss ek))
def State.modKept (s : State) (ek : Nat) (g : Ensemble → Ensemble) : State :=
  { s.modEns ek g with savedUnits := s.savedUnits.map (fun x => { x with enss := kupd x.enss ek g }) }

/-- The ensembles on their units and in pre-empted contexts. -/
def keptEnss (s : State) : List (Nat × Ensemble) := s.enss ++ s.savedUnits.flatMap (fun x => x.enss)

/-- The ensembles of a company that hold a barrier linked to a home, as (ensemble key, barrier): resident, pre-empted and swapped out. -/
def membersOf (s : State) (comp linear n : Nat) : List (Nat × Nat) :=
  let of_ (k : Nat) (e : Ensemble) : List (Nat × Nat) :=
    if e.comp = comp then ((upTo 32).filter (fun i => (e.bar i).link == some (linear, n))).map (fun i => (k, i)) else []
  ((keptEnss s).flatMap (fun p => of_ p.1 p.2)) ++ (s.saved.flatMap (fun p => of_ p.1 p.2.ens))

/-- Where messages for barrier n of an ensemble arrive, and come from: its unit, or the slice that holds its shell (R255, R306). -/
def barPlace (s : State) (ek n : Nat) : Nat :=
  match s.ensKept ek with
  | some e => e.unit
  | none => match kfind s.saved ek with
    | none => 0
    | some sv => match s.shells.find? (fun h => h.ctx == sv.ens.ctx && h.comp == sv.ens.comp && h.linear == sv.ens.linear && h.idx == n) with
      | some h => 512 + h.slice
      | none => 0

/-- A home's phase has completed: a release goes to each member (R306). -/
def sendReleases (s : State) (ek comp linear n : Nat) : State :=
  (membersOf s comp linear n).foldl (fun s m =>
    let r := s.meshTime (barPlace s ek n) (barPlace s m.1 m.2)
    r.2.schedule r.1 (.barrierRelease m.1 m.2)) s

/-- Barrier n of an ensemble completes its phase (R293, R300). -/
def completePhase (s : State) (ek n : Nat) : State :=
  let s := s.modKept ek (fun e => let b := e.bar n; e.setBar n { b with arr := 0, phases := b.phases + 1 })
  match s.ensKept ek with
  | some e => sendReleases s ek e.comp e.linear n
  | none => s

/-- An arrival is counted at a barrier, and completes its phase when it is the last expected (R300). -/
def countArrival (s : State) (ek n : Nat) : State :=
  match s.ensKept ek with
  | none => s
  | some e =>
    let b := e.bar n
    if b.e ≤ b.arr + 1 then completePhase s ek n
    else s.modKept ek (fun e => e.setBar n { b with arr := b.arr + 1 })

/-- The shell of a barrier of a swapped-out ensemble. -/
def shellIs (e : Ensemble) (n : Nat) (h : Shell) : Bool := h.ctx == e.ctx && h.comp == e.comp && h.linear == e.linear && h.idx == n

/-- An arrival is counted in a shell, and may complete the phase there (R256). -/
def countShell (s : State) (ek n : Nat) : State :=
  match kfind s.saved ek with
  | none => s
  | some sv =>
    match s.shells.find? (shellIs sv.ens n) with
    | none => s
    | some h =>
      let done := decide (h.bar.e ≤ h.bar.arr + 1)
      let b := if done then { h.bar with arr := 0, phases := h.bar.phases + 1 } else { h.bar with arr := h.bar.arr + 1 }
      let s := { s with shells := s.shells.map (fun k => if shellIs sv.ens n k then { k with bar := b } else k) }
      if done then sendReleases s ek sv.ens.comp sv.ens.linear n else s

/-- SHELL_ARRIVAL (R256). -/
def execShellArrival (ens bar : Nat) (s : State) : Res := .next (countShell s ens bar)

/-- FORWARDED_ARRIVAL (R306): counted at the home, or in the home's shell. -/
def execForwardedArrival (ens bar : Nat) (s : State) : Res :=
  .next (match s.ensKept ens with | some _ => countArrival s ens bar | none => countShell s ens bar)

/-- BARRIER_RELEASE (R306): a member advances its PHASES, in its shell when its ensemble is absent. -/
def execBarrierRelease (ens bar : Nat) (s : State) : Res :=
  match s.ensKept ens with
  | some _ => .next (s.modKept ens (fun e => let b := e.bar bar; e.setBar bar { b with phases := b.phases + 1 }))
  | none => match kfind s.saved ens with
    | none => .next s
    | some sv => .next { s with shells := s.shells.map (fun k =>
        if shellIs sv.ens bar k then { k with bar := { k.bar with phases := k.bar.phases + 1 } } else k) }

/-- The key of an ensemble of a company by linear index, resident, pre-empted or swapped out. -/
def ensKey (s : State) (comp linear : Nat) : Option Nat :=
  match (keptEnss s).find? (fun p => p.2.comp == comp && p.2.linear == linear) with
  | some p => some p.1
  | none => (s.saved.find? (fun p => p.2.ens.comp == comp && p.2.ens.linear == linear)).map (fun p => p.1)

/-- An arrival of a troupe at barrier n of its ensemble: counted, or forwarded to its home (R300, R306). -/
def arriveAt (s : State) (ek n : Nat) : State :=
  match s.ens ek with
  | none => s
  | some e => match (e.bar n).link with
    | none => countArrival s ek n
    | some (l, h) => match ensKey s e.comp l with
      | none => s
      | some hk =>
        let r := s.meshTime e.unit (barPlace s hk h)
        r.2.schedule r.1 (.forwardedArrival hk h)

/-- The scope entry of arrivals and departures: the home's for a member (R303, R306). -/
def barScope (s : State) (e : Ensemble) (n : Nat) : Nat :=
  match (e.bar n).link with
  | none => (e.bar n).scope.toNat
  | some (l, h) => match (keptEnss s).find? (fun p => p.2.comp == e.comp && p.2.linear == l) with
    | some (_, he) => (he.bar h).scope.toNat
    | none => match (s.shells.find? (fun k => k.comp == e.comp && k.linear == l && k.idx == h)) with
      | some k => k.bar.scope.toNat
      | none => (e.bar n).scope.toNat

/-- A troupe's record of barrier n (R301). -/
def Troupe.barTag (t : Troupe) (n : Nat) : BarTag := kget { arrived := false, tag := 0 } t.bars n

/-- The release of an arrival (R303, R312): every earlier access of the troupe has performed before the slot acts; until then the
troupe waits. -/
def afterRelease (s : State) (f : Focus) (t : Troupe) (k : State → State) : State :=
  let s := release s f.troupe
  if orderPending s f.troupe t 0xFFFF .all then holdFor s f (.order 0xFFFF .all) else k s

/-- `bar.arrive` on a barrier, after its release: TAG, ARRIVED and the arrival (R303). -/
def doArrive (s : State) (tk ek n : Nat) : State :=
  match s.ens ek with
  | none => s
  | some e =>
    let s := s.modTroupe tk (fun t => { t with bars := kset t.bars n { arrived := true, tag := (e.bar n).phases } })
    arriveAt s ek n

/-- `bar.wait` must still wait (R303). -/
def barWaits (s : State) (t : Troupe) (n : Nat) : Bool :=
  match s.ens t.ens with
  | none => false
  | some e => (t.barTag n).arrived && (e.bar n).phases == (t.barTag n).tag

/-- `bar.wait`: waits, or clears ARRIVED and acquires (R303). -/
def doWait (s : State) (f : Focus) (n : Nat) : State :=
  match s.troupe f.troupe with
  | none => s
  | some t =>
    if barWaits s t n then holdActing s f (.bar n)
    else
      let s := s.modTroupe f.troupe (fun t => { t with bars := kset t.bars n { (t.barTag n) with arrived := false } })
      match s.ens t.ens with
      | some e => acquireAll s f.troupe t (wideScope s t.ctx (unitOf f.troupe) (barScope s e n))
      | none => s

/-- A barrier slot: an index at or above the ensemble's count raises SEM_OVER with detail 1 (R298). -/
def atBarrier (s : State) (n : BitVec 6) (k : Focus → Troupe → Ensemble → State) : Res :=
  atUniform s (fun f t => match s.ens t.ens with
    | none => trapAll s f (openCause cSemOver 1 f.issue)
    | some e =>
      if t.handler || e.desc.barriers ≤ n.toNat then trapAll s f (openCause cSemOver 1 f.issue) else k f t e)

/-- `bar.arrive` (R303). -/
def execBarArrive (x : RawBF) (s : State) : Res :=
  atBarrier s x.b (fun f t _ =>
    if t.speculative then stallCommit s f else afterRelease s f t (fun s => doArrive s f.troupe t.ens x.b.toNat))

/-- `bar.wait` (R303). -/
def execBarWait (x : RawBF) (s : State) : Res := atBarrier s x.b (fun f _ _ => doWait s f x.b.toNat)

/-- `bar.sync` (R303). -/
def execBarSync (x : RawBF) (s : State) : Res :=
  atBarrier s x.b (fun f t _ =>
    if f.acted then doWait s f x.b.toNat
    else if t.speculative then stallCommit s f
    else afterRelease s f t (fun s => doWait (doArrive s f.troupe t.ens x.b.toNat) { f with acted := true } x.b.toNat))

/-- What `bar.count` writes to D (R304). -/
def barWord (status : Nat) (b : Bar) : Dword :=
  BitVec.ofNat 64 (status + b.e * 2 ^ 8 + b.arr * 2 ^ 24 + b.phases.toNat * 2 ^ 40)

/-- `bar.count` (R304). -/
def execBarCount (x : DabF) (s : State) : Res :=
  atBarrier s x.b (fun f t e =>
    if t.speculative then stallCommit s f
    else
      let v := uniformVal f x.a
      let b := e.bar x.b.toNat
      let ne := (v.extractLsb' 0 16).toNat
      if 4096 < ne || v.extractLsb' 22 42 != 0 then writeG s f x.d (barWord 2 b)
      else if b.link.isSome then writeG s f x.d (barWord 3 b)
      else
        let b' := { b with e := if ne = 0 then b.e else ne, scope := if v.getLsbD 21 then v.extractLsb' 16 5 else b.scope }
        let act (s : State) : State := (writeG s f x.d (barWord 0 b)).modEns t.ens (fun e => e.setBar x.b.toNat b')
        if ne ≠ 0 && ne ≤ b.arr then afterRelease s f t (fun s => completePhase (act s) t.ens x.b.toNat) else act s)

/-- The status of `bar.link`, with the link to set when it is 0 (R305). -/
def linkStatus (s : State) (t : Troupe) (e : Ensemble) (n : Nat) (v : Dword) : Nat × Option (Nat × Nat) :=
  let l := (v.extractLsb' 0 32).toNat
  let h := (v.extractLsb' 32 5).toNat
  let total := ((s.comp t.comp).map (fun c => c.total)).getD 0
  if v.extractLsb' 37 27 != 0 || total ≤ l then (2, none)
  else if l = e.linear then (if h = n then (0, none) else (2, none))
  else match s.ensAt e.comp l with
    | none => (1, none)
    | some (_, he) =>
      if he.desc.barriers ≤ h then (2, none)
      else if (he.bar h).link.isSome || !(membersOf s e.comp e.linear n).isEmpty then (3, none)
      else if (e.bar n).arr ≠ 0 || (he.bar h).arr ≠ 0 then (4, none)
      else (0, some (l, h))

/-- `bar.link` (R305). -/
def execBarLink (x : DabF) (s : State) : Res :=
  atBarrier s x.b (fun f t e =>
    if t.speculative then stallCommit s f
    else
      let r := linkStatus s t e x.b.toNat (uniformVal f x.a)
      let s := writeG s f x.d (BitVec.ofNat 64 r.1)
      if r.1 = 0 then s.modEns t.ens (fun e => e.setBar x.b.toNat { (e.bar x.b.toNat) with link := r.2 }) else s)

/-! ## Semaphores (R307 to R313) -/

/-- Semaphore i of an ensemble. -/
def Ensemble.sem (e : Ensemble) (i : Nat) : Sem := kget Sem.init e.sems i
def Ensemble.setSem (e : Ensemble) (i : Nat) (m : Sem) : Ensemble := { e with sems := kset e.sems i m }

/-- The test after every operation: a phase completes (R308). -/
def Sem.test (m : Sem) : Sem :=
  if m.armed && m.pending == 0 && decide (m.expect ≤ m.arr) then
    { m with count := m.count + 1, pending := 0, expect := 0, arr := 0, armed := false }
  else m

/-- PENDING has a 32-bit signed range (R307). -/
def pendingFits (p : Int) : Bool := decide (-2147483648 ≤ p) && decide (p ≤ 2147483647)

/-- An arrival with a byte count; none when a field would overflow (R311, R312). -/
def Sem.arrive (m : Sem) (bytes : Nat) : Option Sem :=
  if pendingFits (m.pending - bytes) && decide (m.arr + 1 ≤ 65535) then
    some { m with arr := m.arr + 1, pending := m.pending - bytes }.test
  else none

/-- A delivery of an engine: OVF when it would overflow (R309). -/
def deliverSem (s : State) (ek idx bytes : Nat) : State :=
  s.modEns ek (fun e =>
    if idx < e.desc.sems then
      match (e.sem idx).arrive bytes with
      | some m => e.setSem idx { m with engine := true }
      | none => e.setSem idx { e.sem idx with ovf := true, engine := true }
    else e)

/-- How a remote arrival ends. -/
inductive RemoteReply where
  | status (n : Nat)
  | overflow
deriving DecidableEq, Repr

/-- A remote arrival at its target (R312). -/
def remoteArrive (s : State) (r : RemoteArr) : RemoteReply × State :=
  match s.ensAt r.comp r.linear with
  | none => (.status 1, s)
  | some (ek, e) =>
    if e.desc.sems ≤ r.index then (.status 2, s)
    else match (e.sem r.index).arrive r.bytes with
      | none => (.overflow, s)
      | some m => (.status 0, s.modEns ek (fun e => e.setSem r.index m))

/-- The reply to a remote arrival as a held slot keeps it: the status, or 256 for an overflow. -/
def RemoteReply.word : RemoteReply → Word
  | .status n => BitVec.ofNat 32 n
  | .overflow => 256

/-- REMOTE_ARRIVAL (R312): the arrival is counted, and its reply goes to the slot that holds for it. -/
def execRemoteArrival (r : RemoteArr) (s : State) : Res :=
  let a := remoteArrive s r
  .next { a.2 with holds := kupd a.2.holds r.troupe (fun h =>
    if h.focus.acted && h.focus.answer.isNone then { h with focus := { h.focus with answer := some (0, a.1.word) } } else h) }

/-- A SEM slot on a semaphore of the issuing ensemble: SEM_OVER with detail 1 for an index at or above the count, and with
detail 4 for a nonzero reserved bit (R298, R311). -/
def atSem (s : State) (f : Focus) (t : Troupe) (a : Dword) (bad : Bool) (k : Ensemble → Nat → State) : State :=
  let i := (a.extractLsb' 0 8).toNat
  match s.ens t.ens with
  | none => trapAll s f (openCause cSemOver 1 f.issue)
  | some e =>
    if t.handler || e.desc.sems ≤ i then trapAll s f (openCause cSemOver 1 f.issue)
    else if bad then trapAll s f (openCause cSemOver 4 f.issue)
    else k e i

/-- `seminit` (R311). -/
def execSeminit (x : DaF) (s : State) : Res :=
  atUniform s (fun f t =>
    if t.speculative then stallCommit s f
    else
      let a := uniformVal f x.a
      atSem s f t a (a.extractLsb' 13 51 != 0) (fun e i =>
        let m : Sem :=
          { e.sem i with pending := 0, expect := 0, arr := 0, armed := false, ovf := false, scope := a.extractLsb' 8 5, engine := false }
        writeG (s.modEns t.ens (fun e => e.setSem i m)) f x.d 0))

/-- `semarm` (R311). -/
def execSemarm (x : DabF) (s : State) : Res :=
  atUniform s (fun f t =>
    if t.speculative then stallCommit s f
    else
      let a := uniformVal f x.a
      let b := uniformVal f x.b
      atSem s f t a (a.extractLsb' 8 56 != 0 || b.extractLsb' 31 33 != 0) (fun e i =>
        let p := (e.sem i).pending + b.toNat
        if pendingFits p then
          writeG (s.modEns t.ens (fun e => e.setSem i { e.sem i with pending := p, armed := true }.test)) f x.d 0
        else trapAll s f (openCause cSemOver 2 f.issue)))

/-- `semexp` (R311). -/
def execSemexp (x : DabF) (s : State) : Res :=
  atUniform s (fun f t =>
    if t.speculative then stallCommit s f
    else
      let a := uniformVal f x.a
      let b := uniformVal f x.b
      atSem s f t a (a.extractLsb' 8 56 != 0 || b.extractLsb' 16 48 != 0) (fun e i =>
        let n := (e.sem i).expect + b.toNat
        if n ≤ 65535 then
          writeG (s.modEns t.ens (fun e => e.setSem i { e.sem i with expect := n, armed := true }.test)) f x.d 0
        else trapAll s f (openCause cSemOver 2 f.issue)))

/-- A remote `semarr`: the release, the arrival on its way, and its reply before the slot commits (R312). -/
def semarrRemote (s : State) (f : Focus) (t : Troupe) (d : BitVec 6) (a b : Dword) : State :=
  if f.acted then
    match f.answer with
    | some (_, n) => if n = 256 then trapAll s { f with answer := none } (openCause cSemOver 2 f.issue) else writeG s f d (n.setWidth 64)
    | none => writeG s f d 1
  else if a.extractLsb' 9 23 != 0 || b.extractLsb' 31 33 != 0 then trapAll s f (openCause cSemOver 4 f.issue)
  else afterRelease s f t (fun s =>
    let r := s.meshTime (unitOf f.troupe) (match s.ensAt t.comp (a.extractLsb' 32 32).toNat with | some (_, e) => e.unit | none => 1023)
    holdActing (r.2.schedule r.1 (.remoteArrival
      { troupe := f.troupe, comp := t.comp, linear := (a.extractLsb' 32 32).toNat, index := (a.extractLsb' 0 8).toNat, bytes := b.toNat }))
      { f with acted := true } (.until (r.1 + 1)))

/-- `semarr` (R311, R312). -/
def execSemarr (x : DabF) (s : State) : Res :=
  atUniform s (fun f t =>
    if t.speculative then stallCommit s f
    else
      let a := uniformVal f x.a
      let b := uniformVal f x.b
      if a.getLsbD 8 then semarrRemote s f t x.d a b
      else atSem s f t a (a.extractLsb' 8 56 != 0 || b.extractLsb' 31 33 != 0) (fun e i => afterRelease s f t (fun s =>
        match (e.sem i).arrive b.toNat with
        | none => trapAll s f (openCause cSemOver 2 f.issue)
        | some m => writeG (s.modEns t.ens (fun e => e.setSem i m)) f x.d 0)))

/-- SEM_OVER with detail 3 clears OVF (R313). -/
def raiseOvf (s : State) (f : Focus) (t : Troupe) (i : Nat) : State :=
  trapAll (s.modEns t.ens (fun e => e.setSem i { e.sem i with ovf := false })) f (openCause cSemOver 3 f.issue)

/-- `semwait` (R311, R313): waits until COUNT differs from V; a delivery refused meanwhile raises SEM_OVER. It is an acquire at the
semaphore's scope (R293), and at device scope once an engine has delivered to the semaphore (R292). -/
def execSemwait (x : DaF) (s : State) : Res :=
  atUniform s (fun f t =>
    let a := uniformVal f x.a
    atSem s f t a (a.extractLsb' 8 24 != 0) (fun e i =>
      let m := e.sem i
      let v := a.extractLsb' 32 32
      if m.ovf then raiseOvf s f t i
      else if m.count = v then holdActing s f (.sem i v)
      else acquireAll (writeG s f x.d (m.count.setWidth 64)) f.troupe t (m.engine || wideScope s t.ctx (unitOf f.troupe) m.scope.toNat)))

/-- `semtest` (R311, R313). -/
def execSemtest (x : DaF) (s : State) : Res :=
  atUniform s (fun f t =>
    let a := uniformVal f x.a
    atSem s f t a (a.extractLsb' 9 55 != 0) (fun e i =>
      let m := e.sem i
      if m.ovf then raiseOvf s f t i
      else if a.getLsbD 8 then
        writeG s f x.d (BitVec.ofNat 64 ((BitVec.ofInt 32 m.pending).toNat + (if m.armed then 2 ^ 32 else 0) + (if m.ovf then 2 ^ 33 else 0)))
      else writeG s f x.d (BitVec.ofNat 64 (m.count.toNat + m.arr * 2 ^ 32 + m.expect * 2 ^ 48))))

end Sys2Proof.Machine
end

