-- ==== Sys2Proof/Machine/Launch.lean ====
section
/-! DEFINITION. Virtual accesses of the sequencer and the engines; launch descriptors and their validation, companies, and
timetables as they are loaded (18_schedule R389 to R396; 04_work R88, R89; 16_engines R361, R362; 25_prog_denoise R470). -/

namespace Sys2Proof.Machine

/-! ## Virtual accesses outside the cores -/

/-- Why an access of the sequencer or an engine stopped: 1 absent, 2 denied, 3 uncorrectable (R350), its detail and the
address of the byte. -/
structure VErr where
  kind : Nat
  detail : Nat
  addr : Nat
deriving DecidableEq, Repr

/-- A unit number that is no unit: accesses of the sequencer touch no L1 and count at no core. -/
def noUnit : Nat := 511

/-- A core of that unit. -/
def noCore : Nat := 4 * noUnit

/-- Translates by a walk that no TLB serves, as an agent at a core, or the sequencer, which stands on the guide die (R236); the walk
reads its entries through the slices. -/
def walkTranslate (s : State) (core ctx : Nat) (ea : Dword) (need : Need) : Xl × State :=
  if ea.extractLsb' 56 8 != 0 || !(s.ctx ctx).ptroot.getLsbD 0 then (.perm 1, s)
  else
    let w := walk s core ctx ea.toNat
    match w.1 with
    | .error x => (x, w.2)
    | .ok e => (checkTlb s ctx ea.toNat need e, w.2)

/-- The error of a translation that gives no address. -/
def Xl.err (ea : Nat) : Xl → VErr
  | .absent l => { kind := 1, detail := l, addr := ea }
  | .perm d => { kind := 2, detail := d, addr := ea }
  | .unc d => { kind := 3, detail := d, addr := ea }
  | .ok _ _ _ => { kind := 0, detail := 0, addr := ea }

/-- An agent at a core reads n bytes at a virtual address, page by page: the partials of its unit in those lines go first (R319). -/
def virtFetchFrom (core ctx : Nat) : Nat → State → Nat → Nat → Except VErr (List Byte) × State
  | 0, s, _, _ => (.ok [], s)
  | fuel + 1, s, ea, n =>
    if n = 0 then (.ok [], s)
    else
      let k := min n (4096 - ea % 4096)
      let x := walkTranslate s core ctx (BitVec.ofNat 64 ea) .read
      match x.1 with
      | .ok pa key pm =>
        let h := homeFetch x.2 (core / 4) core ctx pa key k pm
        match h.1 with
        | .error d => (.error { kind := 3, detail := d, addr := ea }, h.2)
        | .ok bs =>
          let r := virtFetchFrom core ctx fuel h.2 (ea + k) (n - k)
          (match r.1 with | .error e => .error e | .ok rest => .ok (bs ++ rest), r.2)
      | w => (.error (w.err ea), x.2)
def virtFetch (s : State) (core ctx ea n : Nat) : Except VErr (List Byte) × State := virtFetchFrom core ctx (n / 4096 + 2) s ea n

/-- What the sequencer reads at a virtual address, and what its reads of some ranges leave in the slices. -/
def virtRead (s : State) (ctx ea n : Nat) : Except VErr (List Byte) := (virtFetch s noCore ctx ea n).1
def virtTouch (s : State) (ctx : Nat) (l : List (Nat × Nat)) : State := l.foldl (fun s r => (virtFetch s noCore ctx r.1 r.2).2) s

/-- Writes bytes at a virtual address, page by page; bytes before a failing one stay written. -/
def virtWriteFrom (core ctx : Nat) : Nat → State → Nat → List Byte → Option VErr × State
  | 0, s, _, _ => (none, s)
  | fuel + 1, s, ea, bs =>
    if bs.isEmpty then (none, s)
    else
      let k := min bs.length (4096 - ea % 4096)
      let x := walkTranslate s core ctx (BitVec.ofNat 64 ea) .write
      match x.1 with
      | .ok pa key _ =>
        let r := writeHome x.2 core ctx pa key (bs.take k)
        match r.1 with
        | some d => (some { kind := 3, detail := d, addr := ea }, r.2)
        | none => virtWriteFrom core ctx fuel r.2 (ea + k) (bs.drop k)
      | w => (some (w.err ea), x.2)
def virtWrite (s : State) (core ctx ea : Nat) (bs : List Byte) : Option VErr × State :=
  virtWriteFrom core ctx (bs.length / 4096 + 2) s ea bs

/-- A little-endian field of a list of bytes. -/
def leAt (bs : List Byte) (off n : Nat) : Nat := ((bs.drop off).take n).foldr (fun b r => b.toNat + 256 * r) 0

/-- Every byte of a range is zero. -/
def zeroAt (bs : List Byte) (off n : Nat) : Bool := ((bs.drop off).take n).all (fun b => b == 0)

/-! ## Partitions and rows (R21, R385) -/

/-- The rows of a partition. -/
def rowsOf (s : State) (part : Nat) : Nat := match kfind s.parts part with | some p => p.rows | none => 0

/-- The rows in which a company's ensembles may stand: PLACE, or every lattice row of the partition (R389). -/
def placeRows (s : State) (part : Nat) (d : Desc) : Nat := if d.place = 0 then rowsOf s part % 2 ^ 24 else d.place

/-! ## Descriptors (R389, R390) -/

/-- The fields of a descriptor's 64 bytes. -/
def descOf (bs : List Byte) : Desc :=
  { entry := leAt bs 0 8, text := leAt bs 8 8, args := BitVec.ofNat 64 (leAt bs 16 8), done := BitVec.ofNat 64 (leAt bs 24 8),
    ttable := leAt bs 32 8, place := leAt bs 40 4, gx := leAt bs 44 2, gy := leAt bs 46 2, gz := leAt bs 48 2,
    segs := leAt bs 50 1, mode := leAt bs 51 1, prio := leAt bs 52 1, troupes := leAt bs 53 1 + 1, vregs := 8 * leAt bs 54 1,
    barriers := leAt bs 55 1, sems := leAt bs 56 2, accs := leAt bs 58 1, scratch := leAt bs 59 1 }

/-- The descriptor's fields keep the limits of R389, and no ensemble exceeds a whole unit (R24, R390). -/
def descLegal (rows : Nat) (child : Bool) (bs : List Byte) (d : Desc) : Bool :=
  let guide := Nat.testBit d.place 24
  zeroAt bs 60 4 && d.entry % 4 == 0 && decide (d.text ≤ d.entry) && decide (d.entry < d.text + 4096 * d.segs) &&
  d.text % 4096 == 0 && d.done.toNat % 8 == 0 && (if d.mode = 1 then d.ttable % 64 == 0 else d.ttable == 0) &&
  (d.place &&& rows) == d.place && decide (d.place < 2 ^ 25) && !(guide && d.place != 2 ^ 24) &&
  decide (1 ≤ d.gx) && decide (1 ≤ d.gy) && decide (1 ≤ d.gz) && decide (d.gx * d.gy * d.gz ≤ 2 ^ 24 - 1) &&
  decide (1 ≤ d.segs) && decide (d.segs ≤ 16) && decide (d.mode ≤ 2) && decide (d.prio ≤ 7) && decide (d.troupes ≤ 128) &&
  decide (d.vregs ≤ 32) && decide (d.barriers ≤ 32) && decide (d.sems ≤ 256) && decide (d.accs ≤ 8) &&
  decide (d.scratch ≤ (if guide then 16 else 96)) && decide ((d.troupes + 3) / 4 * d.vregs ≤ 128) && !(guide && d.accs != 0) &&
  !(d.mode == 1 && (child || d.sems == 0 || d.barriers == 0))

/-! ## Timetables (R394 to R396) -/

/-- One step of a step table. -/
def stepOf (bs : List Byte) (k : Nat) : TStep :=
  { entry := leAt bs (32 * k) 8, alt := BitVec.ofNat 64 (leAt bs (32 * k + 8) 8), release := leAt bs (32 * k + 16) 4,
    budget := leAt bs (32 * k + 20) 4, drop := leAt bs (32 * k + 24) 1 }

/-- Values rise strictly. -/
def rising : List Nat → Bool
  | a :: b :: rest => decide (a < b) && rising (b :: rest)
  | _ => true

/-- The words of a list of bytes. -/
def wordsOf (bs : List Byte) (n : Nat) : List Word := (upTo n).map (fun i => BitVec.ofNat 32 (leAt bs (4 * i) 4))

/-- The router reached from a tile's router by output d: north, east, south, west (R362, R470). -/
def meshNext (t d : Nat) : Option Nat :=
  let r := t % 144 / 12
  let c := t % 12
  match d with
  | 0 => if r = 0 then none else some (t - 12)
  | 1 => if c = 11 then none else some (t + 1)
  | 2 => if r = 11 then none else some (t + 12)
  | _ => if c = 0 then none else some (t - 1)

/-- A router's entry at a cycle of the revolution. -/
def meshEntry (mesh : List (Nat × List Word)) (t c : Nat) : Option Word := ((mesh.find? (fun p => p.1 == t)).map (fun p => p.2.getD c 0))

/-- Every entry of a mesh table has zero reserved bits, no OUT without a STREAM, and leads only to routers of the table
that name its stream at the next cycle (R362, R396). -/
def meshPaths (rev : Nat) (mesh : List (Nat × List Word)) : Bool :=
  mesh.all (fun p => p.2.zipIdx.all (fun q =>
    let e := q.1
    e.extractLsb' 13 19 == 0 && !(e.extractLsb' 0 8 == 0 && e.extractLsb' 8 5 != 0) &&
    (upTo 4).all (fun d => !e.getLsbD (8 + d) || (match meshNext p.1 d with
      | none => false
      | some n => match meshEntry mesh n ((q.2 + 1) % rev) with
        | none => false
        | some e' => e'.extractLsb' 0 8 == e.extractLsb' 0 8))))

/-- An entry is fed by a router that sends to it in the cycle before. -/
def meshFed (rev : Nat) (mesh : List (Nat × List Word)) (t c : Nat) : Bool :=
  (upTo 4).any (fun d => match meshNext t d with
    | none => false
    | some n => match meshEntry mesh n ((c + rev - 1) % rev) with
      | none => false
      | some e => e.getLsbD (8 + (d + 2) % 4))

/-- A stream has at most one source in a cycle (R396). -/
def meshSources (rev : Nat) (mesh : List (Nat × List Word)) : Bool :=
  (upTo rev).all (fun c => noRepeat (mesh.filterMap (fun p =>
    let e := p.2.getD c 0
    if e.extractLsb' 0 8 != 0 && !meshFed rev mesh p.1 c then some (e.extractLsb' 0 8).toNat else none)))

/-- The routers with a non-idle entry, and the bridge lanes in use, as 4·die + lane (R396). -/
def busyRouters (mesh : List (Nat × List Word)) : List Nat := (mesh.filter (fun p => p.2.any (fun e => e.extractLsb' 0 8 != 0))).map (fun p => p.1)
def busyLanes (rev : Nat) (bridge : List Word) : List Nat :=
  (bridge.zipIdx.filterMap (fun p => if p.1.extractLsb' 0 4 == 15 then none else some (4 * (p.2 / (4 * rev)) + p.2 % 4))).eraseDups

/-- Two lists share a value. -/
def meets (a b : List Nat) : Bool := a.any (fun x => b.contains x)

/-- Reads the mesh blocks of a timetable: a tile index, two zero bytes, REV entries each (R395). -/
def readMesh (s : State) (ctx rev : Nat) : Nat → Nat → Option (List (Nat × List Word))
  | 0, _ => some []
  | n + 1, a => match virtRead s ctx a (4 + 4 * rev) with
    | .error _ => none
    | .ok bs =>
      if 288 ≤ leAt bs 0 2 || !zeroAt bs 2 2 then none
      else match readMesh s ctx rev n (a + 4 + 4 * rev) with
        | none => none
        | some rest => some ((leAt bs 0 2, wordsOf (bs.drop 4) rev) :: rest)

/-- The mesh table of a timetable. -/
def meshTable (s : State) (ctx addr off rev : Nat) : Option (List (Nat × List Word)) :=
  if off = 0 then some []
  else match virtRead s ctx (addr + off) 4 with
    | .error _ => none
    | .ok bs => if 288 < leAt bs 0 4 then none else readMesh s ctx rev (leAt bs 0 4) (addr + off + 4)

/-- A table of n entries of k bytes at an offset, empty when the offset is 0. -/
def tableAt (s : State) (ctx addr off n : Nat) : Option (List Byte) :=
  if off = 0 then some [] else match virtRead s ctx (addr + off) n with | .error _ => none | .ok bs => some bs

/-- The header of a timetable keeps R394. -/
def ttHeaderLegal (h : List Byte) : Bool :=
  let rev := leAt h 0 2
  let cap := leAt h 32 4
  decide (64 ≤ rev) && decide (rev ≤ 1024) && decide (1 ≤ leAt h 2 1) && decide (leAt h 2 1 ≤ 64) && zeroAt h 3 5 && zeroAt h 40 8 &&
  zeroAt h 50 2 &&
  (if leAt h 28 4 = 0 then cap == 0 else (upTo 17).any (fun i => cap == 2 ^ i)) && decide (leAt h 12 4 ≤ leAt h 8 4)

/-- The steps of a timetable keep R394 and R396. -/
def ttStepsLegal (d : Desc) (deadline : Nat) (bs : List Byte) (steps : List TStep) : Bool :=
  steps.zipIdx.all (fun p => p.1.entry % 4 == 0 && decide (d.text ≤ p.1.entry) && decide (p.1.entry < d.text + 4096 * d.segs)
    && decide (1 ≤ p.1.budget) && zeroAt bs (32 * p.2 + 25) 7) &&
  rising (steps.map (fun x => x.release)) && (match steps.getLast? with | some x => decide (x.release < deadline) | none => false)

/-- A bridge entry names a cluster 0 to 11 or 15, and a tile 0 to 143 (R395). -/
def bridgeEntryLegal (w : Word) : Bool :=
  w.extractLsb' 12 20 == 0 && decide ((w.extractLsb' 4 8).toNat ≤ 143) && (decide ((w.extractLsb' 0 4).toNat ≤ 11) || w.extractLsb' 0 4 == 15)

/-- A unit of a placement table lies in the partition, and an ensemble of the company does not exceed it (R14, R24, R396). -/
def placeLegal (rows : Nat) (d : Desc) (u : Nat) : Bool :=
  decide (u < 300) && Nat.testBit rows (rowOfUnit u) && !(isGuide u && (d.accs != 0 || decide (16 < d.scratch)))

/-- Reads and validates the timetable of a company of `total` ensembles in a partition; none when it is refused (R396). -/
def readTimetable (s : State) (ctx part total : Nat) (d : Desc) : Option Timetable :=
  match virtRead s ctx d.ttable 64 with
  | .error _ => none
  | .ok h =>
    let rev := leAt h 0 2
    let n := leAt h 2 1
    if !ttHeaderLegal h then none
    else match virtRead s ctx (d.ttable + 64) (32 * n), tableAt s ctx d.ttable (leAt h 16 4) (2 * total),
        meshTable s ctx d.ttable (leAt h 20 4) rev, tableAt s ctx d.ttable (leAt h 24 4) (32 * rev) with
      | .ok sb, some pb, some mesh, some bb =>
        let steps := (upTo n).map (stepOf sb)
        let place := if pb.isEmpty then [] else (upTo total).map (fun i => leAt pb (2 * i) 2)
        let bridge := wordsOf bb (bb.length / 4)
        let others := s.comps.filterMap (fun p => if p.2.part = part then p.2.tt else none)
        if ttStepsLegal d (leAt h 8 4) sb steps && place.all (placeLegal (rowsOf s part) d) &&
            noRepeat (mesh.map (fun p => p.1)) && meshPaths rev mesh && meshSources rev mesh && bridge.all bridgeEntryLegal &&
            others.all (fun o => !meets (busyRouters o.mesh) (busyRouters mesh) && !meets (busyLanes o.rev o.bridge) (busyLanes rev bridge)) then
          some
            { addr := d.ttable, rev := rev, steps := steps, deadline := leAt h 8 4, margin := leAt h 12 4, place := place,
              mesh := mesh, bridge := bridge, slipOff := leAt h 28 4, slipCap := leAt h 32 4,
              slipCnt := BitVec.ofNat 32 (leAt h 36 4), frame := 0, start := 0, step := 0, released := false,
              held := false, dropped := [], switched := [], done := [], finished := true, missed := false, overrun := false,
              admitted := false, waiting := false, zero := 0, phases := [] }
        else none
      | _, _, _, _ => none

/-- The ranges that reading the timetable of a company reads: the header, and, of one whose header is legal, its steps and tables. -/
def ttRanges (s : State) (ctx total addr : Nat) : List (Nat × Nat) :=
  match virtRead s ctx addr 64 with
  | .error _ => [(addr, 64)]
  | .ok h =>
    if !ttHeaderLegal h then [(addr, 64)]
    else
      let rev := leAt h 0 2
      let at_ (off n : Nat) : List (Nat × Nat) := if off = 0 then [] else [(addr + off, n)]
      let blocks := match virtRead s ctx (addr + leAt h 20 4) 4 with | .ok bs => min (leAt bs 0 4) 288 | .error _ => 0
      [(addr, 64), (addr + 64, 32 * leAt h 2 1)] ++ at_ (leAt h 16 4) (2 * total) ++ at_ (leAt h 20 4) (4 + blocks * (4 + 4 * rev)) ++
        at_ (leAt h 24 4) (32 * rev)

/-! ## Slips (R395, R398) -/

/-- Changes a company's timetable. -/
def State.modTt (s : State) (comp : Nat) (f : Timetable → Timetable) : State := s.modComp comp (fun c => { c with tt := c.tt.map f })

/-- The device writes into a company's record through its context; a write that fails is dropped. -/
def writeRecord (s : State) (c : Company) (a : Nat) (bs : List Byte) : State := (virtWrite s noCore c.ctx a bs).2

/-- Makes a slip record, which goes to the timetable's ring, if it has one, and counts it (R395, R398; log 39). -/
def makeSlip (s : State) (comp : Nat) (c : Company) (frame : Word) (step kind : Nat) : State :=
  match (s.comp comp).bind (fun c => c.tt) with
  | none => s
  | some tt =>
    let rec_ := numBytes 4 frame.toNat ++ numBytes 2 step ++ numBytes 1 kind ++ numBytes 1 0 ++ numBytes 8 s.now
    let s := if tt.slipOff = 0 then s else writeRecord s c (tt.addr + tt.slipOff + 16 * (tt.slipCnt.toNat % tt.slipCap)) rec_
    let n := tt.slipCnt + 1
    (writeRecord s c (tt.addr + 36) (numBytes 4 n.toNat)).modTt comp (fun tt => { tt with slipCnt := n })

/-! ## Companies (R88, R89, R391) -/

/-- A company identifier: nonzero and that of no live company (R88, log 11). -/
def companyId (s : State) : Nat :=
  let id (i : Nat) : Nat := 1 + (s.ids + i + Config.companyBase) % 4294967295
  id (((upTo s.comps.length).find? (fun i => !s.comps.any (fun p => p.1 == id i))).getD s.comps.length)

/-- The done word of a company, written as a store at device scope when DONE is nonzero, aligned and translates with W = 1
(R390). -/
def writeDone (s : State) (ctx : Nat) (done status : Dword) : State :=
  if done = 0 || done.toNat % 8 ≠ 0 then s
  else
    let x := walkTranslate s noCore ctx done .write
    match x.1 with
    | .ok _ _ _ => (virtWrite (drainStores x.2) noCore ctx done.toNat (numBytes 8 status.toNat)).2
    | _ => x.2

/-- A child's status reaches its parent (R89). -/
def tellParent (s : State) (parent : Option Nat) (id : Nat) (status : Dword) : State :=
  match parent with
  | none => s
  | some p => s.modComp p (fun c => { c with kids := c.kids.map (fun k => if k.comp = id then { k with status := some status } else k) })

/-- Submits the bytes of a descriptor, when they could be read: a live company, or one that is refused and retires at once
with status 0x100 (R88, R390). Answers its identifier. -/
def submit (s : State) (ctx part : Nat) (parent : Option Nat) (depth : Nat) (bytes : Option (List Byte)) : Nat × State :=
  let id := companyId s
  let order := s.ids
  let s := { s with ids := s.ids + 1 }
  let s := match parent with
    | some p => s.modComp p (fun c => { c with kids := c.kids ++ [({ comp := id, status := none } : Kid)] })
    | none => s
  let refuse (done : Dword) : State := tellParent (writeDone s ctx done 0x100) parent id 0x100
  match bytes with
  | none => (id, refuse 0)
  | some bs =>
    let d := descOf bs
    let total := d.gx * d.gy * d.gz
    if !descLegal (rowsOf s part) parent.isSome bs d then (id, refuse d.done)
    else
      let tt := if d.mode = 1 then readTimetable s ctx part total d else none
      let s := if d.mode = 1 then virtTouch s ctx (ttRanges s ctx total d.ttable) else s
      let refuse (done : Dword) : State := tellParent (writeDone s ctx done 0x100) parent id 0x100
      if d.mode = 1 && tt.isNone then (id, refuse d.done)
      else
        let c : Company :=
          { ctx := ctx, part := part, parent := parent, depth := depth, desc := d, next := 0,
            total := total, since := s.now, retired := 0, kids := [], firstCause := none, order := order, tt := tt }
        (id, { s with comps := kset s.comps id c })

/-- A context holds 1,024 live companies (R391). -/
def companyLimit (s : State) (ctx : Nat) : Bool := decide (1024 ≤ (s.comps.filter (fun p => p.2.ctx == ctx)).length)

end Sys2Proof.Machine
end

