-- ==== Sys2Proof/Machine/Task.lean ====
section
/-! DEFINITION. The TASK class: the task deque (04_work R78 to R84), launch, `cwait`, `exit` and `yield` (R86 to R90, R95),
vector register claims and the role register (05_queues R111 to R115). -/

namespace Sys2Proof.Machine

/-- A TASK slot other than `exit` and `yield`: PRIV with detail 2 in a handler troupe (19_traps R413), a stall in a
speculative one (17_sketch R375). -/
def atTask (s : State) (k : Focus → Troupe → State) : Res :=
  atUniform s (fun f t =>
    if t.handler then trapAll s f (openCause cPriv 2 f.issue) else if t.speculative then stallCommit s f else k f t)

/-! ## The deque (R78, R80 to R82) -/

/-- The virtual address of the ring record with a counter value. -/
def Deque.ringAt (q : Deque) (i : Nat) : Dword := q.base + BitVec.ofNat 64 (32 * (i % q.cap))

/-- The bytes of a record. -/
def recordBytes (r : List Dword) : List Byte := r.flatMap (fun d => numBytes 8 d.toNat)
/-- The record held by 32 bytes. -/
def recordOf (bs : List Byte) : List Dword := (upTo 4).map (fun i => BitVec.ofNat 64 (leAt bs (8 * i) 8))

/-- What a fork does: ring records to write, and the deque afterwards; none when the ring has no room (R80). -/
def forkPlan (q : Deque) (r : List Dword) : Option (List (Nat × List Dword) × Deque) :=
  let free := q.cap - (q.tail - q.head)
  if q.lifo then
    if 32 ≤ q.recs.length then
      if free < 16 then none
      else some ((q.recs.take 16).zipIdx.map (fun p => (q.tail + p.2, p.1)), { q with recs := q.recs.drop 16 ++ [r], tail := q.tail + 16 })
    else some ([], { q with recs := q.recs ++ [r] })
  else if q.head = q.tail && q.recs.length < 32 then some ([], { q with recs := q.recs ++ [r] })
  else if free < 1 then none
  else some ([(q.tail, r)], { q with tail := q.tail + 1 })

/-- The ring counters that a removal reads first (R81, R82). -/
def removalReads (q : Deque) (steal : Bool) : List Nat :=
  if q.head = q.tail then []
  else if q.lifo then
    if steal then [q.head]
    else if q.recs.isEmpty then
      let n := min 16 (q.tail - q.head)
      (upTo n).map (fun i => q.tail - n + i)
    else []
  else [q.head]

/-- The record that a removal obtains, and the deque afterwards, given the ring records read (R81, R82). -/
def removal (q : Deque) (steal : Bool) (rs : List (List Dword)) : Option (List Dword) × Deque :=
  if q.lifo then
    if steal then
      match rs with
      | r :: _ => (some r, { q with head := q.head + 1 })
      | [] => match q.recs with
        | r :: rest => (some r, { q with recs := rest })
        | [] => (none, q)
    else
      let recs := if q.recs.isEmpty then rs else q.recs
      match recs.getLast? with
      | some r => (some r, { q with recs := recs.dropLast, tail := if q.recs.isEmpty then q.tail - rs.length else q.tail })
      | none => (none, q)
  else
    match q.recs ++ rs with
    | r :: rest => (some r, { q with recs := rest, head := q.head + rs.length })
    | [] => (none, q)

/-- How the ring accesses of a deque operation end. -/
inductive RingEnd where
  | ok (l : List (Nat × Nat × Bool))
  | absent (ea : Dword) (level : Nat)
  | trap (c : Cause)
deriving DecidableEq, Repr

/-- Translates the ring accesses of a deque operation; the first that fails decides (R80, R236). -/
def ringReach (tk ctx : Nat) (need : Need) : List Dword → State → RingEnd × State
  | [], s => (.ok [], s)
  | ea :: rest, s =>
    let r := translateEa s (coreOf tk) ctx ea need
    match r.1 with
    | .perm d => (.trap { cause := cPagePerm, detail := d, value := ea }, r.2)
    | .unc d => (.trap { cause := cDataUnc, detail := d, value := ea }, r.2)
    | .absent l => (.absent ea l, r.2)
    | .ok pa key pm =>
      match memFault r.2 pa 32 with
      | some d => (.trap { cause := cDataUnc, detail := d, value := ea }, r.2)
      | none =>
        let q := ringReach tk ctx need rest r.2
        match q.1 with
        | .ok l => (.ok ((pa, key, pm) :: l), q.2)
        | e => (e, q.2)

/-- How a deque operation ends: done, no ring room, or stopped at a ring access. -/
inductive DequeEnd where
  | done
  | full
  | absent (ea : Dword) (level : Nat)
  | trap (c : Cause)
deriving DecidableEq, Repr

/-- A fork of a troupe: a release at device scope, its ring writes, and the new deque (R80, R84). -/
def doFork (s : State) (tk ctx : Nat) (r : List Dword) : DequeEnd × State :=
  let q := (s.core (coreOf tk)).deque
  match forkPlan q r with
  | none => (.full, s)
  | some (ws, q') =>
    let a := ringReach tk ctx .write (ws.map (fun p => q.ringAt p.1)) s
    match a.1 with
    | .trap c => (.trap c, a.2)
    | .absent ea l => (.absent ea l, a.2)
    | .ok pas =>
      let s := release a.2 tk
      let s := (List.zip pas ws).foldl (fun s p => (writeHome s (coreOf tk) ctx p.1.1 p.1.2.1 (recordBytes p.2.2)).2) s
      (.done, s.modCore (coreOf tk) (fun c => { c with deque := q' }))

/-- The outcome of a removal reaches the troupe: the record in g(D) to g(D + 3), and pN in every thread (R81, R82). -/
def finishTake (s : State) (tk d p : Nat) (r : Option (List Dword)) : State :=
  let s := match r with
    | some ws => s.modTroupe tk (fun t => ws.zipIdx.foldl (fun (t : Troupe) (w : Dword × Nat) => t.gwrite (d - 32 + w.2) w.1) t)
    | none => s
  s.modTroupe tk (fun t => { t with threads := t.threads.map (fun (th : Thread) => th.setPred p r.isSome) })

/-- A removal of a troupe from a core's deque: ring reads, the record, an acquire at device scope (R81, R82, R84). -/
def doTake (s : State) (tk ctx core : Nat) (steal : Bool) (d p : Nat) : DequeEnd × State :=
  let q := (s.core core).deque
  let a := ringReach tk ctx .read ((removalReads q steal).map q.ringAt) s
  match a.1 with
  | .trap c => (.trap c, a.2)
  | .absent ea l => (.absent ea l, a.2)
  | .ok pas =>
    let read (a : List (List Dword) × State) (x : Nat × Nat × Bool) : List (List Dword) × State :=
      let h := homeFetch a.2 (unitOf tk) (coreOf tk) ctx x.1 x.2.1 32 x.2.2
      (a.1 ++ [match h.1 with | .ok bs => recordOf bs | .error _ => recordOf []], h.2)
    let rs := pas.foldl read ([], a.2)
    let r := removal q steal rs.1
    let s := rs.2.modCore core (fun c => { c with deque := r.2 })
    let s := finishTake s tk d p r.1
    (.done, match s.troupe tk with | some t => if r.1.isSome then acquireAll s tk t true else s | none => s)

/-- The deque slot of a focus ends: it commits, traps in every thread, or parks with one entry (R80, R81, R241). -/
def endDeque (s : State) (f : Focus) (t : Troupe) (act : Dword → Act) (e : DequeEnd) (done : State → State) : State :=
  match e with
  | .done => done s
  | .full => trapAll s f (openCause cSpillFull 0 f.issue)
  | .trap c => trapAll s f c
  | .absent ea l =>
    parkWithRecord s f t [({ thread := leaderOf f.run, faults := 1, act := act ea }, l)] []

/-- The record in g(A) to g(A + 3). -/
def recordAt (f : Focus) (a : BitVec 6) : List Dword := (upTo 4).map (fun i => f.latch.gread (a.toNat - 32 + i))

/-- `fork` (R80): a release at device scope (R84). -/
def execFork (x : SrcF) (s : State) : Res :=
  atTask s (fun f t => afterRelease s f t (fun s =>
    let r := recordAt f x.a
    let e := doFork s f.troupe t.ctx r
    endDeque e.2 f t (.fork r) e.1 id))

/-- `take` (R81, R93): the troupe waits until its record is written. -/
def execTake (x : TakeF) (s : State) : Res :=
  atTask s (fun f t =>
    if f.acted then s
    else
      let e := doTake s f.troupe t.ctx (coreOf f.troupe) false x.d.toNat x.pred.toNat
      endDeque e.2 f t (.take x.d.toNat x.pred.toNat) e.1 (fun s => holdReply s f))

/-- A victim core can be robbed: it exists, belongs to the thief's partition and runs its context (R82). -/
def robbable (s : State) (tk ctx : Nat) (a : Dword) : Bool :=
  let v := (a.extractLsb' 0 11).toNat
  a.extractLsb' 11 53 == 0 && decide (v ≤ 1199) &&
  (match partOf s (unitOf tk), partOf s (v / 4) with
   | some p, some q => p.1 == q.1 && q.2.ctx == ctx
   | _, _ => false)

/-- `steal` (R82): the troupe waits only for its reply. The steal reaches the victim's deque at the end of a later cycle, after the
forks and takes of that cycle (R83). -/
def execSteal (x : StealF) (s : State) : Res :=
  atTask s (fun f t =>
    if !f.acted then holdReply s f
    else
      let a := uniformVal f x.a
      if robbable s f.troupe t.ctx a then
        let v := (a.extractLsb' 0 11).toNat
        let e := doTake s f.troupe t.ctx v true x.d.toNat x.pred.toNat
        endDeque e.2 f t (.steal v x.d.toNat x.pred.toNat) e.1 id
      else finishTake s f.troupe x.d.toNat x.pred.toNat none)

/-- `dqconf` (R79). -/
def execDqconf (x : DabF) (s : State) : Res :=
  atTask s (fun f _ =>
    let a := uniformVal f x.a
    let b := uniformVal f x.b
    let c := (b.extractLsb' 32 32).toNat
    let q := (s.core (coreOf f.troupe)).deque
    if a.toNat % 32 ≠ 0 || b.extractLsb' 1 31 != 0 || (c ≠ 0 && (c % 32 ≠ 0 || 2 ^ 24 < c)) then writeG s f x.d 2
    else if !q.recs.isEmpty || q.head ≠ q.tail then writeG s f x.d 1
    else writeG (s.modCore (coreOf f.troupe) (fun k => { k with deque :=
      { recs := [], lifo := b.getLsbD 0, base := a, cap := c, head := 0, tail := 0 } })) f x.d 0)

/-- `dqcount` (R83). -/
def execDqcount (x : DstF) (s : State) : Res :=
  atTask s (fun f _ =>
    let q := (s.core (coreOf f.troupe)).deque
    writeG s f x.d (BitVec.ofNat 64 (q.recs.length + (q.tail - q.head))))

/-! ## Companies (R86, R88, R90, R95) -/

/-- `launch` (R88, R391). -/
def execLaunch (x : DaF) (s : State) : Res :=
  atTask s (fun f t =>
    let a := uniformVal f x.a
    match s.comp t.comp with
    | none => trapAll s f (openCause cDepth 0 f.issue)
    | some c =>
      if 10 ≤ c.depth then trapAll s f (openCause cDepth 0 f.issue)
      else if a.toNat % 64 ≠ 0 then trapAll s f { cause := cAlign, detail := 0, value := a }
      else if companyLimit s t.ctx then holdActing s f .launch
      else afterRelease s f t (fun s =>
        let h := virtFetch s (coreOf f.troupe) t.ctx a.toNat 64
        let r := submit h.2 t.ctx c.part (some t.comp) (c.depth + 1) h.1.toOption
        (writeG r.2 f x.d (BitVec.ofNat 64 r.1)).modTroupe f.troupe (fun t => { t with kids := t.kids ++ [r.1] })))

/-- The status that `cwait` writes, once it need not wait: a child's, or the first nonzero of all (R89, R90). -/
def cwaitStatus (s : State) (t : Troupe) (who : Option Nat) : Option Dword :=
  let kids := match s.comp t.comp with | some c => c.kids | none => []
  let statusOf (id : Nat) : Option (Option Dword) := (kids.find? (fun k => k.comp == id)).map (fun k => k.status)
  match who with
  | some id => match statusOf id with
    | none => some 0xFFFFFFFFFFFFFFFF
    | some st => st
  | none =>
    let l := t.kids.map (fun id => (statusOf id).getD (some 0))
    if l.all (fun x => x.isSome) then some ((l.find? (fun x => x != some 0)).getD (some 0) |>.getD 0) else none

/-- `cwait` (R90). -/
def execCwait (x : DaF) (s : State) : Res :=
  atTask s (fun f t =>
    let who := if x.a = 56 then none else some (uniformVal f x.a).toNat
    match cwaitStatus s t who with
    | some v => acquireAll (writeG s f x.d v) f.troupe t true
    | none => holdActing s f (.cwait who s.now))

/-- `exit` (R86, R413). -/
def execExit (_ : StopF) (s : State) : Res :=
  atUniform s (fun f t =>
    if t.handler then endHandler s f.troupe .kill
    else if t.speculative then stallCommit s f
    else endTroupe s f.troupe)

/-- `yield` (R95). -/
def execYield (_ : StopF) (s : State) : Res :=
  atUniform s (fun f t =>
    if t.speculative then stallCommit s f else s.modTroupe f.troupe (fun t => { t with yielded := true }))

/-! ## Claims and the role register (R111 to R115) -/

/-- The free vector registers of a core's pool (R111). -/
def freeVregs (s : State) (core : Nat) : Nat :=
  128 - (s.troupes.filter (fun p => coreOf p.1 == core)).foldl (fun n p => n + p.2.vclaim) 0

/-- `vclaim` (R112): registers enter a claim with every bit zero. -/
def execVclaim (x : DaF) (s : State) : Res :=
  atTask s (fun f t =>
    let n := (uniformVal f x.a).toNat
    if 32 < n || n % 8 ≠ 0 || n < t.vclaim then writeG s f x.d 2
    else if freeVregs s (coreOf f.troupe) < n - t.vclaim then writeG s f x.d 1
    else writeG (s.modTroupe f.troupe (fun t => { t with vclaim := n })) f x.d 0)

/-- The cycle in which the last VMEM operation of a troupe that has not completed and names a register from n to claim − 1 will complete. -/
def vmemEnd (s : State) (tk n claim : Nat) : Option Nat :=
  (s.agenda.filterMap (fun e => match e.2 with
      | .vmemComplete k o => if k = tk && o.regs.any (fun r => decide (n ≤ r) && decide (r < claim)) then some e.1 else none
      | _ => none)).foldl
    (fun (m : Option Nat) c => some (max c (m.getD 0))) none

/-- `vgive` (R112): contents given back are lost. It waits for the VMEM operations of the troupe that name one of the registers given
back; every VEC, MAT and PLANE operation has written its registers when a later slot runs (R168, R206). -/
def execVgive (x : DaF) (s : State) : Res :=
  atTask s (fun f t =>
    let n := (uniformVal f x.a).toNat
    if t.vclaim < n || n % 8 ≠ 0 then writeG s f x.d 2
    else match vmemEnd s f.troupe n t.vclaim with
    | some c => holdActing s f (.until c)
    | none => writeG (s.modTroupe f.troupe (fun t => { t with vclaim := n, vregs := t.vregs.filter (fun p => decide (p.1 < n)), badVregs := t.badVregs.filter (fun r => decide (r < n)) })) f x.d 0)

/-- The role register (R114). -/
def roleValue (s : State) (tk : Nat) (t : Troupe) : Dword :=
  BitVec.ofNat 64 (s.genOf tk % 16 * 2 ^ 60 + slotOf tk % 32 * 2 ^ 55 + t.label.toNat * 2 ^ 40 + t.wopen.toNat)

/-- `role` (R115). -/
def execRole (x : DaF) (s : State) : Res :=
  atTask s (fun f t =>
    let v := uniformVal f x.a
    (writeG s f x.d (roleValue s f.troupe t)).modTroupe f.troupe (fun t =>
      { t with label := v.extractLsb' 40 8, wopen := v.extractLsb' 0 32 }))

end Sys2Proof.Machine
end

