-- ==== Sys2Proof/Machine/Ordered.lean ====
section
/-! DEFINITION. Ordered sections: the key table and its spill area, the ORD class, gaps and cycles (15_ordered R321 to R341). -/

namespace Sys2Proof.Machine

/-! ## The key table (R321 to R327) -/

/-- H of a key of a context (R323). -/
def keyHash (ctx : Nat) (key : Word) : Nat := (key.toNat * 0x9E3779B1 + ctx * 0x85EBCA6B) % 2 ^ 32
/-- The home slice of a key: 48 × die + slice (R323). -/
def keyHome (ctx : Nat) (key : Word) : Nat := 48 * (keyHash ctx key / 2 ^ 31) + keyHash ctx key / 2 ^ 16 % 2 ^ 15 % 48

/-- The spill area of a context: base and capacity in records; none without one (R326). -/
def spillArea (c : Ctx) : Option (Nat × Nat) :=
  let base := (c.osspill.extractLsb' 12 44).toNat * 4096
  if base = 0 then none else some (base, 2 ^ ((c.osspill.extractLsb' 0 4).toNat + 7))

/-- The 32 bytes of a spill record (R327). -/
def spillBytes (e : Section) : List Byte :=
  numBytes 4 e.key.toNat ++ numBytes 4 e.e.toNat ++ numBytes 1 (1 + (if e.held then 2 else 0) + (if e.abandoned then 4 else 0)) ++
  numBytes 3 e.holder.toNat ++ numBytes 4 0 ++ numBytes 8 (e.gapStart.getD 0) ++ numBytes 8 0

/-- An entry with the values that its spill record holds; none when software has cleared USED (R327). An entry that has been
abandoned since its record was written is ahead of the record. -/
def readSpill (e : Section) (bs : List Byte) : Option Section :=
  let fl := leAt bs 8 1
  if fl % 2 = 0 then none
  else if e.abandoned && bs == spillBytes { e with held := true, abandoned := false, gapStart := none } then some e
  else some { e with key := BitVec.ofNat 32 (leAt bs 0 4), e := BitVec.ofNat 32 (leAt bs 4 4), held := fl / 2 % 2 == 1,
                     abandoned := fl / 4 % 2 == 1, holder := BitVec.ofNat 24 (leAt bs 9 3),
                     owner := if leAt bs 9 3 = e.holder.toNat then e.owner else 64 * (leAt bs 9 3 % 2048) + leAt bs 9 3 / 2048 % 32,
                     gapStart := e.gapStart.map (fun _ => leAt bs 16 8) }

/-- The record address of a spilled entry. -/
def spillAddr (s : State) (e : Section) : Option Nat :=
  match e.spilled, spillArea (s.ctx e.ctx) with
  | some j, some (base, _) => some (base + 32 * j)
  | _, _ => none

/-- An entry as it now stands: a spilled one as its record says (R324, R327). -/
def sectionNow (s : State) (e : Section) : Option Section :=
  match spillAddr s e with | some a => readSpill e (physList s 0 a 32) | none => some e

/-- Reads every spill record of a context back into its entry (R324, R327). -/
def syncSpill (s : State) (ctx : Nat) : State :=
  { s with sections := s.sections.filterMap (fun e => if e.ctx = ctx then sectionNow s e else some e) }

/-- Writes the spill record of a spilled entry of a context. -/
def writeSpill (s : State) (ctx : Nat) : State :=
  s.sections.foldl (fun s e => if e.ctx = ctx then (match spillAddr s e with
    | some a => if physList s 0 a 32 = spillBytes e then s else physWriteList s 0 a (spillBytes e)
    | none => s) else s) s

/-- The entry of a key. -/
def findSection (s : State) (ctx : Nat) (key : Word) : Option Section := s.sections.find? (fun e => e.ctx == ctx && e.key == key)
def modSection (s : State) (ctx : Nat) (key : Word) (f : Section → Section) : State :=
  { s with sections := s.sections.map (fun e => if e.ctx = ctx && e.key = key then f e else e) }

/-- Table entries that a context holds: USED of `osquota` (R325). -/
def tableUsed (s : State) (ctx : Nat) : Nat := (s.sections.filter (fun e => e.ctx == ctx && e.spilled.isNone)).length

/-- A new entry for a key with E := v: in the table, or in the spill area; none when neither has room (R324, R327). -/
def createSection (s : State) (ctx : Nat) (key v : Word) : Option State :=
  let home := keyHome ctx key
  let res := s.sections.filter (fun e => e.spilled.isNone)
  let inTable := decide (tableUsed s ctx < (s.ctx ctx).osquota.toNat) &&
    decide ((res.filter (fun e => keyHome e.ctx e.key == home)).length < 256) &&
    decide ((res.filter (fun e => keyHome e.ctx e.key / 48 == home / 48)).length < 8192)
  let e : Section :=
    { ctx := ctx, key := key, e := v, held := false, holder := 0, abandoned := false, gapStart := none, spilled := none }
  if inTable then some { s with sections := s.sections ++ [e] }
  else match spillArea (s.ctx ctx) with
    | none => none
    | some (base, cap) =>
      let start := keyHash ctx key % cap
      let used (j : Nat) : Bool :=
        s.sections.any (fun e => e.ctx == ctx && e.spilled == some j) || physNat s 0 (base + 32 * j + 8) 1 % 2 == 1
      match (upTo cap).find? (fun i => !used ((start + i) % cap)) with
      | none => none
      | some i => some { s with sections := s.sections ++ [{ e with spilled := some ((start + i) % cap) }] }

/-- HOLDER of a thread (R321). -/
def holderOf (s : State) (tk thread : Nat) : BitVec 24 :=
  BitVec.ofNat 24 (coreOf tk + 2048 * (slotOf tk % 32) + 65536 * thread + 1048576 * (s.genOf tk % 16))

/-- A section is held by a thread of a troupe of its context: HOLDER names no troupe of another (R2, R327). -/
def heldByTroupe (s : State) (tk : Nat) (e : Section) : Bool :=
  e.held && e.owner == tk && (e.holder &&& 0xF0FFFF) == holderOf s tk 0 && (match s.troupe tk with | some t => t.ctx == e.ctx | none => false)

/-- The waiters of a troupe that waits in `osenter`. -/
def waitersOf (s : State) (tk : Nat) : List (Nat × Word × Word) :=
  match kfind s.holds tk with
  | some h => (match h.wait with | .osenter ws => ws | _ => [])
  | none => []

/-- A key of a context has a waiter. -/
def hasWaiter (s : State) (ctx : Nat) (key : Word) : Bool :=
  s.holds.any (fun h => (match h.2.wait with | .osenter ws => ws.any (fun w => w.2.1 == key) | _ => false) && h.2.focus.latch.ctx == ctx)

/-- Opens and closes gaps: a gap is open while an entry has a waiter and no holder (R338). -/
def regap (s : State) : State :=
  { s with sections := s.sections.map (fun e =>
      if hasWaiter s e.ctx e.key && !e.held then { e with gapStart := e.gapStart.orElse (fun _ => some s.now) } else { e with gapStart := none }) }

/-- An ORD operation of a context between the reading and the writing back of its spilled entries. A gap whose waiters have gone
otherwise than by an ORD operation has closed (R338, R341). -/
def ordSync (s : State) (ctx : Nat) : State := if s.sections.any (fun e => e.ctx == ctx && e.spilled.isSome) then syncSpill s ctx else s
def ordBegin (s : State) (ctx : Nat) : State := regap (ordSync s ctx)
def ordEnd (s : State) (ctx : Nat) : State := let s := regap s; if s.sections.any (fun e => e.ctx == ctx && e.spilled.isSome) then writeSpill s ctx else s

/-! ## The pass (R322, R329) -/

/-- What the pass finds for a thread. -/
inductive Grant where
  | granted
  | stale (detail : Nat) (e : Word)
  | future
  | abandoned
  | dropped
  | full
deriving DecidableEq, Repr

/-- Evaluates one request against the entry as earlier threads have left it; `create` makes an absent entry (R321, R329,
R339). -/
def requestOne (s : State) (tk ctx thread : Nat) (key num : Word) (create : Bool) : Grant × State :=
  let made : Option State := match findSection s ctx key with
    | some _ => some s
    | none => if create then createSection s ctx key 0 else none
  match made with
  | none => (if create then .full else .dropped, s)
  | some s => match findSection s ctx key with
    | none => (.full, s)
    | some e =>
      let d := (num - e.e).toNat
      if 2 ^ 31 ≤ d then (.stale 1 e.e, s)
      else if d = 0 then
        if e.held then (.stale 2 e.e, s)
        else (.granted, modSection s ctx key (fun e => { e with held := true, holder := holderOf s tk thread, owner := tk, abandoned := false }))
      else if e.abandoned then (.abandoned, s)
      else (.future, s)

/-- A request of a thread after its sources have been read. -/
structure OrdReq where
  thread : Nat
  key : Word
  num : Word
  th : Thread
deriving DecidableEq, Repr

/-- The pass over the requests of a slot, in increasing thread index. -/
def passAll (tk ctx : Nat) (create : Bool) : List OrdReq → State → List (OrdReq × Grant) × State
  | [], s => ([], s)
  | r :: rest, s =>
    let g := requestOne s tk ctx r.thread r.key r.num create
    let q := passAll tk ctx create rest g.2
    ((r, g.1) :: q.1, q.2)

/-- A thread that was not granted is self-blocked when its own troupe holds its key (R329). -/
def selfBlocked (s : State) (tk ctx : Nat) (key : Word) : Bool :=
  match findSection s ctx key with | some e => heldByTroupe s tk e | none => false

/-- The troupes that hold the keys on which a list of waiters waits (R337). -/
def holdersOf (s : State) (tk ctx : Nat) (keys : List Word) : List Nat :=
  keys.filterMap (fun k => match findSection s ctx k with
    | some e => if e.owner != tk && heldByTroupe s e.owner e then some e.owner else none
    | none => none)

/-- The holder relation leads from a list of troupes to one troupe, through holders that wait themselves (R337). -/
def leadsTo (s : State) (ctx goal : Nat) : Nat → List Nat → List Nat → Bool
  | 0, _, _ => false
  | _, _, [] => false
  | fuel + 1, seen, k :: rest =>
    if k = goal then true
    else if seen.contains k then leadsTo s ctx goal fuel seen rest
    else leadsTo s ctx goal fuel (k :: seen) (holdersOf s k ctx ((waitersOf s k).map (fun w => w.2.1)) ++ rest)

/-- A troupe that is about to wait would close a cycle (R337). -/
def closesCycle (s : State) (tk ctx : Nat) (keys : List Word) : Bool :=
  leadsTo s ctx tk (16 * (s.troupes.length + 2)) [] (holdersOf s tk ctx keys)

/-! ## `osenter` (R330) -/

/-- Reads key and number of a thread (R328). -/
def ordSources (f : Focus) (s : State) (a b : BitVec 6) (ka kb : Bool) (i : Nat) : Except Cause OrdReq :=
  match atomSources f (f.issue + i) i (liveThread s f i) a b 56 ka kb false with
  | .error c => .error c
  | .ok (av, bv, _, th) => .ok { thread := i, key := av.lo, num := bv, th := th }

/-- The cause that a thread of `osenter` meets for what the pass found; waiters of a gap timeout are named in `gap`. -/
def enterCause (cyc : Nat) (key : Word) : Grant → Option Cause
  | .stale d e => some { cause := cOrdStale, detail := d, value := e.setWidth 64 }
  | .abandoned => some (openCause cOrdGap 1 cyc)
  | .dropped => some { cause := cOrdGap, detail := 2, value := key.setWidth 64 }
  | .full => some (openCause cSpillFull 0 cyc)
  | _ => none

/-- Commits `osenter`: sources popped and pD written in the threads without a cause, an acquire for granted threads (R330,
R333), the split for the others. -/
def commitEnter (s : State) (f : Focus) (t : Troupe) (x : CmpF) (rs : List (OrdReq × Grant)) (faults : List (Nat × Cause)) : State :=
  let bad := faults.map (fun p => p.1)
  let s := rs.foldl (fun s p => if bad.contains p.1.thread then s
    else putThread s f p.1.thread (p.1.th.setPred x.d.toNat (p.2 == .granted))) s
  let s := if rs.any (fun p => p.2 == .granted) then acquireAll s f.troupe t (wideScope s t.ctx (unitOf f.troupe) f.latch.scopesel.toNat) else s
  holdAnswer (ordEnd s t.ctx) f faults

/-- `osenter` from its start, or the pass made again for its waiters (R330): an absent entry was dropped then, and the threads that
met a cause before keep it (`Focus.sent`). A waiter that meets ORD_GAP ends the wait of all. `gap` lists the keys whose gaps have timed
out, each with its E (R338). A troupe that waits already meets no cycle (R337). -/
def enterCore (s : State) (f : Focus) (t : Troupe) (x : CmpF) (gap : List (Word × Word)) : State :=
  let ths := (threadsOf f.run).filter (fun i => !f.sent.any (fun y => y.thread == i))
  let s := if f.resuming then ordSync s t.ctx else ordBegin s t.ctx
  let reads := ths.map (fun i => (i, ordSources f s x.a x.b (x.ka == 1) (x.kb == 1) i))
  let bad := reads.filterMap (fun p => match p.2 with | .error c => some (p.1, c) | .ok _ => none)
  let reqs := reads.filterMap (fun p => match p.2 with | .ok r => some r | .error _ => none)
  let p := passAll f.troupe t.ctx (!f.resuming) reqs s
  let faults := Sent.causes f.sent ++ bad ++ p.1.filterMap (fun q => (enterCause f.issue q.1.key q.2).map (fun c => (q.1.thread, c)))
  let blocked := p.1.filter (fun q => q.2 == .future && selfBlocked p.2 f.troupe t.ctx q.1.key)
  let waiters := p.1.filter (fun q => q.2 == .future && !selfBlocked p.2 f.troupe t.ctx q.1.key)
  let gapped := p.1.any (fun q => q.2 == .abandoned || q.2 == .dropped)
  if p.1.any (fun q => q.2 == .granted) || gapped || !blocked.isEmpty || waiters.isEmpty then commitEnter p.2 f t x p.1 faults
  else match gap with
    | _ :: _ =>
      commitEnter p.2 f t x p.1 (faults ++ waiters.filterMap (fun q => (gap.find? (fun g => g.1 == q.1.key)).map (fun g =>
        (q.1.thread, { cause := cOrdGap, detail := 0, value := g.2.setWidth 64 }))))
    | [] =>
      if !f.resuming && closesCycle p.2 f.troupe t.ctx (waiters.map (fun q => q.1.key)) then
        commitEnter p.2 f t x p.1 (faults ++ waiters.map (fun q => (q.1.thread, { cause := cOrdCycle, detail := 0, value := q.1.key.setWidth 64 })))
      else
        ordEnd (holdActing p.2 { f with sent := faults.map (fun q => Sent.bad q.1 q.2) } (.osenter (waiters.map (fun q => (q.1.thread, q.1.key, q.1.num))))) t.ctx

/-- `osenter` (R330). -/
def execOsenter (x : CmpF) (s : State) : Res :=
  atSlot s (fun f t =>
    if f.acted then answered s f else if f.run = 0 then s else if t.speculative then stallCommit s f else enterCore s f t x [])

/-- A waiter may leave its wait: its request is no longer a future one on a live entry (R330, R339). -/
def waiterWakes (s : State) (ctx : Nat) (w : Nat × Word × Word) : Bool :=
  match (findSection s ctx w.2.1).bind (sectionNow s) with
  | none => true
  | some e =>
    let d := (w.2.2 - e.e).toNat
    e.abandoned || decide (2 ^ 31 ≤ d) || d == 0

/-- A gap has been open longer than GAPT (R338). -/
def gapExpired (s : State) (e : Section) : Bool :=
  let g := ((s.ctx e.ctx).ctxcfg.extractLsb' 24 16).toNat
  match sectionNow s e with
  | some { gapStart := some t0, held := false, .. } => g != 0 && decide (t0 + 1800 * g < s.now) && hasWaiter s e.ctx e.key
  | _ => false

/-- The fields of an `osenter` slot (R328). -/
def enterFields (w : Word) : CmpF :=
  { stop := w.extractLsb' 31 1, d := w.extractLsb' 20 3, a := w.extractLsb' 14 6, b := w.extractLsb' 8 6, port := w.extractLsb' 6 2,
    ka := w.extractLsb' 5 1, kb := w.extractLsb' 4 1 }

/-- Traps the waiters of one troupe on the keys whose gaps have timed out. -/
def trapGap (s : State) (tk : Nat) (gaps : List (Word × Word)) : State :=
  match kfind s.holds tk, s.troupe tk with
  | some h, some t =>
    let s := { (s.modTroupe tk (fun t => { t with wait := none })) with holds := kdel s.holds tk }
    let f := { h.focus with resuming := true }
    enterCore s f t (enterFields (readSlot s f).2) gaps
  | _, _ => s

/-- GAP_TIMEOUT (R338): the waiters of every gap open longer than GAPT trap, and its GAPSTART restarts. -/
def execGapTimeout (s : State) : Res :=
  let old := s.sections.filter (gapExpired s)
  let s := (old.map (fun e => e.ctx)).eraseDups.foldl ordSync s
  let gaps (ctx : Nat) : List (Word × Word) := (s.sections.filter (fun e => old.any (fun o => o.ctx == ctx && e.ctx == ctx && o.key == e.key))).map (fun e => (e.key, e.e))
  let tks := (s.holds.filter (fun h => (waitersOf s h.1).any (fun w => (gaps h.2.focus.latch.ctx).any (fun g => g.1 == w.2.1)))).map (fun h => h.1)
  let s' := tks.foldl (fun u tk => trapGap u tk (gaps (match kfind s.holds tk with | some h => h.focus.latch.ctx | none => 4096))) s
  .next (old.foldl (fun s e =>
    writeSpill (modSection s e.ctx e.key (fun e => { e with gapStart := e.gapStart.map (fun _ => s.now) })) e.ctx) s')

/-! ## The other ORD slots -/

/-- Writes a destination of a thread and commits it; a g register keeps the value of a higher thread that has committed the slot
before (R106). -/
def commitWord (s : State) (f : Focus) (i : Nat) (d : BitVec 6) (th : Thread) (v : Word) : Except Cause State :=
  match writeDst (f.issue + i) th d (v.setWidth 64) with
  | .error c => .error c
  | .ok x => .ok ((putThread s f i x.th).modTroupe f.troupe (fun t => match x.g with | some (g, w) => if f.above i then t else t.gwrite g w | none => t))

/-- Runs an ORD slot in its threads in turn; each either commits or meets a cause (R328, R336). -/
def ordSlot (s : State) (f : Focus) (t : Troupe) (uniform : Bool) (body : State → Nat → Except Cause State) : State :=
  if f.acted then answered s f
  else if f.run = 0 then s
  else
    let s := ordBegin s t.ctx
    let r := (slotThreads f uniform).foldl (fun (acc : State × List (Nat × Cause)) i => match body acc.1 i with
      | .ok s => (s, acc.2)
      | .error c => (acc.1, acc.2 ++ [(i, c)])) (s, [])
    holdAnswer (ordEnd r.1 t.ctx) f (spreadFaults f uniform r.2)

/-- The pass of `ostry` over its threads (R329). A thread that has no room for its status is granted nothing (R336). -/
def tryPass (f : Focus) (t : Troupe) (x : RegF) : List Nat → State → List (Nat × Except Cause (OrdReq × Grant)) × State
  | [], s => ([], s)
  | i :: rest, s =>
    let r : Except Cause (OrdReq × Grant) × State := match ordSources f s x.a x.b (x.ka == 1) (x.kb == 1) i with
      | .error c => (.error c, s)
      | .ok r =>
        let g := requestOne s f.troupe t.ctx i r.key r.num true
        if g.1 = .full then (.error (openCause cSpillFull 0 f.issue), s)
        else match writeDst (f.issue + i) r.th x.d 0 with
          | .error c => (.error c, s)
          | .ok _ => (.ok (r, g.1), g.2)
    let q := tryPass f t x rest r.2
    ((i, r.1) :: q.1, q.2)

/-- The status of a thread after the pass (R331). -/
def tryStatus (s : State) (tk ctx : Nat) (key : Word) : Grant → Word
  | .granted => 0
  | .stale _ _ => 3
  | _ => if selfBlocked s tk ctx key then 2 else 1

/-- `ostry` (R331): the pass of R329, and then the status of every thread as the whole pass left the entries. -/
def execOstry (x : RegF) (s : State) : Res :=
  atSlot s (fun f t =>
    if f.acted then answered s f
    else if f.run = 0 then s
    else if t.speculative then stallCommit s f
    else
      let uniform := uniformNames [x.d, x.a, x.b]
      let p := tryPass f t x (slotThreads f uniform) (ordBegin s t.ctx)
      let granted := p.1.any (fun q => match q.2 with | .ok (_, g) => g == .granted | .error _ => false)
      let s := if granted then acquireAll p.2 f.troupe t (wideScope p.2 t.ctx (unitOf f.troupe) f.latch.scopesel.toNat) else p.2
      let r := p.1.foldl (fun (acc : State × List (Nat × Cause)) q => match q.2 with
        | .error c => (acc.1, acc.2 ++ [(q.1, c)])
        | .ok (r, g) => match commitWord acc.1 f q.1 x.d r.th (tryStatus p.2 f.troupe t.ctx r.key g) with
          | .ok s => (s, acc.2)
          | .error c => (acc.1, acc.2 ++ [(q.1, c)])) (s, [])
      holdAnswer (ordEnd r.1 t.ctx) f (spreadFaults f uniform r.2))

/-- `osinit` (R334). -/
def execOsinit (x : RegF) (s : State) : Res :=
  atSlot s (fun f t =>
    if t.speculative && f.run != 0 then stallCommit s f
    else ordSlot s f t (uniformNames [x.d, x.a, x.b]) (fun s i =>
      match ordSources f s x.a x.b (x.ka == 1) (x.kb == 1) i with
      | .error c => .error c
      | .ok r => match findSection s t.ctx r.key with
        | some e =>
          if e.held || hasWaiter s t.ctx r.key then commitWord s f i x.d r.th 1
          else commitWord (modSection s t.ctx r.key (fun e => { e with e := r.num, abandoned := false })) f i x.d r.th 0
        | none => match createSection s t.ctx r.key r.num with
          | none => .error (openCause cSpillFull 0 f.issue)
          | some s => commitWord s f i x.d r.th 0))

/-- `osleave` (R332). -/
def execOsleave (x : KeyF) (s : State) : Res :=
  atSlot s (fun f t =>
    if t.speculative && f.run != 0 then stallCommit s f
    else
      let go (s : State) : State := ordSlot s f t (uniformNames [x.a]) (fun s i =>
        match ordSources f s x.a 56 (x.ka == 1) false i with
        | .error c => .error c
        | .ok r =>
          let mine : Bool := match findSection s t.ctx r.key with | some e => e.holder == holderOf s f.troupe i && e.owner == f.troupe | none => false
          if mine then .ok (putThread (modSection s t.ctx r.key (fun e => { e with e := e.e + 1, held := false, gapStart := none })) f i r.th)
          else .error { cause := cOrdStale, detail := 3, value := r.key.setWidth 64 })
      if f.acted || f.run = 0 then go s else afterRelease s f t go)

/-- The flags word of `osquery` (R335). -/
def queryFlags (s : State) (tk thread : Nat) (e : Section) : Word :=
  BitVec.ofNat 32 (1 + (if e.held then 2 else 0) + (if e.held && e.holder == holderOf s tk thread && e.owner == tk then 4 else 0)
    + (if hasWaiter s e.ctx e.key then 8 else 0) + (if e.spilled.isSome then 16 else 0) + (if e.abandoned then 32 else 0))

/-- `osquery` (R335); a speculative troupe performs it (R375). -/
def execOsquery (x : QueryF) (s : State) : Res :=
  atSlot s (fun f t => ordSlot s f t (uniformNames [x.d, x.a]) (fun s i =>
    match ordSources f s x.a 56 (x.ka == 1) false i with
    | .error c => .error c
    | .ok r =>
      let v : Word := match findSection s t.ctx r.key with
        | none => 0
        | some e => if x.idx = 0 then e.e else queryFlags s f.troupe i e
      commitWord s f i x.d r.th v))

/-- Removes an entry and frees its record (R334). -/
def dropSection (s : State) (e : Section) : State :=
  let s := match spillAddr s e with | some a => physWriteList s 0 (a + 8) (numBytes 1 0) | none => s
  { s with sections := s.sections.filter (fun x => !(x.ctx == e.ctx && x.key == e.key)) }

/-- `osdrop` (R334). -/
def execOsdrop (x : UnF) (s : State) : Res :=
  atSlot s (fun f t =>
    if t.speculative && f.run != 0 then stallCommit s f
    else ordSlot s f t (uniformNames [x.d, x.a]) (fun s i =>
      match ordSources f s x.a 56 (x.ka == 1) false i with
      | .error c => .error c
      | .ok r => match findSection s t.ctx r.key with
        | none => commitWord s f i x.d r.th 2
        | some e => if e.held then commitWord s f i x.d r.th 1 else commitWord (dropSection s e) f i x.d r.th 0))

end Sys2Proof.Machine
end

