-- ==== Sys2Proof/Machine/Engines.lean ====
section
/-! DEFINITION. The ENG class, acceptance of engine commands, the copiers, the bridge streamer, the collectives and the frame
presenter, completion and promises (16_engines R348 to R366; 21_frames R450, R451; 25_prog_denoise R470). The compare of engine 4
is in Sketch. -/

namespace Sys2Proof.Machine

/-! ## Acceptance (R349 to R353, R361, R451) -/

/-- An engine serves a core (R349). -/
def serves (core e : Nat) : Bool := decide (e ≤ 5) && !(e == 2 && !isGuide (core / 4)) && !(e == 4 && isGuide (core / 4))

/-- The queue of an engine for a core. -/
def Core.engine (c : Core) (e : Nat) : List Cmd := kget [] c.engines e

/-- Word i of a command, as a number, and a pair of words as a 64-bit value. -/
def wordN (ws : List Word) (i : Nat) : Nat := (ws.getD i 0).toNat
def wordPair (ws : List Word) (i : Nat) : Nat := wordN ws i + 2 ^ 32 * wordN ws (i + 1)

/-- The words from i on are zero. -/
def zeroFrom (ws : List Word) (i : Nat) : Bool := (ws.drop i).all (fun w => w == 0)

/-- OP of a command. -/
def cmdOp (ws : List Word) : Nat := wordN ws 0 / 16 % 16

/-- The header keeps R350, but for the translation of DONE. -/
def headerOk (ws : List Word) : Bool :=
  decide (wordN ws 0 < 2 ^ 24) && wordN ws 0 / 2 ^ 9 % 2 ^ 7 == 0 && wordPair ws 1 != 0 && wordPair ws 1 % 16 == 0

/-- The timetable of a company. -/
def ttOf (s : State) (comp : Nat) : Option Timetable := (s.comp comp).bind (fun c => c.tt)

/-- The routers with a local output that flits reach from some routers, each at its cycle of the revolution, one cycle a hop (R362). -/
def meshReach (tt : Timetable) : Nat → List (Nat × Nat) → List Nat → List Nat
  | 0, _, acc => acc
  | _, [], acc => acc
  | fuel + 1, front, acc =>
    let out (d : Nat) (p : Nat × Nat) : Bool := (meshEntry tt.mesh p.1 p.2).any (fun e => e.getLsbD (8 + d))
    meshReach tt fuel ((front.flatMap (fun p => (upTo 4).filterMap (fun d =>
        if out d p then (meshNext p.1 d).map (fun n => (n, (p.2 + 1) % tt.rev)) else none))).eraseDups)
      (acc ++ ((front.filter (out 4)).map (fun p => p.1)).filter (fun t => !acc.contains t))

/-- The tiles whose local output the path of a static stream reaches from the router of a tile that is its source (R362, R470; log 58). -/
def streamTiles (tt : Timetable) (unit stream : Nat) : List Nat :=
  (meshReach tt (tt.rev * tt.mesh.length + 1) (((upTo tt.rev).filter (fun c =>
    (meshEntry tt.mesh unit c).any (fun e => (e.extractLsb' 0 8).toNat == stream) && !meshFed tt.rev tt.mesh unit c)).map (fun c => (unit, c))) []).eraseDups

/-- A copy's words keep R352 and R353; the bits of a window address above 39 are zero (R116). -/
def copyOk (s : State) (comp unit e : Nat) (ws : List Word) : Bool :=
  let len := wordN ws 8
  let rows := wordN ws 9
  let sp := wordN ws 12 % 4
  let dp := wordN ws 12 / 4 % 4
  let stream := wordN ws 12 / 256
  let dst := wordPair ws 6
  cmdOp ws == 0 && decide (1 ≤ len) && decide (len ≤ 2 ^ 24) && decide (1 ≤ rows) && decide (rows ≤ 65535) &&
  decide (wordN ws 12 < 65536) && wordN ws 12 / 16 % 16 == 0 && zeroFrom ws 13 && sp != 3 && dp != 3 &&
  (e != 0 || sp == 1 || sp == 2 || dp == 1 || dp == 2) &&
  (!(sp == 2 || dp == 2) || (len % 4 == 0 && wordPair ws 4 % 4 == 0 && dst % 4 == 0 && wordN ws 10 % 4 == 0 && wordN ws 11 % 4 == 0)) &&
  (sp != 2 || decide (wordPair ws 4 < 2 ^ 40)) && (dp != 2 || decide (dst < 2 ^ 40)) &&
  (stream == 0 || (match ttOf s comp with
    | none => false
    | some tt => dp == 2 && isScratchWindow dst && decide (dst < 2 ^ 33) && (streamTiles tt unit stream).contains (dst / 2 ^ 18 % 512)))

/-- The bridge entries of one die; a timetable without a bridge table leaves every slot free (R361). -/
def bridgeEntry (tt : Timetable) (die slot : Nat) : Word := if tt.bridge.isEmpty then 15 else tt.bridge.getD (die * 4 * tt.rev + slot) 15

/-- The slots of a die that a table leaves free. -/
def freeSlots (tt : Timetable) (die : Nat) : Nat :=
  ((upTo (4 * tt.rev)).filter (fun i => (bridgeEntry tt die i).extractLsb' 0 4 == 15)).length

/-- A stream command's words keep R352 and R361. -/
def streamOk (s : State) (comp unit : Nat) (ws : List Word) : Bool :=
  match ttOf s comp with
  | none => false
  | some tt =>
    let len := wordN ws 8
    let w9 := wordN ws 9
    let slot := w9 % 4096
    let free := w9 / 2 ^ 15 % 2 == 1
    let ns := w9 / 2 ^ 16
    let dst := wordPair ws 6
    let tile := dst / 2 ^ 18 % 512
    cmdOp ws == 0 && ws.getD 5 0 == 0 && len % 256 == 0 && decide (len ≤ 65536) && w9 / 2 ^ 12 % 8 == 0 &&
    decide (w9 < 2 ^ 28) && decide (1 ≤ ns) && decide (slot + ns ≤ 4 * tt.rev) && zeroFrom ws 10 &&
    decide (dst < 2 ^ 33) && isScratchWindow dst && decide (tile ≤ 287) &&
    (if free then slot == 0 && decide (ns ≤ freeSlots tt (tile / 144))
     else (upTo ns).all (fun i =>
       let e := bridgeEntry tt (tile / 144) (slot + i)
       (e.extractLsb' 0 4).toNat == unit - 288 && (e.extractLsb' 4 8).toNat == tile % 144))

/-- A collective's words keep R352. -/
def collectiveOk (ws : List Word) : Bool :=
  decide (cmdOp ws ≤ 3) && decide (1 ≤ wordN ws 8) && decide (wordN ws 8 ≤ 2 ^ 24) && decide (wordN ws 9 < 64) && wordN ws 9 / 4 % 4 == 0 &&
  wordN ws 9 % 4 != 3 && wordN ws 9 / 16 != 3 && decide (wordN ws 10 < 32) && decide (wordN ws 11 < 256) && zeroFrom ws 13

/-- Bytes of an element of a collective (R352): bf16 has two. -/
def elemBytes (ws : List Word) : Nat := if wordN ws 9 % 4 = 1 then 2 else 4

/-- A finite f32 that is not negative. -/
def toleranceOk (w : Word) : Bool := decide (w.toNat < 0x7F800000) || w == 0x80000000

/-- A compare's words keep R352 and R378. -/
def compareOk (s : State) (tk : Nat) (t : Troupe) (ws : List Word) : Bool :=
  match entryOf s (unitOf tk) (wordN ws 4) with
  | none => false
  | some k =>
    let a := scratchOf s tk t
    cmdOp ws == 0 && decide (wordN ws 4 < 16) && k.ens == t.ens && wordN ws 6 == k.blocks && toleranceOk (ws.getD 7 0) &&
    wordN ws 5 % 64 == 0 && decide (wordN ws 5 + 64 * k.blocks ≤ a.2.2) && zeroFrom ws 8

/-- The cycle at which frame F's scan-out begins: the start of frame F + 1; none when it has begun or no frame starts
(R445, R451). -/
def scanOut (s : State) (f : Word) : Option Nat :=
  let k := (f + 1 - s.frame.number).toNat
  if !s.frame.en || k = 0 || 2 ^ 31 ≤ k then none
  else some (s.frame.start + s.frame.length + (k - 1) * s.frame.period)

/-- A present's words keep R352 and R451. -/
def presentOk (s : State) (ctx : Nat) (ws : List Word) : Bool :=
  let o := kget Output.init s.outputs (wordN ws 9)
  cmdOp ws == 0 && decide (wordN ws 9 < 8) && decide (wordN ws 7 < 8) && zeroFrom ws 10 && o.cfg.getLsbD 32 &&
  (o.cfg.extractLsb' 48 12).toNat == ctx && wordN ws 6 % 65536 == (o.cfg.extractLsb' 0 13).toNat + 1 &&
  wordN ws 6 / 65536 == (o.cfg.extractLsb' 13 13).toNat + 1 && wordN ws 7 == (o.cfg.extractLsb' 26 3).toNat

/-- C of a command (R356); the presenter's promise is fixed apart. -/
def promiseCost (s : State) (comp e : Nat) (ws : List Word) : Nat :=
  let rev := match ttOf s comp with | some tt => tt.rev | none => 0
  let b := wordN ws 8 * wordN ws 9
  match e with
  | 0 => 64 + (b + 63) / 64 + (if wordN ws 12 / 256 = 0 then 0 else rev)
  | 1 => 256 + (b + 31) / 32 + (if wordN ws 12 / 256 = 0 then 0 else rev)
  | 2 => rev * (1 + (wordN ws 8 + 256 * (wordN ws 9 / 2 ^ 16) - 1) / (256 * (wordN ws 9 / 2 ^ 16)))
  | 3 => 2160 + (wordN ws 8 * elemBytes ws + 15) / 16
  | _ => 32 + 4 * wordN ws 6

/-- A promise never takes one of the three refusal values (R356). -/
def fixPromise (p : Nat) : Nat := if 0xFFFFFFFD ≤ p % 2 ^ 32 then (p / 2 ^ 32 + 1) * 2 ^ 32 else p

/-- The promise of a command at issue (R356, R451). -/
def promiseOf (s : State) (core comp e issue : Nat) (ws : List Word) : Option Nat :=
  if e = 5 then (scanOut s (ws.getD 8 0)).map fixPromise
  else some (fixPromise (max (issue + 2) (kget 0 (s.core core).promises e) + promiseCost s comp e ws))

/-- The words of a command keep the limits of its engine. -/
def wordsOk (s : State) (tk : Nat) (t : Troupe) (e : Nat) (ws : List Word) : Bool :=
  headerOk ws && (match e with
    | 0 => copyOk s t.comp (unitOf tk) e ws
    | 1 => copyOk s t.comp (unitOf tk) e ws
    | 2 => streamOk s t.comp (unitOf tk) ws
    | 3 => collectiveOk ws
    | 4 => compareOk s tk t ws
    | _ => presentOk s t.ctx ws)

/-- The command of a troupe as it is accepted at a cycle; none when it fails acceptance (R351). The translation of DONE reads the tables
through the slices. -/
def acceptCmd (s : State) (tk : Nat) (t : Troupe) (e issue : Nat) (ws : List Word) : Option Cmd × State :=
  if !wordsOk s tk t e ws then (none, s)
  else
    let x := walkTranslate s (coreOf tk) t.ctx (BitVec.ofNat 64 (wordPair ws 1)) .write
    match x.1, promiseOf s (coreOf tk) t.comp e issue ws with
    | .ok pa key _, some p =>
      if issue + 2 ^ 30 < p then (none, x.2)
      else (some
        { id := s.ids, words := ws, ens := t.ens, ctx := t.ctx, troupe := tk, gen := s.genOf tk, slot := slotOf tk, promise := p,
          due := p, donePa := pa, doneKey := key, performed := false, status := 0, fault := 0, bytes := 0, broken := false }, x.2)
    | _, _ => (none, x.2)

/-- The event that performs a command (R353, R361, R366, R378, R451). -/
def cmdEvent (core e : Nat) (ws : List Word) : Instr :=
  match e with
  | 0 => .tileCopy core
  | 1 => .dieCopy core
  | 2 => .bridgeStream core
  | 3 => (match cmdOp ws with
    | 0 => .allReduce core []
    | 1 => .broadcast core []
    | 2 => .allGather core []
    | _ => .reduceScatter core [])
  | 4 => .compare core
  | _ => .present core

/-- A collective of the whole load-store domain on a device that belongs to one: what its members have posted comes from outside
(R366, log 40), unless a device has been removed, when it fails (R453). -/
def awaitsPeers (s : State) (e : Nat) (ws : List Word) : Bool := e == 3 && wordN ws 10 == 4 && s.mgmt.member && s.mgmt.drained.isEmpty && s.linked

/-- The command on which an engine is at work for a core: the oldest that has not performed (R354). -/
def headCmd (s : State) (core e : Nat) : Option Cmd := ((s.core core).engine e).find? (fun c => !c.performed)

/-- An engine starts on the oldest command that has not performed. -/
def startHead (s : State) (core e : Nat) : State :=
  match headCmd s core e with
  | some c =>
    if awaitsPeers s e c.words then s else (let r := s.drawTime 1; r.2.schedule r.1 (cmdEvent core e c.words))
  | none => s

/-- Appends an accepted command to its queue; the end of its promise is on the agenda, and its work when no other comes before it
(R349, R354, R356, R358). -/
def appendCmd (s : State) (core e : Nat) (c : Cmd) : State :=
  let idle := (headCmd s core e).isNone
  let s := ({ s with ids := s.ids + 1 }).modCore core (fun k =>
    { k with engines := kset k.engines e (k.engine e ++ [c]), promises := kset k.promises e c.promise })
  (if idle then startHead s core e else s).schedule (c.promise + 1) (.promiseBroken core e c.id)

/-! ## `enq`, `sleepto`, `enqstat` (R348, R349, R357, R359) -/

/-- Reads the head of 16 consecutive queues of a thread (R349). -/
def readSixteen (cyc : Nat) (th : Thread) (a : Nat) (keep : Bool) : Nat → Except Cause (List Word × Thread)
  | 0 => .ok ([], th)
  | n + 1 => match readSixteen cyc th a keep n with
    | .error c => .error c
    | .ok (ws, th) => match th.head cyc (a + n) with
      | .error c => .error c
      | .ok w => .ok (ws ++ [w], if keep then th else th.drop (a + n))

/-- The sources of a slot of class ENG read by its leader: 16 consecutive queues. -/
def enqLead (f : Focus) (t : Troupe) (x : EnqF) (i : Nat) : Option Thread :=
  match readSixteen f.issue (t.thread i) x.a.toNat (x.ka == 1) 16 with | .ok r => some r.2 | .error _ => none

/-- An engine's reply is a long-latency operation (R38): its slot counts on the flag it selects, SETX, until the reply is in
every thread that awaits it, and holds while that flag stands at 63 (R39). -/
def replySlot (s : State) (f : Focus) (k : State → Focus → State) : State :=
  let flag := selectFlag s f false
  if flagFull s f flag then holdFlag s f flag
  else
    let r := openOp s f flag
    k r.2 { f with op := some r.1 }

/-- The reply of an engine is written to its destination, and the slot's operation ends unless some thread met a trap (R39). -/
def replyUniform (s : State) (f : Focus) (lead : Option Thread) (d : BitVec 6) (v : Word) : State :=
  let s := answerUniform s f lead d v
  if s.focus.isSome then s.modTroupe f.troupe (fun t => t.closeOpt f.op) else s

/-- A held `enq` takes its place in the buffer with its words (R375, R376). -/
def holdEnq (s : State) (f : Focus) (lead : Thread) (e : Nat) (ws : List Word) : State :=
  (holdEffects s f.troupe [(leaderOf f.run, .enq e ws)]).modTroupe f.troupe (fun t => t.setThread (leaderOf f.run) lead)

/-- `enq` once its words are read: it waits for earlier stores, its positions reserved (R97), is checked, and is appended (R349). -/
def enqWords (s : State) (f : Focus) (t : Troupe) (x : EnqF) (lead : Thread) (ws : List Word) : State :=
  let core := coreOf f.troupe
  let e := x.engine.toNat
  let s := release s f.troupe
  if orderPending s f.troupe t 0xFFFF .stores then (let k := keepPlaces s f (some lead) x.d; holdActing k.1 k.2 (.order 0xFFFF .stores))
  else
    let a := acceptCmd s f.troupe t e f.issue ws
    match a.1 with
    | none => replyUniform a.2 f (some lead) x.d 0xFFFFFFFD
    | some c => replyUniform (appendCmd a.2 core e c) f (some lead) x.d (BitVec.ofNat 32 c.promise)

/-- `enq` of a troupe that is not speculative (R349). -/
def enqPlain (s : State) (f : Focus) (t : Troupe) (x : EnqF) : State :=
  let core := coreOf f.troupe
  let e := x.engine.toNat
  if !serves core e then replyUniform s f none x.d 0xFFFFFFFE
  else if 16 ≤ ((s.core core).engine e).length then replyUniform s f none x.d 0xFFFFFFFF
  else match readSixteen f.issue (t.thread (leaderOf f.run)) x.a.toNat (x.ka == 1) 16 with
    | .error c => trapLeader s f c
    | .ok (ws, lead) => enqWords s f t x lead ws

/-- `enq` (R349); the treatment of a speculative troupe is R375's; what orders it is R292's. -/
def execEnq (x : EnqF) (s : State) : Res :=
  atUniform s (fun f t =>
    let e := x.engine.toNat
    if t.speculative then
      if e ≠ 4 && x.d ≠ 56 then stallCommit s f
      else if !serves (coreOf f.troupe) e then answerUniform s f none x.d 0xFFFFFFFE
      else match readSixteen f.issue (t.thread (leaderOf f.run)) x.a.toNat (x.ka == 1) 16 with
        | .error c => trapLeader s f c
        | .ok (ws, lead) =>
          if e = 4 then trapAll s f { cause := cSpecLimit, detail := 3, value := BitVec.ofNat 64 (wordN ws 4 % 16) }
          else if specRoom t 1 then holdEnq s f lead e ws else stallCommit s f
    else replySlot s f (fun s f => match f.answer with
      | some (l, v) => replyUniform s f (if 0xFFFFFFFE ≤ v.toNat then none else enqLead f t x l) x.d v
      | none => enqPlain s f t x))

/-- `enqstat` (R359). -/
def execEnqstat (x : EngF) (s : State) : Res :=
  atUniform s (fun f t =>
    let core := coreOf f.troupe
    let e := x.engine.toNat
    let q := (s.core core).engine e
    let mine := q.filter (fun c => c.troupe == f.troupe && c.gen == s.genOf f.troupe)
    let late := mine.any (fun c => t.late.any (fun p => p.cmd == c.id))
    let v := if serves core e then 16 - q.length + 256 * mine.length + (if late then 65536 else 0) else 0
    replySlot s f (fun s f => match f.answer with
      | some (_, a) => replyUniform s f none x.d a
      | none => replyUniform s f none x.d (BitVec.ofNat 32 v)))

/-- Two cycle counts modulo 2^32: the first has reached the second (R357). -/
def reached (now a : Word) : Bool := decide ((now - a).toNat < 2 ^ 31)

/-- `sleepto` returns at once for a refusal value (R357). -/
def sleepOver (now a : Word) : Bool := decide (0xFFFFFFFD ≤ a.toNat) || reached now a

/-- The commands of a troupe whose promise has been reached and that have not completed, oldest promise first, as (core
engine, command) (R357, R358). -/
def overdue (s : State) (tk : Nat) : List (Nat × Cmd) :=
  let l := (upTo 6).flatMap (fun e => (((s.core (coreOf tk)).engine e).filter (fun c =>
    c.troupe == tk && c.gen == s.genOf tk && !c.broken && decide (c.promise ≤ s.now))).map (fun c => (e, c)))
  match leastBy (fun p => p.2.promise) l with | some p => [p] | none => []

/-- Marks a command as broken. -/
def breakCmd (s : State) (core e id : Nat) : State :=
  s.modCore core (fun k => { k with engines := kset k.engines e ((k.engine e).map (fun c => if c.id = id then { c with broken := true } else c)) })

/-- PROMISE_LATE at a slot that waits, uncommitted (R358); the positions that it reserved are released (R100). Supply acts as retry
(R414). -/
def raiseLate (s : State) (f : Focus) (e p : Nat) : State :=
  let s := trapAll (releasePlaces s f) { f with kept := none } { cause := cPromiseLate, detail := e, value := BitVec.ofNat 64 (p % 2 ^ 32) }
  s.modTroupe f.troupe (fun t =>
    { t with origins := t.origins.map (fun o => { o with async := true }),
             spec := { t.spec with trap := t.spec.trap.map (fun o => { o with async := true }) } })

/-- `sleepto` on a source as read, with the leader's thread after the read (R357). Its return observes the commands whose promise
it has reached: an acquire at device scope (R292). -/
def sleepTo (s : State) (f : Focus) (t : Troupe) (d : BitVec 6) (a : Word) (lead : Thread) : State :=
  if !sleepOver (BitVec.ofNat 32 s.now) a then (let k := keepPlaces s f (some lead) d; holdActing k.1 k.2 (.sleepto a))
  else if 0xFFFFFFFD ≤ a.toNat then replyUniform s f (some lead) d (BitVec.ofNat 32 s.now)
  else match t.late with
    | x :: rest => raiseLate (s.modTroupe f.troupe (fun t => { t with late := rest })) f x.engine x.promise
    | [] => match overdue s f.troupe with
      | (e, c) :: _ => raiseLate (breakCmd s (coreOf f.troupe) e c.id) f e c.promise
      | [] => replyUniform (acquireAll s f.troupe t true) f (some lead) d (BitVec.ofNat 32 s.now)

/-- `sleepto` (R357, a completion signal by R360). -/
def execSleepto (x : UnF) (s : State) : Res :=
  atUniform s (fun f t =>
    let read (i : Nat) := readSrc f f.issue i (t.thread i) x.a (x.ka == 1)
    replySlot s f (fun s f => match f.answer with
      | some (l, v) => replyUniform s f (match read l with | .ok r => some r.2 | .error _ => none) x.d v
      | none => match read (leaderOf f.run) with
        | .error c => trapLeader s f c
        | .ok (a, lead) => sleepTo s f t x.d a.lo lead))

/-! ## Moving bytes (R353, R355) -/

/-- The allocation of the ensemble that issued a command: unit, first physical byte, size. -/
def cmdScratch (s : State) (c : Cmd) : Nat × Nat × Nat :=
  match s.ens c.ens with
  | some e => (e.unit, 65536 * e.base, 65536 * e.count)
  | none => (0, 0, 0)

/-- Where up to 8 bytes of a space lie. -/
inductive Spot where
  | mem (pa key : Nat) (pmode : Bool)
  | scr (unit off : Nat)
  | fail (status : Nat) (level : Nat)
deriving DecidableEq, Repr

/-- The place of an address of a command's space (R353, R355); scratch that its partition does not run is no place (R21). -/
def placeOf (s : State) (c : Cmd) (space a : Nat) (need : Need) : Spot × State :=
  match space with
  | 0 =>
    let x := walkTranslate s (coreOf c.troupe) c.ctx (BitVec.ofNat 64 a) need
    (match x.1 with
     | .ok pa key pm => .mem pa key pm
     | .absent l => .fail 1 l
     | .perm _ => .fail 2 0
     | .unc _ => .fail 3 0, x.2)
  | 1 =>
    let p := cmdScratch s c
    (if a < p.2.2 && unitServes s p.1 c.ctx then .scr p.1 (p.2.1 + a) else .fail 5 0, s)
  | _ =>
    (if 2 ^ 40 ≤ a || !isScratchWindow a then .fail 4 0
     else match windowScratch s c.ctx a with
       | some (u, off) => .scr u off
       | none => .fail 4 0, s)

/-- The bytes of a piece that stays inside one aligned 8-byte word: none with the status of its failure. -/
def pieceRead (s : State) (c : Cmd) (space a n : Nat) : Except (Nat × Nat) (List Byte) × State :=
  let x := placeOf s c space a .read
  let s := x.2
  match x.1 with
  | .fail st l => (.error (st, l), s)
  | .mem pa key pm =>
    let h := homeFetch s (unitOf c.troupe) (coreOf c.troupe) c.ctx pa key n pm
    (match h.1 with | .ok bs => .ok bs | .error _ => .error (3, 0), h.2)
  | .scr u off => (if scrBad s u off n then .error (3, 0) else .ok (scrReadList s u off n), s)

/-- Writes a piece that stays inside one aligned 8-byte word. -/
def pieceWrite (s : State) (c : Cmd) (space a : Nat) (bs : List Byte) : Option (Nat × Nat) × State :=
  let x := placeOf s c space a .write
  let s := x.2
  match x.1 with
  | .fail st l => (some (st, l), s)
  | .mem pa key _ =>
    let r := writeHome s (coreOf c.troupe) c.ctx pa key bs
    (r.1.map (fun _ => (3, 0)), r.2)
  | .scr u off => if scrBad s u off bs.length then (some (3, 0), s) else (none, scrWriteList s u off bs)

/-- An address of a space: scratch offsets and virtual addresses wrap at 64 bits. -/
def addrAt (a i : Nat) : Nat := (a + i) % 2 ^ 64

/-- Reads n bytes of a row up to the first failing byte: the bytes, and the status, level and address of the failure. -/
def rowRead (c : Cmd) (space : Nat) : Nat → State → Nat → Nat → List Byte × Option (Nat × Nat × Nat) × State
  | 0, s, _, _ => ([], none, s)
  | fuel + 1, s, a, n =>
    if n = 0 then ([], none, s)
    else
      let k := min n (8 - a % 8)
      let p := pieceRead s c space a k
      match p.1 with
      | .error (st, l) => ([], some (st, l, a), p.2)
      | .ok bs =>
        let r := rowRead c space fuel p.2 (addrAt a k) (n - k)
        (bs ++ r.1, r.2)

/-- Writes the bytes of a row up to the first failing byte. -/
def rowWrite (c : Cmd) (space : Nat) : Nat → State → Nat → List Byte → Option (Nat × Nat × Nat) × State
  | 0, s, _, _ => (none, s)
  | fuel + 1, s, a, bs =>
    if bs.isEmpty then (none, s)
    else
      let k := min bs.length (8 - a % 8)
      let r := pieceWrite s c space a (bs.take k)
      match r.1 with
      | some (st, l) => (some (st, l, a), r.2)
      | none => rowWrite c space fuel r.2 (addrAt a k) (bs.drop k)

/-- Pushes the words of a row into a queue window (R353). -/
def rowPush (c : Cmd) (a : Nat) : List Word → State → Option (Nat × Nat × Nat) × State
  | [], s => (none, s)
  | w :: rest, s =>
    let r := windowPush s { ctx := c.ctx, addr := a, words := [w], gen := wordN c.words 0 % 16, cmd := some c.id }
    if r.1 then rowPush c a rest r.2 else (some (4, 0, a), r.2)

/-- How far a command came: bytes written, and the failure that stopped it. -/
structure Moved where
  s : State
  bytes : Nat
  fail : Option (Nat × Nat × Nat)
  write : Bool
deriving DecidableEq, Repr

/-- The window address of a physical offset of a tile's scratch (R230). -/
def windowAt (u off : Nat) : Nat := off / 2 ^ 18 * 2 ^ 28 + 2 ^ 27 + u * 2 ^ 18 + off % 2 ^ 18

/-- Writes bytes at a physical offset of the scratch of every tile of a static stream, 8 bytes at a time, up to the first failing byte;
`a` is their address at the tile that DST names (R355, R470). -/
def streamWrite (c : Cmd) (tiles : List Nat) : Nat → State → Nat → Nat → List Byte → Option (Nat × Nat × Nat) × State
  | 0, s, _, _, _ => (none, s)
  | fuel + 1, s, a, off, bs =>
    if bs.isEmpty then (none, s)
    else
      let k := min bs.length (8 - off % 8)
      let r := tiles.foldl (fun (r : Option (Nat × Nat) × State) u => match r.1 with
        | some x => (some x, r.2)
        | none => pieceWrite r.2 c 2 (windowAt u off) (bs.take k)) (none, s)
      match r.1 with
      | some (st, l) => (some (st, l, a), r.2)
      | none => streamWrite c tiles fuel r.2 (addrAt a k) (off + k) (bs.drop k)

/-- Writes bytes of a row at its destination `a`, `at_` bytes into the row: one queue, the scratch of every tile of a static stream, or
the place itself (R353, R470). -/
def rowStore (s : State) (c : Cmd) (a at_ : Nat) (bs : List Byte) : Option (Nat × Nat × Nat) × State :=
  let dp := wordN c.words 12 / 4 % 4
  let stream := wordN c.words 12 / 256
  let fuel := bs.length / 8 + 2
  if dp = 2 && stream = 0 && !isScratchWindow a then
    if 2 ^ 40 ≤ a then (some (4, 0, a), s) else rowPush c a (wordsOf bs (bs.length / 4)) s
  else if stream ≠ 0 then
    if 2 ^ 40 ≤ a || !isScratchWindow a then (some (4, 0, a), s)
    else
      let tiles := match (s.ens c.ens).bind (fun e => ttOf s e.comp) with | some tt => streamTiles tt (unitOf c.troupe) stream | none => []
      streamWrite c tiles fuel s (addrAt a at_) (a / 2 ^ 28 % 32 * 2 ^ 18 + a % 2 ^ 18 + at_) bs
  else rowWrite c dp fuel s (addrAt a at_) bs

/-- The address of row i of a side. -/
def rowAddr (base : Nat) (stride : Word) (i : Nat) : Nat := (BitVec.ofNat 64 base + stride.signExtend 64 * BitVec.ofNat 64 i).toNat

/-- The next piece of a copy: up to 256 bytes of a row, after the bytes that it has moved (R353, R354). -/
def copyPiece (s : State) (c : Cmd) : Moved :=
  let len := wordN c.words 8
  let i := c.bytes / len
  let off := c.bytes % len
  let n := min 256 (len - off)
  let src := rowAddr (wordPair c.words 4) (c.words.getD 10 0) i
  let dst := rowAddr (wordPair c.words 6) (c.words.getD 11 0) i
  let r := rowRead c (wordN c.words 12 % 4) (n / 8 + 2) s (addrAt src off) n
  let w := rowStore r.2.2 c dst off r.1
  match w.1, r.2.1 with
  | some x, _ => { s := w.2, bytes := c.bytes, fail := some x, write := true }
  | none, some x => { s := w.2, bytes := c.bytes + r.1.length, fail := some x, write := false }
  | none, none => { s := w.2, bytes := c.bytes + n, fail := none, write := false }

/-- Slots that a command on a static stream or on the bridge misses, each with a revolution of delay and a slip record (R361, R363,
R398): how many is open (log 40), and the delay is within the command's latency. -/
def missSlots (s : State) (c : Cmd) (kind : Nat) : State :=
  match (s.ens c.ens).bind (fun e => (s.comp e.comp).map (fun k => (e.comp, k))) with
  | none => s
  | some (id, k) => match k.tt with
    | none => s
    | some tt => (upTo (Config.missed s.draws)).foldl (fun s _ => makeSlip s id k tt.frame tt.step kind) { s with draws := s.draws + 1 }

/-- A piece of a copy command (R353, R355), and whether it is the last. -/
def doCopy (s : State) (c : Cmd) : Moved × Bool :=
  let m := copyPiece (if c.bytes = 0 && wordN c.words 12 / 256 ≠ 0 then missSlots s c 1 else s) c
  (m, decide (wordN c.words 8 * wordN c.words 9 ≤ m.bytes))

/-- A piece of a stream command: 256 bytes of guide scratch to a scratch window (R361), and whether it is the last. -/
def doStream (s : State) (c : Cmd) : Moved × Bool :=
  let s := if c.bytes = 0 then missSlots s c 2 else s
  let n := min 256 (wordN c.words 8 - c.bytes)
  let r := rowRead c 1 (n / 8 + 2) s (wordN c.words 4 + c.bytes) n
  let w := rowWrite c 2 (n / 8 + 2) r.2.2 (wordPair c.words 6 + c.bytes) r.1
  match w.1, r.2.1 with
  | some x, _ => ({ s := w.2, bytes := c.bytes, fail := some x, write := true }, true)
  | none, some x => ({ s := w.2, bytes := c.bytes + r.1.length, fail := some x, write := false }, true)
  | none, none => ({ s := w.2, bytes := c.bytes + n, fail := none, write := false }, decide (wordN c.words 8 ≤ c.bytes + n))

/-- Replaces a command in its queue. -/
def setCmd (s : State) (core e : Nat) (c : Cmd) : State :=
  s.modCore core (fun k => { k with engines := kset k.engines e ((k.engine e).map (fun x => if x.id = c.id then c else x)) })

/-- The command performs: its failure is recorded, an absent page is reported, and its completion is on the agenda (R354,
R355). -/
def endPerform (core e : Nat) (c : Cmd) (m : Moved) : State :=
  let st := match m.fail with | some (st, _, _) => st | none => 0
  let fa := match m.fail with | some (_, _, a) => BitVec.ofNat 64 a | none => 0
  let now : Bool := match (m.s.core core).engine e |>.find? (fun x => x.id == c.id) with | some x => x.broken | none => c.broken
  let s := setCmd m.s core e { c with performed := true, status := st, fault := fa, bytes := m.bytes, broken := now }
  let s := match m.fail with
    | some (1, l, a) => postRecord s c.ctx (faultRecord s c.troupe c.ctx (BitVec.ofNat 64 a) (if m.write then 4 else 3) l 1)
    | _ => s
  let r := s.drawTime 1
  startHead (r.2.schedule r.1 (.commandCompletion core e)) core e

/-- Performs the oldest command of a queue that has not performed, when the event is for its operation. -/
def performCmd (s : State) (core e op : Nat) (work : State → Cmd → Moved) : State :=
  match headCmd s core e with
  | none => s
  | some c => if cmdOp c.words = op then endPerform core e c (work s c) else s

/-- The cores that share an engine: those of a tile share its copier, and those of a die the other two (R13, R22, R354; log 58). -/
def engineMates (e core x : Nat) : Bool := if e = 0 then x / 4 == core / 4 else dieOf (x / 4) == dieOf (core / 4)
def engineKey (e core : Nat) : Nat := if e = 0 then 8 + core / 4 else 4 * e + dieOf (core / 4) + 1024

/-- The core that an engine serves next of those for which it is at work: the next by number after the one it served last (R354). -/
def engineTurn (s : State) (e core : Nat) : Nat :=
  let last := kget 0 s.turns (engineKey e core)
  let l := (s.cores.filter (fun p => engineMates e core p.1 && (p.2.engine e).any (fun c => !c.performed))).map (fun p => p.1)
  match leastBy (fun x => if last ≤ x then x else x + 4096) l with | some x => x | none => core

/-- An engine moves the next piece of a core's command, when it is that core's turn: the command goes on, or has performed. -/
def performPiece (s : State) (core e : Nat) (work : State → Cmd → Moved × Bool) : State :=
  match headCmd s core e with
  | none => s
  | some c =>
    if engineTurn s e core ≠ core then s.schedule (s.now + 1) (cmdEvent core e c.words)
    else
      let m := work { s with turns := kset s.turns (engineKey e core) (core + 1) } c
      if m.1.fail.isSome || m.2 then endPerform core e c m.1
      else
        let r := (m.1.s.modCore core (fun k => { k with engines := kset k.engines e ((k.engine e).map (fun x =>
          if x.id = c.id then { x with bytes := m.1.bytes } else x)) })).drawTime 1
        r.2.schedule r.1 (cmdEvent core e c.words)

/-- TILE_COPY (R353, R354). -/
def execTileCopy (core : Nat) (s : State) : Res := .next (performPiece s core 0 doCopy)
/-- DIE_COPY (R353, R354). -/
def execDieCopy (core : Nat) (s : State) : Res := .next (performPiece s core 1 doCopy)
/-- BRIDGE_STREAM (R354, R361). -/
def execBridgeStream (core : Nat) (s : State) : Res := .next (performPiece s core 2 doStream)

/-! ## Collectives (R366) -/

/-- A member of a collective: device and its elements. -/
abbrev Member := Nat × List Word

/-- The elements of a byte list. -/
def elements (ws : List Word) (n : Nat) (bs : List Byte) : List Word :=
  let k := elemBytes ws
  (upTo n).map (fun i => BitVec.ofNat 32 (leAt bs (k * i) k))
def elementBytes (ws : List Word) (l : List Word) : List Byte := l.flatMap (fun w => numBytes (elemBytes ws) w.toNat)

/-- The format of bf16 or f32 elements. -/
def elemFmt (ws : List Word) : FFmt := if wordN ws 9 % 4 = 1 then bf16 else f32

/-- Combines two elements (R366, R160). -/
def combine (ws : List Word) (a b : Word) : Word :=
  let fmt := elemFmt ws
  match wordN ws 9 % 4, wordN ws 9 / 16 with
  | 2, 0 => a + b
  | 2, 1 => if BitVec.slt a b then b else a
  | 2, _ => if BitVec.slt b a then b else a
  | _, 0 => BitVec.ofNat 32 (ffAdd fmt a.toNat b.toNat).1
  | _, 1 => BitVec.ofNat 32 (ffMinMax fmt true a.toNat b.toNat).1
  | _, _ => BitVec.ofNat 32 (ffMinMax fmt false a.toNat b.toNat).1

/-- One level of the tree over the ranks: rank i takes rank i + h where i mod 2h = 0. -/
def treeLevel (ws : List Word) (h : Nat) (xs : List Word) : List Word :=
  xs.zipIdx.map (fun p => if p.2 % (2 * h) = 0 && p.2 + h < xs.length then combine ws p.1 (xs.getD (p.2 + h) 0) else p.1)

/-- The fixed tree of R366 over the values of the ranks. -/
def treeReduce (ws : List Word) : Nat → Nat → List Word → Word
  | 0, _, xs => xs.headD 0
  | fuel + 1, h, xs => if h < xs.length then treeReduce ws fuel (2 * h) (treeLevel ws h xs) else xs.headD 0

/-- The all-reduce of the members' elements, element by element. -/
def reduceAll (ws : List Word) (n : Nat) (ms : List Member) : List Word :=
  (upTo n).map (fun i => treeReduce ws 8 1 (ms.map (fun m => m.2.getD i 0)))

/-- What other devices have posted to a collective: only the domain's scope entry holds cores of another device (R282, R366). -/
def matesOf (ws : List Word) (peers : List Peer) : List Peer :=
  if wordN ws 10 = 4 then peers.filter (fun p => p.group == 4 && p.seq == ws.getD 12 0) else []

/-- The members of a collective in rank order, this device among them; none when they disagree or a removed device's cores
lie in the group (R366, R453). -/
def membersFor (s : State) (ws : List Word) (own : List Word) (peers : List Peer) : Option (List Member) :=
  let mates := matesOf ws peers
  let agree := mates.all (fun p => p.op == cmdOp ws && p.ty == wordN ws 9 % 4 && p.red == wordN ws 9 / 16 && p.count == wordN ws 8)
  if !agree || (wordN ws 10 = 4 && (!s.mgmt.drained.isEmpty || (s.mgmt.member && !s.linked))) then none
  else
    let l : List Member := (s.mgmt.deviceNo.toNat, own) :: mates.map (fun p => (p.device, p.data))
    some (l.mergeSort (fun a b => decide (a.1 ≤ b.1)))

/-- Runs a collective: reads COUNT elements (a member of an all-gather its own part), combines, writes the result. -/
def doCollective (core : Nat) (peers : List Peer) (srcCount : Nat → Nat → Nat) (result : List Member → Nat → Option (List Word))
    (s : State) (c : Cmd) : Moved :=
  let ws := c.words
  let mates := (matesOf ws peers).length + 1
  let n := srcCount (wordN ws 8) mates
  let h := virtFetch s core c.ctx (wordPair ws 4) (n * elemBytes ws)
  let s := h.2
  let fail (st l a : Nat) (w : Bool) : Moved := { s := s, bytes := 0, fail := some (st, l, a), write := w }
  match h.1 with
  | .error e => fail e.kind e.detail e.addr false
  | .ok bs => match membersFor s ws (elements ws n bs) peers with
    | none => fail 4 0 0 false
    | some ms => match result ms (wordN ws 8) with
      | none => fail 4 0 0 false
      | some out =>
        let r := virtWrite s core c.ctx (wordPair ws 6) (elementBytes ws out)
        match r.1 with
        | some e => { s := r.2, bytes := 0, fail := some (e.kind, e.detail, e.addr), write := true }
        | none => { s := r.2, bytes := out.length * elemBytes ws, fail := none, write := false }

/-- The words of the collective at the head of a core's queue. -/
def headWords (s : State) (core : Nat) : List Word := match headCmd s core 3 with | some c => c.words | none => []

/-- A collective performs: one of the domain once its peers have posted (R366). -/
def performAll (s : State) (core op : Nat) (peers : List Peer) (srcCount : Nat → Nat → Nat) (result : List Member → Nat → Option (List Word)) : State :=
  if awaitsPeers s 3 (headWords s core) && peers.isEmpty then s else performCmd s core 3 op (doCollective core peers srcCount result)

/-- This device's rank. -/
def ownRank (s : State) (ms : List Member) : Nat := ((ms.findIdx? (fun m => m.1 == s.mgmt.deviceNo.toNat)).getD 0)

/-- ALL_REDUCE (R366). -/
def execAllReduce (core : Nat) (peers : List Peer) (s : State) : Res :=
  let ws := headWords s core
  .next (performAll s core 0 peers (fun n _ => n) (fun ms n => some (reduceAll ws n ms)))

/-- BROADCAST (R366): every member receives ROOT's elements. -/
def execBroadcast (core : Nat) (peers : List Peer) (s : State) : Res :=
  let ws := headWords s core
  .next (performAll s core 1 peers (fun n _ => n) (fun ms _ => (ms.find? (fun m => m.1 == wordN ws 11)).map (fun m => m.2)))

/-- ALL_GATHER (R366): rank i's part is elements i·COUNT/n on. -/
def execAllGather (core : Nat) (peers : List Peer) (s : State) : Res :=
  .next (performAll s core 2 peers (fun n k => n / k)
    (fun ms n => if n % ms.length = 0 then some (ms.flatMap (fun m => m.2.take (n / ms.length))) else none))

/-- REDUCE_SCATTER (R366): rank i receives its part of the reduction. -/
def execReduceScatter (core : Nat) (peers : List Peer) (s : State) : Res :=
  let ws := headWords s core
  .next (performAll s core 3 peers (fun n _ => n)
    (fun ms n => if n % ms.length = 0 then
        some (((reduceAll ws n ms).drop (ownRank s ms * (n / ms.length))).take (n / ms.length)) else none))

/-! ## The presenter (R451) -/

/-- The presenter copies the image from the frame address into its own buffer (R451). -/
def doPresent (s : State) (c : Cmd) : Option Image × Moved :=
  let w := wordN c.words 6 % 65536
  let h := wordN c.words 6 / 65536
  let b := virtFetch s (coreOf c.troupe) c.ctx (wordPair c.words 4) (4 * w * h)
  match b.1 with
  | .error e => (none, { s := b.2, bytes := 0, fail := some (e.kind, e.detail, e.addr), write := false })
  | .ok bs =>
    (some { width := w, height := h, format := wordN c.words 7, pixels := wordsOf bs (w * h) },
     { s := b.2, bytes := 4 * w * h, fail := none, write := false })

/-- PRESENT (R451). -/
def execPresent (core : Nat) (s : State) : Res :=
  .next (match headCmd s core 5 with
    | none => s
    | some c => let r := doPresent s c; endPerform core 5 { c with image := r.1 } r.2)

/-- A present completes: its image is the one for its frame, in place of an earlier one (R451). -/
def enterImage (s : State) (c : Cmd) : State :=
  match c.image with
  | none => s
  | some img =>
    let o := kget Output.init s.outputs (wordN c.words 9)
    let f := c.words.getD 8 0
    { s with outputs := kset s.outputs (wordN c.words 9) { o with presents := o.presents.filter (fun p => p.1 != f) ++ [(f, img)] } }

/-! ## Completion (R354, R356, R358) -/

/-- The ensemble of a context that holds a physical offset of a unit's scratch. -/
def scratchHolder (s : State) (ctx u off : Nat) : Option Nat :=
  (s.enss.find? (fun p => p.2.unit == u && p.2.ctx == ctx && decide (p.2.base ≤ off / 65536)
    && decide (off / 65536 < p.2.base + p.2.count))).map (fun p => p.1)

/-- The ensemble to which a command's delivery goes (R354). -/
def deliveryEns (s : State) (e : Nat) (c : Cmd) : Option Nat :=
  let dst := if e ≤ 1 then rowAddr (wordPair c.words 6) (c.words.getD 11 0) (wordN c.words 9 - 1) else wordPair c.words 6
  let space := if e ≤ 1 then wordN c.words 12 / 4 % 4 else if e = 2 then 2 else 0
  if space = 2 then
    if isScratchWindow dst then
      match windowScratch s c.ctx dst with
      | some (u, off) => scratchHolder s c.ctx u off
      | none => none
    else (windowQueue s c.ctx dst).bind (fun q => (s.troupe q.1).map (fun t => t.ens))
  else some c.ens

/-- The ensembles whose scratch or queues n bytes of a command's space touch, from an address on; `tiles` are those of a static stream. -/
def sideHolders (s : State) (c : Cmd) (space : Nat) (tiles : List Nat) (a n : Nat) : List Nat :=
  if space = 1 then [c.ens]
  else if space ≠ 2 then []
  else if !isScratchWindow a then ((windowQueue s c.ctx a).bind (fun q => (s.troupe q.1).map (fun t => t.ens))).toList
  else (upTo (n / 65536 + 2)).flatMap (fun j =>
    let b := a + min (65536 * j) (n - 1)
    if tiles.isEmpty then ((windowScratch s c.ctx b).bind (fun r => scratchHolder s c.ctx r.1 r.2)).toList
    else tiles.filterMap (fun u => scratchHolder s c.ctx u (b / 2 ^ 28 % 32 * 2 ^ 18 + b % 2 ^ 18)))

/-- The ensembles whose scratch or queues a command reads or writes, or to which it makes its delivery (R253, R354). -/
def cmdHolders (s : State) (e : Nat) (c : Cmd) : List Nat :=
  let ws := c.words
  let tiles := match (s.ens c.ens).bind (fun x => ttOf s x.comp) with
    | some tt => if e ≤ 1 && wordN ws 12 / 256 ≠ 0 then streamTiles tt (unitOf c.troupe) (wordN ws 12 / 256) else []
    | none => []
  let sp := wordN ws 12 % 4
  let dp := wordN ws 12 / 4 % 4
  let rows (space base : Nat) (stride : Word) (tiles : List Nat) : List Nat :=
    if space = 2 then (upTo (wordN ws 9)).flatMap (fun i => sideHolders s c 2 tiles (rowAddr base stride i) (wordN ws 8))
    else sideHolders s c space [] base 1
  (if e ≤ 1 then rows sp (wordPair ws 4) (ws.getD 10 0) [] ++ rows dp (wordPair ws 6) (ws.getD 11 0) tiles
   else if e = 2 then c.ens :: sideHolders s c 2 [] (wordPair ws 6) (wordN ws 8)
   else if e = 4 then [c.ens] else []) ++
  (if wordN ws 0 / 256 % 2 = 1 then (deliveryEns s e c).toList else [])

/-- Pushes of a command are still held at a full queue (R118, R354), be it one of a context that is away. -/
def pushesHeld (s : State) (c : Cmd) : Bool :=
  let at_ (p : Nat × Core) : Bool := p.2.pushes.any (fun q => q.cmd == some c.id)
  s.cores.any at_ || s.savedUnits.any (fun x => x.cores.any at_)

/-- The done record (R350); bytes 8 to 15 hold the fault, or what the engine reports there. -/
def doneRecord (c : Cmd) (w : Nat) : List Byte :=
  numBytes 4 (wordN c.words 3) ++ numBytes 1 (c.status + (if c.broken then 128 else 0)) ++ numBytes 3 0 ++ numBytes 8 w

/-- What bytes 8 to 15 of a done record hold. -/
def doneWord (s : State) (e : Nat) (c : Cmd) : Nat :=
  if e = 5 && c.status = 0 then
    (if (kget Output.init s.outputs (wordN c.words 9)).substituted.contains (c.words.getD 8 0) then 1 else 0)
  else c.fault.toNat

/-- The oldest performed command of a queue makes its delivery, writes its done record and leaves, once its pushes have entered their
queues (R354). A later load of the record observes the completion (R292). -/
def completeCmd (core engine : Nat) (s : State) : State :=
  match ((s.core core).engine engine).find? (fun c => c.performed) with
  | none => s
  | some c =>
    if engine ≤ 1 && wordN c.words 12 / 4 % 4 = 2 && pushesHeld s c then s.schedule (s.now + 16) (.commandCompletion core engine)
    else
      let s := if c.status = 0 && wordN c.words 0 / 256 % 2 = 1 then
          (match deliveryEns s engine c with | some ek => deliverSem s ek (wordN c.words 0 / 2 ^ 16 % 256) c.bytes | none => s)
        else s
      let s := if engine = 5 && c.status = 0 then enterImage s c else s
      let s := (writeHome s noCore c.ctx c.donePa c.doneKey (doneRecord c (doneWord s engine c))).2
      let s := { s with doneAt := s.doneAt.filter (fun a => a != c.donePa) ++ [c.donePa] }
      s.modCore core (fun k => { k with engines := kset k.engines engine ((k.engine engine).filter (fun x => x.id != c.id)) })

/-- COMMAND_COMPLETION (R354). -/
def execCommandCompletion (core engine : Nat) (s : State) : Res := .next (completeCmd core engine s)

/-- A wait that ends at a broken promise (R358); `bar.sync` is not one. -/
def endsAtPromise (f : Focus) : Wait → Bool
  | .sleepto _ => true
  | .sem _ _ => true
  | .bar _ => !(classOf f.word == 14 && fnOf f.word == 2)
  | .cwait _ _ => true
  | .waittag _ => true
  | .osenter _ => true
  | .skwait _ => true
  | .mwait _ => true
  | _ => false

/-- Inserts a broken promise, oldest first. -/
def insertLate (x : Late) : List Late → List Late
  | [] => [x]
  | y :: rest => if x.promise < y.promise then x :: y :: rest else y :: insertLate x rest

/-- A waiting troupe ends its wait with PROMISE_LATE when its wait is one of R358's. -/
def endWaitLate (s : State) (tk : Nat) : State :=
  match s.troupe tk with
  | none => s
  | some t => match t.late, kfind s.holds tk with
    | x :: rest, some h =>
      if endsAtPromise h.focus h.wait && t.halt != .halted && !t.stopped then
        let s := { (s.modTroupe tk (fun t => { t with wait := none, late := rest })) with holds := kdel s.holds tk }
        regap (raiseLate s h.focus x.engine x.promise)
      else s
    | _ :: _, none => match t.wait with
      | some (.header _) => if t.halt != .halted && !t.stopped then raiseAsync (s.modTroupe tk (fun t => { t with wait := none })) tk { t with wait := none } else s
      | _ => s
    | [], _ => s

/-- A troupe goes on after it was absent, pre-empted or halted: PROMISE_LATE is raised before its first bundle (R358). -/
def resumeLate (s : State) (tk : Nat) : State :=
  endWaitLate (s.modTroupe tk (fun t => { t with surfaced := t.surfaced || !t.late.isEmpty })) tk

/-- PROMISE_BROKEN (R358): the command has not completed by its promised cycle. Its troupe raises PROMISE_LATE once, if it
is still there. -/
def execPromiseBroken (core engine cmd : Nat) (s : State) : Res :=
  match ((s.core core).engine engine).find? (fun c => c.id == cmd) with
  | none => .next s
  | some c =>
    if c.broken || s.now ≤ c.promise then .next s
    else
      let s := breakCmd s core engine cmd
      let x : Late := { engine := engine, promise := c.promise, id := s.ids, cmd := c.id }
      let s := { s with ids := s.ids + 1 }
      let add (t : Troupe) : Troupe := { t with late := insertLate x t.late }
      if s.genOf c.troupe = c.gen && (match s.troupe c.troupe with | some t => t.ctx == c.ctx | none => false) then
        .next (endWaitLate (s.modTroupe c.troupe add) c.troupe)
      else
        let saved := s.saved.map (fun p => if p.1 = c.ens then
          (p.1, { p.2 with troupes := p.2.troupes.map (fun q => if q.1 = c.troupe then (q.1, add q.2) else q) }) else p)
        let mine (x : SavedUnit) : Bool :=
          x.ctx == c.ctx && kget 0 (kget Core.init x.cores (coreOf c.troupe)).gens (slotOf c.troupe) == c.gen
        .next { s with
          saved := saved,
          savedUnits := s.savedUnits.map (fun x => if mine x then
            { x with troupes := x.troupes.map (fun q => if q.1 = c.troupe then (q.1, add q.2) else q) } else x) }

end Sys2Proof.Machine
end

