-- ==== Sys2Proof/Machine/Float.lean ====
section
/-! DEFINITION. Floating point: CMP's f32 compares (07_scalar R154), FP (R157 to R160), FPX (R161) and SFU (R162 to R165). -/

namespace Sys2Proof.Machine

/-! ## f32 compares (R154) -/

/-- A compare of two f32 values; NV on a signalling NaN, or on any NaN when `loud`. -/
def cmpF (loud : Bool) (op : FVal → FVal → Bool) (a b : Word) : Bool × BitVec 5 :=
  let x := ffDecode f32 a.toNat
  let y := ffDecode f32 b.toNat
  (op x y, nvOf x ||| nvOf y ||| (if loud && fvUnordered x y then fpNV else 0))

/-- `feq` (R154). -/
def execFeq (x : CmpF) (s : State) : Res := execCmp x (cmpF false fvEq) s
/-- `flt` (R154). -/
def execFlt (x : CmpF) (s : State) : Res := execCmp x (cmpF true fvLt) s
/-- `fle` (R154). -/
def execFle (x : CmpF) (s : State) : Res := execCmp x (cmpF true (fun a b => fvLt a b || fvEq a b)) s
/-- `fun` (R154). -/
def execFun (x : CmpF) (s : State) : Res := execCmp x (cmpF false fvUnordered) s

/-! ## FP (R159, R160) -/

/-- A result of floating-point arithmetic as a word. -/
def fpWord (r : Nat × BitVec 5) : Word × BitVec 5 := (BitVec.ofNat 32 r.1, r.2)

/-- A two-source floating-point slot in one thread. -/
def bodyF2 (f : Focus) (t : Troupe) (x : RegF) (op : Word → Word → Word × BitVec 5) (i : Nat) (th : Thread) : Except Cause Fx :=
  match readSrc f (f.issue + i) i th x.a (x.ka == 1) with
  | .error c => .error c
  | .ok (a, th) => match readSrc f (f.issue + i) i th x.b (x.kb == 1) with
    | .error c => .error c
    | .ok (b, th) =>
      let r := op a.lo b.lo
      fpCheck t r.2 (writeDst (f.issue + i) th x.d (r.1.setWidth 64))

/-- An accumulating floating-point slot in one thread (R101). -/
def bodyF3 (f : Focus) (t : Troupe) (x : RegF) (op : Word → Word → Word → Word × BitVec 5) (i : Nat) (th : Thread) : Except Cause Fx :=
  match readSrc f (f.issue + i) i th x.a (x.ka == 1) with
  | .error c => .error c
  | .ok (a, th) => match readSrc f (f.issue + i) i th x.b (x.kb == 1) with
    | .error c => .error c
    | .ok (b, th) => match readSrc f (f.issue + i) i th x.d false with
      | .error c => .error c
      | .ok (d, th) =>
        let r := op a.lo b.lo d.lo
        fpCheck t r.2 (writeDst (f.issue + i) th x.d (r.1.setWidth 64))

/-- A one-source floating-point slot in one thread. -/
def bodyF1 (f : Focus) (t : Troupe) (d a : BitVec 6) (ka : BitVec 1) (op : Word → Word × BitVec 5) (i : Nat) (th : Thread) :
    Except Cause Fx :=
  match readSrc f (f.issue + i) i th a (ka == 1) with
  | .error c => .error c
  | .ok (a, th) =>
    let r := op a.lo
    fpCheck t r.2 (writeDst (f.issue + i) th d (r.1.setWidth 64))

/-- Runs a two-source floating-point slot. -/
def execF2 (x : RegF) (op : Word → Word → Word × BitVec 5) (s : State) : Res :=
  atSlot s (fun f t => perThread s f t (bodyF2 f t x op))
/-- Runs an accumulating floating-point slot. -/
def execF3 (x : RegF) (op : Word → Word → Word → Word × BitVec 5) (s : State) : Res :=
  atSlot s (fun f t => perThread s f t (bodyF3 f t x op))
/-- Runs a one-source floating-point slot. -/
def execF1 (x : UnF) (op : Word → Word × BitVec 5) (s : State) : Res :=
  atSlot s (fun f t => perThread s f t (bodyF1 f t x.d x.a x.ka op))

/-- f32 arithmetic on words. -/
def f32op2 (op : Nat → Nat → Nat × BitVec 5) (a b : Word) : Word × BitVec 5 := fpWord (op a.toNat b.toNat)
def f32op1 (op : Nat → Nat × BitVec 5) (a : Word) : Word × BitVec 5 := fpWord (op a.toNat)

/-- `fadd` (R159). -/
def execFadd (x : RegF) (s : State) : Res := execF2 x (f32op2 (ffAdd f32)) s
/-- `fsub` (R159). -/
def execFsub (x : RegF) (s : State) : Res := execF2 x (f32op2 (ffSub f32)) s
/-- `fmul` (R159). -/
def execFmul (x : RegF) (s : State) : Res := execF2 x (f32op2 (ffMul f32)) s
/-- `ffma` (R159). -/
def execFfma (x : RegF) (s : State) : Res := execF3 x (fun a b d => fpWord (ffFma f32 a.toNat b.toNat d.toNat)) s
/-- `fmin` (R160). -/
def execFmin (x : RegF) (s : State) : Res := execF2 x (f32op2 (ffMinMax f32 false)) s
/-- `fmax` (R160). -/
def execFmax (x : RegF) (s : State) : Res := execF2 x (f32op2 (ffMinMax f32 true)) s
/-- `fabs`: sign bit cleared (R159). -/
def execFabs (x : UnF) (s : State) : Res := execF1 x (fun a => (a &&& 0x7FFFFFFF, 0)) s
/-- `fneg`: sign bit inverted (R159). -/
def execFneg (x : UnF) (s : State) : Res := execF1 x (fun a => (a ^^^ 0x80000000, 0)) s
/-- `fcopysign` (R159). -/
def execFcopysign (x : RegF) (s : State) : Res :=
  execF2 x (fun a b => ((a &&& 0x7FFFFFFF) ||| (b &&& 0x80000000), 0)) s
/-- `ffloor` (R159). -/
def execFfloor (x : UnF) (s : State) : Res := execF1 x (f32op1 (ffIntegral f32 .floor)) s
/-- `fceil` (R159). -/
def execFceil (x : UnF) (s : State) : Res := execF1 x (f32op1 (ffIntegral f32 .ceil)) s
/-- `ftrunc` (R159). -/
def execFtrunc (x : UnF) (s : State) : Res := execF1 x (f32op1 (ffIntegral f32 .trunc)) s
/-- `frint` (R159). -/
def execFrint (x : UnF) (s : State) : Res := execF1 x (f32op1 (ffIntegral f32 .nearest)) s
/-- `fsat` (R159). -/
def execFsat (x : UnF) (s : State) : Res := execF1 x (f32op1 (ffSat01 f32)) s

/-! ## FPX (R161) -/

/-- The two halves of a packed pair. -/
def lowHalf (a : Word) : Nat := a.toNat % 65536
def highHalf (a : Word) : Nat := a.toNat / 65536
/-- Packs two half results; their exceptions are ORed (R161). -/
def packHalves (l h : Nat × BitVec 5) : Word × BitVec 5 := (BitVec.ofNat 32 (l.1 % 65536 + 65536 * h.1), l.2 ||| h.2)
/-- Applies an operation to both halves. -/
def halves2 (op : Nat → Nat → Nat × BitVec 5) (a b : Word) : Word × BitVec 5 :=
  packHalves (op (lowHalf a) (lowHalf b)) (op (highHalf a) (highHalf b))
def halves3 (op : Nat → Nat → Nat → Nat × BitVec 5) (a b d : Word) : Word × BitVec 5 :=
  packHalves (op (lowHalf a) (lowHalf b) (lowHalf d)) (op (highHalf a) (highHalf b) (highHalf d))

/-- `hadd.f16x2` (R161). -/
def execHaddF16x2 (x : RegF) (s : State) : Res := execF2 x (halves2 (ffAdd f16)) s
/-- `hmul.f16x2` (R161). -/
def execHmulF16x2 (x : RegF) (s : State) : Res := execF2 x (halves2 (ffMul f16)) s
/-- `hfma.f16x2` (R161). -/
def execHfmaF16x2 (x : RegF) (s : State) : Res := execF3 x (halves3 (ffFma f16)) s
/-- `hmin.f16x2` (R161). -/
def execHminF16x2 (x : RegF) (s : State) : Res := execF2 x (halves2 (ffMinMax f16 false)) s
/-- `hmax.f16x2` (R161). -/
def execHmaxF16x2 (x : RegF) (s : State) : Res := execF2 x (halves2 (ffMinMax f16 true)) s
/-- `hadd.bf16x2` (R161). -/
def execHaddBf16x2 (x : RegF) (s : State) : Res := execF2 x (halves2 (ffAdd bf16)) s
/-- `hmul.bf16x2` (R161). -/
def execHmulBf16x2 (x : RegF) (s : State) : Res := execF2 x (halves2 (ffMul bf16)) s
/-- `hfma.bf16x2` (R161). -/
def execHfmaBf16x2 (x : RegF) (s : State) : Res := execF3 x (halves3 (ffFma bf16)) s
/-- `hmin.bf16x2` (R161). -/
def execHminBf16x2 (x : RegF) (s : State) : Res := execF2 x (halves2 (ffMinMax bf16 false)) s
/-- `hmax.bf16x2` (R161). -/
def execHmaxBf16x2 (x : RegF) (s : State) : Res := execF2 x (halves2 (ffMinMax bf16 true)) s

/-! ## SFU (R162 to R165) -/

/-- The signals that an SFU slot finds at issue: NV and DZ (R165). -/
def sfuEarly (fl : BitVec 5) : BitVec 5 := fl &&& 0x18
/-- The signals known when the result arrives: OF, UF and NX (R165). -/
def sfuLate (fl : BitVec 5) : BitVec 5 := fl &&& 0x07

/-- An SFU result in one thread: NV and DZ are tested now, the word comes later. -/
def sfuFx (t : Troupe) (th : Thread) (r : Nat × BitVec 5) : Except Cause Fx :=
  fpCheck t (sfuEarly r.2) (.ok { th := th, g := none, fp := 0, sat := false, late := some ([BitVec.ofNat 32 r.1], sfuLate r.2) })

/-- A unary SFU slot (R162): KB selects the flag. -/
def execSfu1 (x : SfuF) (fn : Nat) (s : State) : Res :=
  atSlot s (fun f t => exposedSlot s f t (x.kb == 1) (uniformNames [x.d, x.a]) 20 x.d (fun i th =>
    match readSrc f (f.issue + i) i th x.a (x.ka == 1) with
    | .error c => .error c
    | .ok (a, th) => sfuFx t th (sfuUnary fn a.lo)))

/-- `rcp` (R164). -/
def execRcp (x : SfuF) (s : State) : Res := execSfu1 x 0 s
/-- `rsqrt` (R164). -/
def execRsqrt (x : SfuF) (s : State) : Res := execSfu1 x 1 s
/-- `sqrt` (R164). -/
def execSqrt (x : SfuF) (s : State) : Res := execSfu1 x 2 s
/-- `exp2` (R164). -/
def execExp2 (x : SfuF) (s : State) : Res := execSfu1 x 3 s
/-- `log2` (R164). -/
def execLog2 (x : SfuF) (s : State) : Res := execSfu1 x 4 s
/-- `sin` (R164). -/
def execSin (x : SfuF) (s : State) : Res := execSfu1 x 5 s
/-- `cos` (R164). -/
def execCos (x : SfuF) (s : State) : Res := execSfu1 x 6 s
/-- `tanh` (R164). -/
def execTanh (x : SfuF) (s : State) : Res := execSfu1 x 7 s
/-- `sigm` (R164). -/
def execSigm (x : SfuF) (s : State) : Res := execSfu1 x 8 s
/-- `div.f32` (R164): KB is B's peek bit when B is a queue, else the flag selector (R162). -/
def execDivF32 (x : RegF) (s : State) : Res :=
  atSlot s (fun f t => exposedSlot s f t (x.kb == 1 && !isQ x.b) (uniformNames [x.d, x.a, x.b]) 20 x.d (fun i th =>
    match readSrc f (f.issue + i) i th x.a (x.ka == 1) with
    | .error c => .error c
    | .ok (a, th) => match readSrc f (f.issue + i) i th x.b (x.kb == 1) with
      | .error c => .error c
      | .ok (b, th) => sfuFx t th (fvDiv f32 (ffDecode f32 a.lo.toNat) (ffDecode f32 b.lo.toNat))))

end Sys2Proof.Machine
end

