-- ==== Sys2Proof/Machine/Convert.lean ====
section
/-! DEFINITION. Conversions (06_numbers R121 to R137, R142 to R144): the small element formats, quantisation into MX blocks,
the keyed rotation, plane records, the palette register `fmt` (R138 to R140), and the CVT class. -/

namespace Sys2Proof.Machine

/-! ## The element formats of MX blocks (R121, R122) -/

/-- An element format of an MX block: fraction width, bias, the exponent emx of R128, the code of the largest finite
magnitude, and the weight of the sign bit. -/
structure MxFmt where
  mb : Nat
  bias : Nat
  emx : Int
  top : Nat
  sign : Nat
deriving DecidableEq, Repr

/-- E4M3, E5M2 and E2M1 by format code (R121, R128). -/
def mxFmt (code : Nat) : MxFmt :=
  match code with
  | 3 => { mb := 3, bias := 7, emx := 8, top := 0x7E, sign := 128 }
  | 4 => { mb := 2, bias := 15, emx := 15, top := 0x7B, sign := 128 }
  | _ => { mb := 1, bias := 1, emx := 2, top := 7, sign := 8 }

/-- The magnitude of a finite code as m × 2^e (R122). -/
def MxFmt.mag (f : MxFmt) (c : Nat) : Nat × Int :=
  let x := c / 2 ^ f.mb
  let m := c % 2 ^ f.mb
  if x = 0 then (m, 1 - (f.bias : Int) - f.mb) else (2 ^ f.mb + m, (x : Int) - f.bias - f.mb)

/-- m × 2^e exceeds n × 2^g. -/
def scaledLt (n : Nat) (g : Int) (m : Nat) (e : Int) : Bool :=
  let b := min g e
  decide (n * 2 ^ (g - b).toNat < m * 2 ^ (e - b).toNat)

/-- m × 2^e rounded to nearest even into a format: the code, whether it is inexact, and whether it saturated (R128, R144). -/
def MxFmt.round (f : MxFmt) (m : Nat) (e : Int) : Nat × Bool × Bool :=
  if m = 0 then (0, false, false)
  else
    let t := f.mag f.top
    if scaledLt t.1 t.2 m e then (f.top, true, true)
    else
      let least : Int := 1 - (f.bias : Int) - f.mb
      let q := max ((Nat.log2 m : Int) + e - f.mb) least
      let r := roundAt m e false q
      ((q - least).toNat * 2 ^ f.mb + r.1, r.2, false)

/-- The value of a code of an MX element format (R121, R122; its scale, R123, is the caller's): E4M3 has one NaN code and no infinity, E5M2 has both, E2M1
neither. -/
def mxDecode (code c : Nat) : FVal :=
  let f := mxFmt code
  let neg := c / f.sign % 2 == 1
  let c := c % f.sign
  if code = 3 && c = 0x7F then .nan false
  else if code = 4 && 0x7C ≤ c then (if c = 0x7C then .inf neg else .nan false)
  else .fin neg (f.mag c).1 (f.mag c).2

/-! ## Scalar conversions (R143, R144) -/

/-- What a conversion gives: the word, the IEEE signals, and whether SAT is set. -/
abbrev Cvt := Word × BitVec 5 × Bool

/-- A word without saturation. -/
def cvtPlain (r : Word × BitVec 5) : Cvt := (r.1, r.2, false)

/-- `cvt.f32.i32` and `cvt.f32.n32`. -/
def cvtFromInt (v : Int) : Cvt := cvtPlain (fpWord (ffRound f32 (decide (v < 0)) v.natAbs 0 false))
/-- An f32 value as an integer of a range (R144). -/
def cvtToInt (mode : RMode) (lo hi : Int) (a : Word) : Cvt :=
  match ffDecode f32 a.toNat with
  | .nan _ => (0, 0, true)
  | .inf n => (BitVec.ofInt 32 (if n then lo else hi), 0, true)
  | .fin n m e =>
    let r := toIntMode mode n m e
    if r.1 < lo then (BitVec.ofInt 32 lo, 0, true)
    else if hi < r.1 then (BitVec.ofInt 32 hi, 0, true)
    else (BitVec.ofInt 32 r.1, if r.2 then fpNX else 0, false)
/-- `cvt.f16x2.f32` and `cvt.bf16x2.f32`. -/
def cvtPair (dst : FFmt) (a b : Word) : Cvt := cvtPlain (packHalves (ffConvert f32 dst a.toNat) (ffConvert f32 dst b.toNat))
/-- A half format to f32. -/
def cvtHalf (src : FFmt) (n : Nat) : Cvt := cvtPlain (fpWord (ffConvert src f32 n))
/-- A code of an MX element format to f32. -/
def cvtElement (code c : Nat) : Cvt := cvtPlain (fpWord (fvRound f32 (mxDecode code c)))
/-- `cvt.e4m3.f32` and `cvt.e5m2.f32`. -/
def cvtToElement (code : Nat) (a : Word) : Cvt :=
  let f := mxFmt code
  match ffDecode f32 a.toNat with
  | .nan s => (if code = 3 then 0x7F else 0x7E, if s then fpNV else 0, false)
  | .inf n => (BitVec.ofNat 32 (f.top + (if n then f.sign else 0)), fpNX, true)
  | .fin n m e =>
    let r := f.round m e
    (BitVec.ofNat 32 (r.1 + (if n then f.sign else 0)),
     if r.2.2 then fpNX else if r.2.1 then (if r.1 < 2 ^ f.mb then fpUF ||| fpNX else fpNX) else 0, r.2.2)

def cvtI32F32 (a : Word) : Cvt := cvtToInt .nearest (-2147483648) 2147483647 a
def cvtN32F32 (a : Word) : Cvt := cvtToInt .nearest 0 4294967295 a
def cvtI32F32Rz (a : Word) : Cvt := cvtToInt .trunc (-2147483648) 2147483647 a
def cvtF32I32 (a : Word) : Cvt := cvtFromInt a.toInt
def cvtF32N32 (a : Word) : Cvt := cvtFromInt a.toNat

/-- Writes a conversion's result in one thread, with its signals and SAT; FP_EXC is never raised (R142). -/
def cvtWrite (cyc : Nat) (th : Thread) (d : BitVec 6) (r : Cvt) : Except Cause Fx :=
  match writeDst cyc th d (r.1.setWidth 64) with
  | .error c => .error c
  | .ok x => .ok { x with fp := r.2.1, sat := r.2.2 }

/-- Runs a conversion of one source. -/
def execCvt1 (d a : BitVec 6) (ka : BitVec 1) (op : Word → Cvt) (s : State) : Res :=
  atSlot s (fun f t => perThread s f t (fun i th =>
    match readSrc f (f.issue + i) i th a (ka == 1) with
    | .error c => .error c
    | .ok (a, th) => cvtWrite (f.issue + i) th d (op a.lo)))

/-- Runs a conversion of two sources. -/
def execCvt2 (x : RegF) (op : Word → Word → Cvt) (s : State) : Res :=
  atSlot s (fun f t => perThread s f t (fun i th =>
    match readSrc f (f.issue + i) i th x.a (x.ka == 1) with
    | .error c => .error c
    | .ok (a, th) => match readSrc f (f.issue + i) i th x.b (x.kb == 1) with
      | .error c => .error c
      | .ok (b, th) => cvtWrite (f.issue + i) th x.d (op a.lo b.lo)))

/-- `cvt.f32.i32` (R143). -/
def execCvtF32I32 (x : UnF) (s : State) : Res := execCvt1 x.d x.a x.ka cvtF32I32 s
/-- `cvt.f32.n32` (R143). -/
def execCvtF32N32 (x : UnF) (s : State) : Res := execCvt1 x.d x.a x.ka cvtF32N32 s
/-- `cvt.i32.f32` (R143, R144). -/
def execCvtI32F32 (x : UnF) (s : State) : Res := execCvt1 x.d x.a x.ka cvtI32F32 s
/-- `cvt.n32.f32` (R143, R144). -/
def execCvtN32F32 (x : UnF) (s : State) : Res := execCvt1 x.d x.a x.ka cvtN32F32 s
/-- `cvt.i32.f32.rz` (R143, R144). -/
def execCvtI32F32Rz (x : UnF) (s : State) : Res := execCvt1 x.d x.a x.ka cvtI32F32Rz s
/-- `cvt.f16x2.f32` (R143). -/
def execCvtF16x2F32 (x : RegF) (s : State) : Res := execCvt2 x (cvtPair f16) s
/-- `cvt.bf16x2.f32` (R143). -/
def execCvtBf16x2F32 (x : RegF) (s : State) : Res := execCvt2 x (cvtPair bf16) s
/-- `cvt.f32.f16` (R143). -/
def execCvtF32F16 (x : UnF) (s : State) : Res := execCvt1 x.d x.a x.ka (fun a => cvtHalf f16 (lowHalf a)) s
/-- `cvt.f32.f16h` (R143). -/
def execCvtF32F16h (x : UnF) (s : State) : Res := execCvt1 x.d x.a x.ka (fun a => cvtHalf f16 (highHalf a)) s
/-- `cvt.f32.bf16` (R143). -/
def execCvtF32Bf16 (x : UnF) (s : State) : Res := execCvt1 x.d x.a x.ka (fun a => cvtHalf bf16 (lowHalf a)) s
/-- `cvt.f32.bf16h` (R143). -/
def execCvtF32Bf16h (x : UnF) (s : State) : Res := execCvt1 x.d x.a x.ka (fun a => cvtHalf bf16 (highHalf a)) s
/-- `cvt.f32.e4m3` (R143): byte n of A. -/
def execCvtF32E4m3 (x : Byte4F) (s : State) : Res :=
  execCvt1 x.d x.a x.ka (fun a => cvtElement 3 (a.toNat / 256 ^ x.idx.toNat % 256)) s
/-- `cvt.f32.e5m2` (R143). -/
def execCvtF32E5m2 (x : Byte4F) (s : State) : Res :=
  execCvt1 x.d x.a x.ka (fun a => cvtElement 4 (a.toNat / 256 ^ x.idx.toNat % 256)) s
/-- `cvt.f32.e2m1` (R143): nibble n of A. -/
def execCvtF32E2m1 (x : Nib8F) (s : State) : Res :=
  execCvt1 x.d x.a x.ka (fun a => cvtElement 5 (a.toNat / 16 ^ x.idx.toNat % 16)) s
/-- `cvt.e4m3.f32` (R143, R144). -/
def execCvtE4m3F32 (x : UnF) (s : State) : Res := execCvt1 x.d x.a x.ka (cvtToElement 3) s
/-- `cvt.e5m2.f32` (R143, R144). -/
def execCvtE5m2F32 (x : UnF) (s : State) : Res := execCvt1 x.d x.a x.ka (cvtToElement 4) s

/-! ## The palette register `fmt` (R138 to R140) -/

/-- `fmt` as an operation issued in cycle c reads it: the last write issued at or before c − 4. -/
def Core.fmtAt (k : Core) (c : Nat) : Dword := k.fmtNext.foldl (fun v p => if p.1 ≤ c then p.2 else v) k.fmt
/-- `fmt` after every write issued so far. -/
def Core.fmtLast (k : Core) : Dword := (k.fmtNext.getLast?.map (fun p => p.2)).getD k.fmt
/-- A write to `fmt` issued in cycle w. -/
def Core.fmtWrite (k : Core) (w : Nat) (v : Dword) : Core :=
  { k with fmt := k.fmtAt w, fmtNext := k.fmtNext.filter (fun p => decide (w < p.1)) ++ [(w + 4, v)] }
/-- The bits of `fmt` that hold a field: PLANES, AFMT, WFMT, ROT, SPARE (R138). -/
def fmtMask : Dword := 0xC771F
/-- PLANES, AFMT, WFMT, ROT and SPARE of a value of `fmt`. -/
def fmtPlanes (v : Dword) : Nat := v.toNat % 32
def fmtA (v : Dword) : Nat := v.toNat / 256 % 8
def fmtW (v : Dword) : Nat := v.toNat / 4096 % 8
def fmtRot (v : Dword) : Bool := v.getLsbD 18
def fmtSpare (v : Dword) : Bool := v.getLsbD 19
/-- The fields that a mask selects hold legal values (R139, R141). -/
def fmtLegal (m v : Dword) : Bool :=
  (m &&& 0x1F == 0 || (decide (2 ≤ fmtPlanes v) && decide (fmtPlanes v ≤ 17))) &&
  (m &&& 0x700 == 0 || decide (fmtA v < 6)) && (m &&& 0x7000 == 0 || decide (fmtW v < 6))

/-! ## The keyed rotation (R131, R132) -/

/-- key(seed, row, col). -/
def rotKey (seed : Dword) (row col : Nat) : Dword :=
  let x := seed ^^^ (BitVec.ofNat 64 row * 0x9E3779B97F4A7C15) ^^^ (BitVec.ofNat 64 (col + 1) * 0xD6E8FEB86659FD93)
  let x := (x ^^^ (x >>> 30)) * 0xBF58476D1CE4E5B9
  let x := (x ^^^ (x >>> 27)) * 0x94D049BB133111EB
  x ^^^ (x >>> 31)

/-- The sign of a position of a rotation row flips. -/
def rotFlip (seed : Dword) (row col : Nat) : Bool := (rotKey seed row col).getLsbD 63

/-- Flips the signs of 32 f32 patterns. -/
def rotSigns (seed : Dword) (row : Nat) (l : List Nat) : List Nat :=
  l.zipIdx.map (fun p => if rotFlip seed row p.2 then (p.1 + 2147483648) % 4294967296 else p.1)

/-- One stage of the Hadamard transform with distance h. -/
def rotStage (h : Nat) (l : List Nat) : List Nat × FpFlags :=
  let rs := l.zipIdx.map (fun p =>
    if p.2 / h % 2 = 0 then ffAdd f32 p.1 (l.getD (p.2 + h) 0) else ffSub f32 (l.getD (p.2 - h) 0) p.1)
  (rs.map (fun r => r.1), rs.foldl (fun m r => m ||| r.2) 0)

/-- The transform alone: five stages. -/
def hadamard (l : List Nat) : List Nat × FpFlags :=
  [1, 2, 4, 8, 16].foldl (fun (a : List Nat × FpFlags) h => let r := rotStage h a.1; (r.1, a.2 ||| r.2)) (l, 0)

/-- Rotates 32 f32 patterns of a rotation row. -/
def rotate32 (seed : Dword) (row : Nat) (l : List Nat) : List Nat × FpFlags := hadamard (rotSigns seed row l)

/-- Splits a list into runs of n, at most `fuel` of them. -/
def runsOf {α : Type} (n : Nat) : Nat → List α → List (List α)
  | 0, _ => []
  | _ + 1, [] => []
  | fuel + 1, l => l.take n :: runsOf n fuel (l.drop n)

/-- Rotates groups of 32 from a rotation row on. -/
def rotateRow (seed : Dword) (row0 : Nat) (l : List Nat) : List Nat × FpFlags :=
  let rs := (runsOf 32 l.length l).zipIdx.map (fun p => rotate32 seed (row0 + p.2) p.1)
  (rs.flatMap (fun r => r.1), rs.foldl (fun m r => m ||| r.2) 0)

/-! ## MX blocks (R124 to R128) -/

/-- A finite f32 value in units of 2^−149. -/
structure Unit149 where
  neg : Bool
  u : Nat
deriving DecidableEq, Repr

/-- A finite f32 pattern in units of 2^−149; none for an infinity or a NaN. -/
def unitsOf (x : Nat) : Option Unit149 :=
  match ffDecode f32 x with
  | .fin n m e => some { neg := n, u := m * 2 ^ (e + 149).toNat }
  | _ => none

/-- A quantised block: the element codes, scale, spare, and whether a value saturated. -/
structure Quant where
  codes : List Nat
  scale : Nat
  spare : Nat
  sat : Bool
deriving DecidableEq, Repr

/-- The largest magnitude of a list and its lowest position. -/
def maxMag (l : List Unit149) : Nat := l.foldl (fun m x => max m x.u) 0

/-- Quantisation of 24 finite values (R128). -/
def quantFinite (code : Nat) (useSpare : Bool) (l : List Unit149) : Quant :=
  let f := mxFmt code
  let amax := maxMag l
  let o := if code = 5 && useSpare && amax != 0 then l.findIdx? (fun x => x.u == amax) else none
  let amax := match o with | some i => maxMag (l.eraseIdx i) | none => amax
  let e : Int := if amax = 0 then -127 else (Nat.log2 amax : Int) - 149 - f.emx
  let e := min 127 (max (-127) e)
  let rs := l.zipIdx.map (fun p =>
    if o = some p.2 then (8, false)
    else
      let r := f.round p.1.u (-149 - e)
      if code = 5 && r.1 = 0 then (0, r.2.2) else (r.1 + (if p.1.neg then f.sign else 0), r.2.2))
  let sp : Nat × Bool := match o with
    | none => (0, false)
    | some i =>
      let x := l.getD i { neg := false, u := 0 }
      let big := scaledLt 127 0 x.u (-148 - e)
      let v := if big then 127 else (toIntMode .nearest false x.u (-148 - e)).1.toNat
      (if x.neg then (256 - v) % 256 else v, big)
  { codes := rs.map (fun r => r.1), scale := (e + 127).toNat, spare := sp.1, sat := sp.2 || rs.any (fun r => r.2) }

/-- Quantisation of 24 f32 patterns; none when one is infinite or NaN (R128). -/
def quantBlock (code : Nat) (useSpare : Bool) (l : List Nat) : Option Quant :=
  let us := l.filterMap unitsOf
  if us.length = l.length then some (quantFinite code useSpare us) else none

/-- The bytes of the element run of a list of codes: bytes, or nibbles with the even element low (R124). -/
def packCodes (code : Nat) (cs : List Nat) : List Byte :=
  if code = 5 then (runsOf 2 cs.length cs).map (fun p => BitVec.ofNat 8 (p.getD 0 0 + 16 * p.getD 1 0))
  else cs.map (BitVec.ofNat 8)

/-- The codes of an element run. -/
def unpackCodes (code : Nat) (bs : List Byte) : List Nat :=
  if code = 5 then bs.flatMap (fun b => [b.toNat % 16, b.toNat / 16]) else bs.map (fun b => b.toNat)

/-- A spare as a signed number. -/
def spareInt (b : Nat) : Int := if 128 ≤ b then (b : Int) - 256 else b

/-- A block breaks R127: a spare of 0x80 that some element reads, or a nonzero spare in an 8-bit format. -/
def blockBad (code : Nat) (cs : List Nat) (spare : Nat) : Bool :=
  if code = 5 then spare == 0x80 && cs.contains 8 else spare != 0

/-- The value of an element of a block with a scale that is not NaN (R124, R125). -/
def blockValue (code scale spare c : Nat) : FVal :=
  if code = 5 && c = 8 then .fin (decide (spareInt spare < 0)) (spareInt spare).natAbs ((scale : Int) - 128)
  else match mxDecode code c with
    | .fin n m e => .fin n m (e + (scale : Int) - 127)
    | v => v

/-- An element of a block rounded once into a format; a scale of 0xFF gives NaN (R127). -/
def blockTo (dst : FFmt) (code scale spare c : Nat) : Nat × FpFlags :=
  if scale = 0xFF then (ffNan dst, 0) else fvRound dst (blockValue code scale spare c)

/-! ## Plane records (R134 to R137) -/

/-- A plane record: P, source format, rotated mark, the four block exponents, 96 values. -/
structure PlaneRec where
  p : Nat
  fmt : Nat
  rotated : Bool
  exps : List Int
  vals : List Int
deriving DecidableEq, Repr

/-- A block of 24 in planes: exponent, values, and whether one was clamped. -/
structure PlaneBlock where
  exp : Int
  vals : List Int
  sat : Bool
deriving DecidableEq, Repr

/-- The largest value at P planes, 2^(P−1) − 1. -/
def planeTop (p : Nat) : Int := (2 ^ (p - 1) : Nat) - 1

/-- Clamps to ±(2^(P−1) − 1). -/
def planeClamp (p : Nat) (v : Int) : Int × Bool :=
  if planeTop p < v then (planeTop p, true) else if v < -planeTop p then (-planeTop p, true) else (v, false)

/-- An E2M1 block converts in half-units of its scale (R135). -/
def planesOfE2m1 (p scale spare : Nat) (cs : List Nat) : PlaneBlock :=
  let rs := cs.map (fun c =>
    if c = 8 then planeClamp p (spareInt spare)
    else
      let m : Int := [0, 1, 2, 3, 4, 6, 8, 12].getD (c % 8) 0
      planeClamp p (if 8 ≤ c then -m else m))
  { exp := (scale : Int) - 128, vals := rs.map (fun r => r.1), sat := rs.any (fun r => r.2) }

/-- 24 values convert to a common exponent; none when one is infinite or NaN (R136). -/
def planesOf (p : Nat) (l : List FVal) : Option PlaneBlock :=
  if l.all fvFinite then
    let ms := l.map (fun v => match v with | .fin n m e => (n, m, e) | _ => (false, 0, 0))
    let tops := (ms.filter (fun x => x.2.1 != 0)).map (fun x => (Nat.log2 x.2.1 : Int) + x.2.2)
    match tops with
    | [] => some { exp := 0, vals := ms.map (fun _ => 0), sat := false }
    | t :: ts =>
      let e := ts.foldl max t - p + 2
      let rs := ms.map (fun x => planeClamp p (toIntMode .nearest x.1 x.2.1 (x.2.2 - e)).1)
      some { exp := e, vals := rs.map (fun r => r.1), sat := rs.any (fun r => r.2) }
  else none

/-- The bits of plane i: bit e is set when the two's complement of value e in P bits has it (R134). -/
def planeBits (p i : Nat) (vals : List Int) : Nat :=
  (vals.zipIdx.map (fun x =>
    let u := if x.1 < 0 then ((2 ^ p : Nat) + x.1 : Int).toNat else x.1.toNat
    u / 2 ^ (p - 1 - i) % 2 * 2 ^ x.2)).foldl (· + ·) 0

/-- A number as n bytes, little-endian. -/
def leBytes (n v : Nat) : List Byte := (upTo n).map (fun i => BitVec.ofNat 8 (v / 256 ^ i))
/-- A signed number as 16 bits. -/
def int16 (v : Int) : Nat := (BitVec.ofInt 16 v).toNat

/-- The bytes of a plane record (R134). -/
def PlaneRec.bytes (r : PlaneRec) : List Byte :=
  r.exps.flatMap (fun x => leBytes 2 (int16 x)) ++
  [BitVec.ofNat 8 r.p, BitVec.ofNat 8 r.fmt, if r.rotated then 1 else 0, 0, 0, 0, 0, 0] ++
  (upTo r.p).flatMap (fun i => leBytes 16 (planeBits r.p i r.vals))

/-- A number from bytes, little-endian. -/
def bytesNat (l : List Byte) : Nat := l.foldr (fun b r => b.toNat + 256 * r) 0
/-- n bytes from a position as a number. -/
def fieldAt (l : List Byte) (i n : Nat) : Nat := bytesNat ((l.drop i).take n)
/-- A field as a signed number. -/
def signedAt (l : List Byte) (i n : Nat) : Int :=
  let v := fieldAt l i n
  if 256 ^ n / 2 ≤ v then (v : Int) - (256 ^ n : Nat) else v

/-- Value e of the planes of a record with P planes (R134). -/
def planeValue (p e : Nat) (planes : List Nat) : Int :=
  let u : Nat := planes.foldl (fun (n b : Nat) => 2 * n + b / 2 ^ e % 2) 0
  if 2 ^ (p - 1) ≤ u then (u : Int) - (2 ^ p : Nat) else u

/-- A record from its bytes, whatever they hold. -/
def readRec (l : List Byte) : PlaneRec :=
  let p := fieldAt l 8 1
  let planes := (upTo p).map (fun i => fieldAt l (16 + 16 * i) 16)
  { p := p, fmt := fieldAt l 9 1, rotated := fieldAt l 10 1 % 2 == 1,
    exps := (upTo 4).map (fun b => signedAt l (2 * b) 2), vals := (upTo 96).map (fun e => planeValue p e planes) }

end Sys2Proof.Machine
end

