-- ==== Sys2Proof/Machine/Vector.lean ====
section
/-! DEFINITION. The vector unit (08_vector R166 to R181): the VEC class, and the VMEM class with its scratch accesses. -/

namespace Sys2Proof.Machine

/-- A vector register: 96 elements (R166). -/
abbrev VReg := List Word

/-- A vector register as it stood at issue; one that was never written since its claim is zero (R111, R169). -/
def vreg (f : Focus) (x : BitVec 5) : VReg := kget (List.replicate 96 0) f.latch.vregs x.toNat

/-- What a VEC op does: a vector register or a g register written, IEEE signals, saturation (R171). -/
structure VecFx where
  reg : Option VReg
  g : Option Dword
  fp : BitVec 5
  sat : Bool
deriving DecidableEq, Repr

/-- The register and signals of one conversion or operation per element. -/
def vecOf (l : List Cvt) : VecFx :=
  { reg := some (l.map (fun r => r.1)), g := none, fp := l.foldl (fun m r => m ||| r.2.1) 0, sat := l.any (fun r => r.2.2) }

/-- A VEC op's effects. -/
def applyVec (d : BitVec 5) (r : VecFx) (t : Troupe) : Troupe :=
  let t := match r.reg with | some v => { t with vregs := kset t.vregs d.toNat v, badVregs := t.badVregs.filter (fun n => n != d.toNat) } | none => t
  let t := match r.g with | some v => if d = 31 then t else t.gwrite d.toNat v | none => t
  { t with fpFlags := t.fpFlags ||| r.fp, sat := if r.sat then 1 else t.sat }

/-- A vector field lies at or above the troupe's claim (R111). -/
def unclaimed (t : Troupe) (l : List (BitVec 5)) : Bool := l.any (fun x => decide (t.vclaim ≤ x.toNat))

/-- One of the registers that a slot reads holds an uncorrectable word (R458). -/
def vregsBad (f : Focus) (l : List (BitVec 5)) : Bool := l.any (fun x => f.latch.badVregs.contains x.toNat)

/-- Runs a VEC slot (R171): once, when an active thread passes; `regs` are the vector registers that it names, and `reads` those that it
reads, whose uncorrectable word traps (R458). -/
def vecSlot (d : BitVec 5) (regs reads : List (BitVec 5)) (op : Focus → State → Except Cause VecFx) (s : State) : Res :=
  atUniform s (fun f t =>
    if unclaimed t regs then trapAll s f (openCause cVregUnclaimed 0 f.issue)
    else if vregsBad f reads then trapAll s f (openCause cDataUnc 0 f.issue)
    else match op f s with
      | .error c => trapAll s f c
      | .ok r => s.modTroupe f.troupe (applyVec d r))

/-! ## Arithmetic (R172) -/

/-- The six functions of R172. -/
inductive VFn where
  | add | sub | mul | fma | max | min
deriving DecidableEq, Repr

/-- A function in a floating format. -/
def vFloat (fn : VFn) (f : FFmt) (a b d : Nat) : Nat × BitVec 5 :=
  match fn with
  | .add => ffAdd f a b
  | .sub => ffSub f a b
  | .mul => ffMul f a b
  | .fma => ffFma f a b d
  | .max => ffMinMax f true a b
  | .min => ffMinMax f false a b

/-- A sum or difference as 32 bits, clamped when `sat`. -/
def vClamp (sat : Bool) (lo hi v : Int) : Cvt :=
  if sat && decide (v < lo) then (BitVec.ofInt 32 lo, 0, true)
  else if sat && decide (hi < v) then (BitVec.ofInt 32 hi, 0, true)
  else (BitVec.ofInt 32 v, 0, false)

/-- A function on integers of a range. -/
def vInt (fn : VFn) (sat : Bool) (lo hi a b d : Int) : Cvt :=
  match fn with
  | .add => vClamp sat lo hi (a + b)
  | .sub => vClamp sat lo hi (a - b)
  | .mul => (BitVec.ofInt 32 (a * b), 0, false)
  | .fma => (BitVec.ofInt 32 (a * b + d), 0, false)
  | .max => (BitVec.ofInt 32 (max a b), 0, false)
  | .min => (BitVec.ofInt 32 (min a b), 0, false)

/-- One element of an arithmetic op. -/
def vElement (fn : VFn) (ty : Nat) (sat : Bool) (a b d : Word) : Cvt :=
  match ty with
  | 0 => cvtPlain (fpWord (vFloat fn f32 a.toNat b.toNat d.toNat))
  | 1 => cvtPlain (halves3 (vFloat fn f16) a b d)
  | 2 => cvtPlain (halves3 (vFloat fn bf16) a b d)
  | 3 => vInt fn sat (-2147483648) 2147483647 a.toInt b.toInt d.toInt
  | _ => vInt fn sat 0 4294967295 a.toNat b.toNat d.toNat

/-- Runs an arithmetic op (R172). -/
def vArith (fn : VFn) (x : VarF) (s : State) : Res :=
  vecSlot x.d (if bsOf x.sub then [x.d, x.a] else [x.d, x.a, x.b])
    ((if fn = .fma then [x.d] else []) ++ (if bsOf x.sub then [x.a] else [x.a, x.b])) (fun f _ =>
    let b := if bsOf x.sub then List.replicate 96 ((vField f x.b).setWidth 32) else vreg f x.b
    let d := vreg f x.d
    .ok (vecOf (((vreg f x.a).zip (b.zip d)).map (fun p => vElement fn (x.sub.toNat % 8) (satOf x.sub) p.1 p.2.1 p.2.2)))) s

/-- `vadd` (R172). -/
def execVadd (x : VarF) (s : State) : Res := vArith .add x s
/-- `vsub` (R172). -/
def execVsub (x : VarF) (s : State) : Res := vArith .sub x s
/-- `vmul` (R172). -/
def execVmul (x : VarF) (s : State) : Res := vArith .mul x s
/-- `vfma` (R172). -/
def execVfma (x : VarF) (s : State) : Res := vArith .fma x s
/-- `vmax` (R172). -/
def execVmax (x : VarF) (s : State) : Res := vArith .max x s
/-- `vmin` (R172). -/
def execVmin (x : VarF) (s : State) : Res := vArith .min x s

/-! ## Functions (R173) -/

/-- Runs a function of one argument on every element. -/
def vUnary (fn : Nat) (x : VunF) (s : State) : Res :=
  vecSlot x.d [x.d, x.a] [x.a] (fun f _ => .ok (vecOf ((vreg f x.a).map (fun a => cvtPlain (fpWord (sfuUnary fn a)))))) s

/-- `vexp2` (R173). -/
def execVexp2 (x : VunF) (s : State) : Res := vUnary 3 x s
/-- `vrcp` (R173). -/
def execVrcp (x : VunF) (s : State) : Res := vUnary 0 x s
/-- `vrsq` (R173). -/
def execVrsq (x : VunF) (s : State) : Res := vUnary 1 x s
/-- `vtanh` (R173). -/
def execVtanh (x : VunF) (s : State) : Res := vUnary 7 x s

/-! ## Conversion (R174 to R176) -/

/-- The bytes of a register and the register of 384 bytes (R166). -/
def vregBytes (v : VReg) : List Byte := v.flatMap (fun w => leBytes 4 w.toNat)
def bytesVreg (l : List Byte) : VReg := (upTo 96).map (fun i => BitVec.ofNat 32 (fieldAt l (4 * i) 4))

/-- One element of codes 0 to 10. -/
def vcvtElement (code : Nat) (a b : Word) : Cvt :=
  match code with
  | 0 => cvtI32F32 a
  | 1 => cvtI32F32Rz a
  | 2 => cvtN32F32 a
  | 3 => cvtF32I32 a
  | 4 => cvtF32N32 a
  | 5 => cvtPair f16 a b
  | 6 => cvtPair bf16 a b
  | 7 => cvtHalf f16 (lowHalf a)
  | 8 => cvtHalf f16 (highHalf a)
  | 9 => cvtHalf bf16 (lowHalf a)
  | _ => cvtHalf bf16 (highHalf a)

/-- The 384 bytes of a block image (R175). -/
def blockImage (code : Nat) (qs : List Quant) : List Byte :=
  let el := packCodes code (qs.flatMap (fun q => q.codes))
  let el := el ++ List.replicate (96 - el.length) 0
  el ++ qs.flatMap (fun q => [BitVec.ofNat 8 q.scale, BitVec.ofNat 8 q.spare]) ++ List.replicate 280 0

/-- Quantises 96 f32 patterns into a block image; none on an infinite or NaN input (R175). -/
def vQuantise (code : Nat) (useSpare : Bool) (l : List Nat) : Option (VReg × Bool) :=
  let qs := (runsOf 24 4 l).filterMap (quantBlock code useSpare)
  if qs.length = 4 then some (bytesVreg (blockImage code qs), qs.any (fun q => q.sat)) else none

/-- Expands a block image; none when a block breaks R127 (R176). -/
def vExpand (code : Nat) (v : VReg) : Option (List (Word × BitVec 5)) :=
  let l := vregBytes v
  let cs := runsOf 24 4 (unpackCodes code (l.take (if code = 5 then 48 else 96)))
  if cs.zipIdx.any (fun p => blockBad code p.1 (fieldAt l (97 + 2 * p.2) 1)) then none
  else some (cs.zipIdx.flatMap (fun p =>
    p.1.map (fun c => fpWord (blockTo f32 code (fieldAt l (96 + 2 * p.2) 1) (fieldAt l (97 + 2 * p.2) 1) c))))

/-- Codes 11 to 13 (R175): rotation first when `fmt`.ROT is 1. -/
def vcvtQuant (code : Nat) (fmt : Dword) (f : Focus) (x : VsubF) : Except Cause VecFx :=
  let a := (vreg f x.a).map (fun w => w.toNat)
  let bad : Cause := openCause cFormat 0 f.issue
  let k0 := ((f.latch.gread (x.b.toNat + 1)).setWidth 32).toNat
  if fmtRot fmt && k0 % 96 != 0 then .error bad
  else
    let r := if fmtRot fmt then rotateRow (f.latch.gread x.b.toNat) (k0 / 32) a else (a, 0)
    match vQuantise code (fmtSpare fmt) r.1 with
    | none => .error bad
    | some (v, sat) => .ok { reg := some v, g := none, fp := r.2, sat := sat }

/-- `vcvt` (R174 to R176). With `fmt`.ROT 0, a nonzero VB beside codes 11 to 13 raises ILLEGAL_SLOT (R170). -/
def execVcvt (x : VsubF) (s : State) : Res :=
  let code := x.sub.toNat
  match s.focus with
  | none => .fault .noSlot
  | some f =>
    let fmt := (s.core (coreOf f.troupe)).fmtAt f.issue
    if 11 ≤ code && code ≤ 13 && !fmtRot fmt && x.b != 0 then .next (illegalSlot s f)
    else vecSlot x.d (if code = 5 || code = 6 then [x.d, x.a, x.b] else [x.d, x.a]) (if code = 5 || code = 6 then [x.a, x.b] else [x.a]) (fun f _ =>
      if code ≤ 10 then .ok (vecOf (((vreg f x.a).zip (vreg f x.b)).map (fun p => vcvtElement code p.1 p.2)))
      else if code ≤ 13 then vcvtQuant (code - 8) fmt f x
      else match vExpand (code - 11) (vreg f x.a) with
        | none => .error (openCause cFormat 0 f.issue)
        | some l => .ok (vecOf (l.map cvtPlain))) s

/-! ## Reduction, scan, broadcast, select and permute (R177, R178) -/

/-- Combines two elements under an OP (0 add, 1 max, 2 min) and a TYPE. -/
def vCombine (op ty : Nat) (a b : Word) : Word × BitVec 5 :=
  let fn : VFn := match op with | 0 => .add | 1 => .max | _ => .min
  let r := vElement fn ty false a b 0
  (r.1, r.2.1)

/-- One stage of the tree: the first h elements, each with the one h further. -/
def vredStage (op ty h : Nat) (y : VReg) : VReg × BitVec 5 :=
  let rs := (upTo h).map (fun i => vCombine op ty (y.getD i 0) (y.getD (i + h) 0))
  (rs.map (fun r => r.1), rs.foldl (fun m r => m ||| r.2) 0)

/-- The fixed tree of R177. -/
def vredTree (op ty : Nat) (v : VReg) : Word × BitVec 5 :=
  let r := [48, 24, 12, 6, 3].foldl (fun (a : VReg × BitVec 5) h => let q := vredStage op ty h a.1; (q.1, a.2 ||| q.2)) (v, 0)
  let p := vCombine op ty (r.1.getD 0 0) (r.1.getD 1 0)
  let q := vCombine op ty p.1 (r.1.getD 2 0)
  (q.1, r.2 ||| p.2 ||| q.2)

/-- `vred` (R177). -/
def execVred (x : VredF) (s : State) : Res :=
  let sub := x.sub.toNat
  vecSlot x.d (if sub < 32 then [x.d, x.a] else [x.a]) [x.a] (fun f _ =>
    let r := vredTree (sub / 8 % 4) (sub % 8) (vreg f x.a)
    .ok (if sub < 32 then { reg := some (r.1 :: List.replicate 95 0), g := none, fp := r.2, sat := false }
         else { reg := none, g := some (r.1.setWidth 64), fp := r.2, sat := false })) s

/-- A register written without signals. -/
def vecPlain (v : VReg) : VecFx := { reg := some v, g := none, fp := 0, sat := false }

/-- `vbcast vD, gA` (R178). -/
def execVbcast (x : VdaF) (s : State) : Res :=
  vecSlot x.d [x.d] [] (fun f _ => .ok (vecPlain (List.replicate 96 ((vField f x.a).setWidth 32)))) s

/-- `vbcast vD, vA, gB` (R178). -/
def execVbcastElement (x : VdabvF) (s : State) : Res :=
  vecSlot x.d [x.d, x.a] [x.a] (fun f _ => .ok (vecPlain (List.replicate 96 ((vreg f x.a).getD (vField f x.b).toNat 0)))) s

/-- A condition of `vsel` on a value in a floating format. -/
def vselFloat (f : FFmt) (c : Nat) (v : Nat) : Bool :=
  let x := ffDecode f v
  let z : FVal := .fin false 0 0
  match c with
  | 1 => fvLt z x
  | 2 => fvLt x z
  | 3 => fvLt z x || fvEq x z
  | _ => fvLt x z || fvEq x z

/-- A condition of `vsel` on an integer. -/
def vselInt (c : Nat) (v : Int) : Bool :=
  match c with
  | 1 => decide (0 < v)
  | 2 => decide (v < 0)
  | 3 => decide (0 ≤ v)
  | _ => decide (v ≤ 0)

/-- A condition of `vsel` on the bits of a value in a TYPE (R178). -/
def vselCond (c ty v : Nat) : Bool :=
  if c = 0 then v != 0
  else if c = 5 then v == 0
  else match ty with
    | 0 => vselFloat f32 c v
    | 1 => vselFloat f16 c v
    | 2 => vselFloat bf16 c v
    | 3 => vselInt c (BitVec.ofNat 32 v).toInt
    | _ => vselInt c v

/-- One element of `vsel`. -/
def vselElement (c ty : Nat) (a b d : Word) : Word :=
  if ty = 1 || ty = 2 then
    let lo := if vselCond c ty (lowHalf d) then lowHalf a else lowHalf b
    let hi := if vselCond c ty (highHalf d) then highHalf a else highHalf b
    BitVec.ofNat 32 (lo + 65536 * hi)
  else if vselCond c ty d.toNat then a else b

/-- `vsel` (R178). -/
def execVsel (x : VsubF) (s : State) : Res :=
  vecSlot x.d [x.d, x.a, x.b] [x.d, x.a, x.b] (fun f _ =>
    .ok (vecPlain (((vreg f x.a).zip ((vreg f x.b).zip (vreg f x.d))).map
      (fun p => vselElement (x.sub.toNat / 8) (x.sub.toNat % 8) p.1 p.2.1 p.2.2)))) s

/-- `vperm` (R178). -/
def execVperm (x : VdabvF) (s : State) : Res :=
  vecSlot x.d [x.d, x.a, x.b] [x.a, x.b] (fun f _ => .ok (vecPlain ((vreg f x.b).map (fun k => (vreg f x.a).getD k.toNat 0)))) s

/-- The sums of `vscan` from a running sum on, one rounding each. -/
def vscanGo (ty : Nat) : Word → List Word → List (Word × BitVec 5)
  | _, [] => []
  | s, a :: rest => let r := vCombine 0 ty s a; r :: vscanGo ty r.1 rest

/-- `vscan` (R178). -/
def execVscan (x : VscanF) (s : State) : Res :=
  vecSlot x.d [x.d, x.a] [x.a] (fun f _ =>
    let v := vreg f x.a
    let excl := x.sub.toNat / 8 % 2 == 1
    let s0 := if excl then 0 else v.headD 0
    let rs := (s0, 0) :: vscanGo (x.sub.toNat % 8) s0 (if excl then v.dropLast else v.tail)
    .ok (vecOf (rs.map cvtPlain))) s

/-! ## Scratch as the vector memory path and the plane unit reach it -/

/-- A held store of a speculative troupe meets one of the ranges (R375). -/
def heldMeets (s : State) (tk : Nat) (t : Troupe) (rs : List (Nat × Nat)) : Bool :=
  t.speculative && rs.any (fun r => (upTo 16).any (fun i => meetsHeld s tk t i 0 r.2 (BitVec.ofNat 64 r.1)))

/-- A list of scratch writes is to be held: the troupe is speculative and some range leaves its spec regions (R375), or meets a held
store, which is to perform before it (R376). -/
def writesHeld (s : State) (tk : Nat) (t : Troupe) (ws : List (Nat × List Byte)) : Bool :=
  t.speculative && (!ws.all (fun x => inSpecRegion t x.1 x.2.length) || heldMeets s tk t (ws.map (fun x => (x.1, x.2.length))))

/-- What holds back the scratch accesses of a uniform slot, which are accesses of every thread of its troupe at their place in
program order (R181, R194, R280): reads follow earlier loads and drains, and, unless the slot sees the stores of its own port (`own`),
those too; writes follow earlier stores, and the reads that they would overtake. -/
def scratchHold (s : State) (tk : Nat) (t : Troupe) (writes own : Bool) (rs : List (Nat × Nat)) : Option OrderKind :=
  let a := scratchOf s tk t
  let meets (p : PortItem) : Bool := p.troupe == tk && (match p.act with
    | .load off size .. => rs.any (fun r => overlap (a.2.1 + r.1) r.2 off (2 ^ size))
    | _ => false)
  if !writes then (let k := if own then OrderKind.reads else .loads; if orderPending s tk t 0xFFFF k then some k else none)
  else if orderPending s tk t 0xFFFF .stores then some .stores
  else if rs.any (fun r => rangesMeet a.1 (matReads s tk none) (.scratch a.1 (a.2.1 + r.1)) r.2) || (s.core (coreOf tk)).port.any meets then some .all
  else none

/-- Runs the scratch accesses of a uniform slot, which holds while earlier accesses have still to perform; its writes, where they are
the next store of a thread after a release fence, follow every earlier access (R285). -/
def inOrder (s : State) (f : Focus) (t : Troupe) (writes own : Bool) (rs : List (Nat × Nat)) (k : State → State) : State :=
  match scratchHold s f.troupe t writes own rs with
  | some o => holdFor s f (.order 0xFFFF o)
  | none => if writes then afterFence (performTroupe s f.troupe) f t 0xFFFF k else k s

/-- The scratch writes of a uniform slot: they perform at their place in program order, or are held as one entry (R181,
R375). The caller has stalled when the buffer is full. -/
def uniformWrites (s : State) (tk : Nat) (t : Troupe) (ws : List (Nat × List Byte)) : State :=
  if writesHeld s tk t ws then holdEffects s tk [(0, .bytes ws)]
  else
    let a := scratchOf s tk t
    putScratch (performTroupe s tk) a.1 a.2.1 ws

/-! ## VMEM (R179 to R181) -/

/-- The element addresses of the six forms (R179). -/
def vmemBase (f : Focus) (a b : BitVec 5) : List Dword := (upTo 96).map (fun i => vField f a + vField f b + BitVec.ofNat 64 (4 * i))
def vmemStride (f : Focus) (a b : BitVec 5) : List Dword := (upTo 96).map (fun i => vField f a + BitVec.ofNat 64 i * vField f b)
def vmemIndex (f : Focus) (a b i : BitVec 5) : List Dword := (vreg f i).map (fun w => vField f a + vField f b + w.setWidth 64)

/-- The rows that an op needs (R180): the most distinct words in one bank. -/
def vmemRows (base : Nat) (l : List Dword) : Nat :=
  let ws := (l.map (fun a => (base + a.toNat) / 8)).eraseDups
  (upTo 64).foldl (fun m b => max m (ws.filter (fun w => w % 64 == b)).length) 0

/-- The element address that fails a check: the first that does (log 22). -/
def vmemFault (size : Nat) (l : List Dword) : Option Cause :=
  match l.find? (fun a => a.toNat % 4 != 0) with
  | some a => some { cause := cAlign, detail := 0, value := a }
  | none => (l.find? (fun a => decide (size < a.toNat + 4))).map (fun a => { cause := cScratchBounds, detail := 0, value := a })

/-- The accesses of a VMEM op: a load writes vD, as the stores of its troupe on their way to scratch leave its elements (R280), a store writes its elements in order, so that the highest-indexed of one
address remains (R179). -/
def vmemAct (s : State) (f : Focus) (t : Troupe) (load : Bool) (d : BitVec 5) (l : List Dword) : State :=
  let a := scratchOf s f.troupe t
  if load then
    let v := portView s f.troupe
    s.modTroupe f.troupe (fun t =>
      { t with badVregs := t.badVregs.filter (fun n => n != d.toNat), vregs := kset t.vregs d.toNat (l.map (fun e => BitVec.ofNat 32 (scrRead v a.1 (a.2.1 + e.toNat) 4))) })
  else uniformWrites s f.troupe t ((l.zip (vreg f d)).map (fun p => (p.1.toNat, leBytes 4 p.2.toNat)))

/-- The uncorrectable data that a VMEM op meets before it writes anything (R179). -/
def vmemBad (s : State) (f : Focus) (t : Troupe) (load : Bool) (l : List Dword) : Bool :=
  let a := scratchOf s f.troupe t
  if load then l.any (fun e => scrBad s a.1 (a.2.1 + e.toNat) 4)
  else partBad s a.1 a.2.1 (l.map (fun e => (e.toNat, [0, 0, 0, 0])))

/-- Runs a VMEM slot (R168, R179, R180): checks every element, counts Rw − 1 conflicts, opens its operation on SETX until
11 + Rw cycles after issue, and holds the bundle for as long when Rw exceeds 5. A register that is not claimed raises VREG_UNCLAIMED
before any element is checked (log 56). -/
def vmemSlot (load : Bool) (d : BitVec 5) (regs : List (BitVec 5)) (addrs : Focus → List Dword) (s : State) : Res :=
  atUniform s (fun f t =>
    let a := scratchOf s f.troupe t
    let l := addrs f
    let flag := selectFlag s f false
    if f.acted then s
    else if unclaimed t regs then trapAll s f (openCause cVregUnclaimed 0 f.issue)
    else match vmemFault a.2.2 l with
      | some c => trapAll s f c
      | none =>
        let ws := l.map (fun e => (e.toNat, ([0, 0, 0, 0] : List Byte)))
        if vmemBad s f t load l || vregsBad f (if load then regs.drop 1 else regs) then trapAll s f (openCause cDataUnc 0 f.issue)
        else if flagFull s f flag then holdFlag s f flag
        else if load && heldMeets s f.troupe t (l.map (fun e => (e.toNat, 4))) then stallCommit s f
        else if !load && writesHeld s f.troupe t ws && !specRoom t 1 then stallCommit s f
        else inOrder s f t (!load && !writesHeld s f.troupe t ws) load (l.map (fun e => (e.toNat, 4))) (fun s =>
          let rw := vmemRows a.2.1 l
          let due := f.issue + 11 + rw
          let r := openOp s f flag
          let s := vmemAct (r.2.modCore (coreOf f.troupe) (fun c => { c with conflicts := c.conflicts + BitVec.ofNat 32 (rw - 1) })) f t load d l
          let s := s.schedule due (.vmemComplete f.troupe { op := r.1, regs := regs.map (fun x => x.toNat) })
          if 5 < rw then holdActing s { f with acted := true, op := some r.1 } (.until due) else s))

/-- `vld` (R179). -/
def execVld (x : VdabF) (s : State) : Res := vmemSlot true x.d [x.d] (fun f => vmemBase f x.a x.b) s
/-- `vst` (R179). -/
def execVst (x : VdabF) (s : State) : Res := vmemSlot false x.d [x.d] (fun f => vmemBase f x.a x.b) s
/-- `vld.str` (R179). -/
def execVldStr (x : VdabF) (s : State) : Res := vmemSlot true x.d [x.d] (fun f => vmemStride f x.a x.b) s
/-- `vst.str` (R179). -/
def execVstStr (x : VdabF) (s : State) : Res := vmemSlot false x.d [x.d] (fun f => vmemStride f x.a x.b) s
/-- `vgath` (R179). -/
def execVgath (x : VidxF) (s : State) : Res := vmemSlot true x.d [x.d, x.idx] (fun f => vmemIndex f x.a x.b x.idx) s
/-- `vscat` (R179). -/
def execVscat (x : VidxF) (s : State) : Res := vmemSlot false x.d [x.d, x.idx] (fun f => vmemIndex f x.a x.b x.idx) s

/-- VMEM_COMPLETE (R168): the op leaves its completion flag. -/
def execVmemComplete (troupe : Nat) (op : VmemOp) (s : State) : Res := .next (s.modTroupe troupe (fun t => t.closePart op.op))

end Sys2Proof.Machine
end

