-- ==== Sys2Proof/Machine/Matrix.lean ====
section
/-! DEFINITION. The matrix engine (09_matrix R182 to R204): banks and accumulators, the reservation table with its grants
and locks, passes, loads and drains, the fault latch, and the MAT class. -/

namespace Sys2Proof.Machine

/-! ## Parts of the state -/

/-- The pieces of a pass. -/
def MatKind.pieces : MatKind → List Piece
  | .pass _ ps => ps
  | _ => []

/-- The numbers under which `mwait` awaits an operation, with their posters: those of its pieces, or its own. -/
def MatOp.ids (o : MatOp) : List (Nat × Nat) :=
  match o.kind with
  | .pass _ ps => ps.map (fun p => (p.id, p.troupe))
  | _ => [(o.id, o.troupe)]

/-- The flag operations that an operation counts on, with their troupes. -/
def MatOp.flags (o : MatOp) : List (Nat × Option Nat) :=
  match o.kind with
  | .pass _ ps => ps.map (fun p => (p.troupe, p.op))
  | _ => [(o.troupe, o.op)]

/-- The accumulator that an operation uses. -/
def MatKind.acc : MatKind → Option Nat
  | .pass _ (p :: _) => some p.acc
  | .drain a _ _ _ _ _ _ _ _ => some a
  | .zero a => some a
  | _ => none

/-- The ensembles of a unit. -/
def enssOn (s : State) (u : Nat) : List (Nat × Ensemble) := s.enss.filter (fun p => p.2.unit == u)

/-- The pieces of unformed joint passes of an ensemble (R201). -/
def unformed (e : Ensemble) : List Piece := e.joins.flatMap (fun p => p.2)

/-- Entries of the reservation table in use (R190): each ungranted operation, each piece of a joint pass one entry. -/
def tableCount (s : State) (u : Nat) : Nat :=
  (s.tile u).rtab.foldl (fun n o => n + o.ids.length) 0 + (enssOn s u).foldl (fun n p => n + (unformed p.2).length) 0

/-- A free physical bank of a tile: bound to none of its ensembles (R186). -/
def freeBank (s : State) (u : Nat) : Option Nat :=
  (upTo 2).find? (fun b => !(enssOn s u).any (fun p => p.2.banks.any (fun q => q.2 == b)))

/-- A physical bank. -/
def bankOf (s : State) (u b : Nat) : Bank := kget Bank.init (s.tile u).banks b
def setBank (s : State) (u b : Nat) (k : Bank) : State := s.modUnit u (fun t => { t with banks := kset t.banks b k })

/-- Rows of a bank's mode (R182). -/
def bankDepth (a17 : Bool) : Nat := if a17 then 192 else 384

/-- A row of an accumulator, and its writing. -/
def accRow (e : Ensemble) (a m : Nat) : List Word := kget (List.replicate 48 0) (kget [] e.accs a) m
def setAccRow (a m : Nat) (r : List Word) (e : Ensemble) : Ensemble := { e with accs := kset e.accs a (kset (kget [] e.accs a) m r) }

/-- A row of an accumulator that an operation reads holds an uncorrectable word (R458). -/
def accBad (e : Ensemble) (a m : Nat) : Bool := e.badAccs.contains (a, m)

/-! ## Completion and the fault latch (R195) -/

/-- Ends the flag counts of an operation. -/
def closeFlags (s : State) (l : List (Nat × Option Nat)) : State :=
  l.foldl (fun s p => s.modTroupe p.1 (fun t => t.closeOpt p.2)) s

/-- An operation leaves the engine. -/
def finishMat (s : State) (u : Nat) (o : MatOp) : State :=
  closeFlags (s.modUnit u (fun t => { t with running := t.running.filter (fun x => x.id != o.id) })) o.flags

/-- Every operation of an ensemble that is not granted, and every piece not formed, completes at once (R195, R201). -/
def cancelMat (s : State) (u ens : Nat) : State :=
  let ops := (s.tile u).rtab.filter (fun o => o.ens == ens)
  let ps := match s.ens ens with | some e => unformed e | none => []
  let s := s.modUnit u (fun t => { t with rtab := t.rtab.filter (fun o => o.ens != ens) })
  let s := s.modEns ens (fun e => { e with joins := [] })
  closeFlags s (ops.flatMap MatOp.flags ++ ps.map (fun p => (p.troupe, p.op)))

/-- The function code of an operation (R197). -/
def MatKind.fn : MatKind → Nat
  | .load .. => 0
  | .pass j _ => if j then 2 else 1
  | .drain .. => 3
  | .zero _ => 4
  | .swap _ => 5
  | .free _ => 7

/-- The accumulator or bank index of a fault value. -/
def MatKind.index : MatKind → Nat
  | .load b .. => b
  | .swap b => b
  | .free b => b
  | k => k.acc.getD 0

/-- The cause of a detail (R195). -/
def latchCause (d : Nat) : Nat := if d = 3 then cFormat else if d = 8 then cDataUnc else cMatConfig

/-- An operation fails (R195): the latch takes its cause and fault value when it is clear; the operation and every
ungranted one of its ensemble complete and write nothing more. -/
def failMat (s : State) (u : Nat) (o : MatOp) (d : Nat) : State :=
  let eix := (o.kind.pieces.getLast?.map (fun p => p.eix)).getD o.eix
  let v := eix % 65536 * 65536 + d * 256 + o.kind.index % 16 * 16 + o.kind.fn
  let s := s.modEns o.ens (fun e =>
    { e with latch := e.latch.orElse (fun _ => some { cause := latchCause d, value := BitVec.ofNat 32 v }) })
  cancelMat (finishMat s u o) u o.ens

/-! ## Records (R134, R195) -/

/-- The reserved bytes and bits of a plane record with P planes are zero. -/
def recClean (p : Nat) (l : List Byte) : Bool :=
  decide (fieldAt l 10 1 < 2) && fieldAt l 11 5 == 0 && (upTo p).all (fun i => fieldAt l (28 + 16 * i) 4 == 0)

/-- The bytes of scratch at an offset of an ensemble's allocation, or none when a word is uncorrectable. -/
def scratchBytes (s : State) (unit base off n : Nat) : Option (List Byte) :=
  if scrBad s unit (base + off) n then none else some (readList s.scratch (scrKey unit (base + off)) n)

/-- The columns of the pieces in post order, as (accumulator column, record address). -/
def columnsOf (ps : List Piece) : List (Nat × Nat) := ps.flatMap (fun q => (upTo q.n).map (fun i => (q.c0 + i, q.addr + i * q.stride)))

/-- The header of one column's record: it must have the pass's P and clean reserved bytes, and agree in its mark with the bank
rows that take part (R183); otherwise the detail (R195). Where several apply, the first of 8, 1, 3 and 2 is recorded (log 23). -/
def readHead (s : State) (unit base p : Nat) (rows : KV BankRow) (c : Nat × Nat) : Except Nat Rec :=
  match scratchBytes s unit base c.2 16 with
  | none => .error 8
  | some h =>
    let mark := fieldAt h 10 1 % 2 == 1
    if fieldAt h 8 1 ≠ p then .error 1
    else if !(decide (fieldAt h 10 1 < 2) && fieldAt h 11 5 == 0) then .error 3
    else if rows.any (fun r => r.2.mark != mark) then .error 2
    else .ok { col := c.1, v := List.replicate 96 0, x := (upTo 4).map (fun b => signedAt h (2 * b) 2), mark := mark }

/-- A column with plane i of its P planes taken in (R134). -/
def addPlane (p i bits : Nat) (r : Rec) : Rec :=
  let w : Int := if i = 0 then -(2 ^ (p - 1) : Nat) else (2 ^ (p - 1 - i) : Nat)
  { r with v := r.v.zipIdx.map (fun x => if Nat.testBit bits x.2 then x.1 + w else x.1) }

/-- Plane i of one column enters the array; otherwise the detail (R195). -/
def readPlane (s : State) (unit base p i : Nat) (r : Rec) (c : Nat × Nat) : Except Nat Rec :=
  match scratchBytes s unit base (c.2 + 16 + 16 * i) 16 with
  | none => .error 8
  | some l => if fieldAt l 12 4 ≠ 0 then .error 3 else .ok (addPlane p i (fieldAt l 0 12) r)

/-- The results of a list of readings, or the first detail. -/
def allOk : List (Except Nat Rec) → Except Nat (List Rec)
  | [] => .ok []
  | .error d :: _ => .error d
  | .ok r :: l => match allOk l with | .error d => .error d | .ok rs => .ok (r :: rs)

/-- What a granted pass has read after one more cycle (R185): in its first four the headers, twelve columns in each (log 23); then
one plane of six columns in each, group by group, the sign plane first. -/
def readCycle (s : State) (unit base : Nat) (o : MatOp) (ps : List Piece) : Except Nat (List Rec) :=
  let cs := columnsOf ps
  let p := o.kind.planes
  if o.done < 4 then
    match allOk (((cs.drop (12 * o.done)).take 12).map (readHead s unit base p o.rows)) with
    | .error d => .error d
    | .ok l => .ok (o.cols ++ l)
  else
    let j := (o.done - 4) / p
    match allOk ((((o.cols.zip cs).drop (6 * j)).take 6).map (fun x => readPlane s unit base p ((o.done - 4) % p) x.1 x.2)) with
    | .error d => .error d
    | .ok l => .ok (o.cols.take (6 * j) ++ l ++ o.cols.drop (6 * j + 6))

/-- The rows of a load from record i on (R200): `lim` is the largest P of the mode. -/
def readRows (s : State) (unit base lim stride : Nat) : Nat → Nat → Nat → Except Nat (KV BankRow)
  | 0, _, _ => .ok []
  | n + 1, m, off =>
    match scratchBytes s unit base off 16 with
    | none => .error 8
    | some h =>
      let p := fieldAt h 8 1
      if lim < p then .error 4
      else if p < 2 then .error 3
      else match scratchBytes s unit base off (16 * (p + 1)) with
        | none => .error 8
        | some l =>
          if !recClean p l then .error 3
          else
            let r := readRec l
            match readRows s unit base lim stride n (m + 1) (off + (if stride = 0 then 16 * (p + 1) else stride)) with
            | .error d => .error d
            | .ok rest => .ok ((m, { w := r.vals, xw := r.exps, mark := r.rotated }) :: rest)

/-! ## The pass (R183, R184) -/

/-- One element of an accumulator: blocks 0 to K − 1 in order, two roundings each; a pass whose two operands are
marked rotated combines with −5 (R133). -/
def passElement (k : Nat) (old : Nat) (w : BankRow) (r : Rec) : Nat × FpFlags :=
  (upTo k).foldl (fun (a : Nat × FpFlags) b =>
    let i := (((w.w.drop (24 * b)).take 24).zip ((r.v.drop (24 * b)).take 24)).foldl (fun (n : Int) p => n + p.1 * p.2) 0
    let e := w.xw.getD b 0 + r.x.getD b 0 - (if w.mark && r.mark then 5 else 0)
    let t := ffRound f32 (decide (i < 0)) i.natAbs e false
    let q := ffAdd f32 a.1 t.1
    (q.1, a.2 ||| t.2 ||| q.2)) (old, 0)

/-- A row that no `mload` has written (R186). -/
def BankRow.zero : BankRow := { w := List.replicate 96 0, xw := List.replicate 4 0, mark := false }

/-- One row of an accumulator after a pass. -/
def passRow (k : Nat) (z : Bool) (w : BankRow) (cols : List Rec) (row : List Word) : List Word × FpFlags :=
  cols.foldl (fun (a : List Word × FpFlags) r =>
    let q := passElement k (if z then 0 else (a.1.getD r.col 0).toNat) w r
    (lset a.1 r.col (BitVec.ofNat 32 q.1), a.2 ||| q.2)) (row, 0)

/-- The effect of a pass on its ensemble. -/
def passEffect (a k m : Nat) (z : Bool) (rows : KV BankRow) (cols : List Rec) (e : Ensemble) : Ensemble :=
  (upTo m).foldl (fun e i =>
    let q := passRow k z (kget BankRow.zero rows i) cols (accRow e a i)
    { setAccRow a i q.1 e with matExc := e.matExc ||| (q.2 &&& 0x17), badAccs := e.badAccs.filter (fun x => x != (a, i)) }) e

/-! ## Drains (R202) -/

/-- An element in the drain's format: 0 f32, 1 f16, 2 bf16. -/
def drainWord (fmt : Nat) (v : Word) : Nat × FpFlags :=
  match fmt with
  | 0 => (v.toNat, 0)
  | 1 => ffConvert f32 f16 v.toNat
  | _ => ffConvert f32 bf16 v.toNat

/-- What a drain has done so far: state, signals, and whether it has failed. -/
structure Drained where
  s : State
  fp : FpFlags
  failed : Bool
deriving DecidableEq, Repr

/-- The write of n bytes meets part of an uncorrectable word. -/
def drainBad (s : State) (unit base off n : Nat) : Bool := partBad s unit base [(off, List.replicate n 0)]

/-- One element of a drain. With CLR, an element whose write fails, and every later one, keeps its value (log 23). -/
def drainElement (unit base ens acc fmt : Nat) (clr : Bool) (x : Drained) (m c off : Nat) : Drained :=
  if x.failed then x
  else
    let size := if fmt = 0 then 4 else 2
    let row := match x.s.ens ens with | some e => accRow e acc m | none => []
    let r := drainWord fmt (row.getD c 0)
    if drainBad x.s unit base off size || (match x.s.ens ens with | some e => accBad e acc m | none => false) then { x with fp := x.fp ||| r.2, failed := true }
    else
      let s := putScratch x.s unit base [(off, leBytes size r.1)]
      let s := if clr then s.modEns ens (setAccRow acc m (lset row c 0)) else s
      { s := s, fp := x.fp ||| r.2, failed := false }

/-- The elements of row i of a drain. -/
def drainRow (s : State) (unit base ens acc dst m0 i c0 nc stride fmt : Nat) (clr : Bool) : Drained :=
  let size := if fmt = 0 then 4 else 2
  (upTo nc).foldl (fun x j => drainElement unit base ens acc fmt clr x (m0 + i) (c0 + j) (dst + i * stride + j * size))
    { s := s, fp := 0, failed := false }

/-! ## Grants, locks and starts (R185, R188, R191 to R193) -/

/-- The cycles for which a pass's planes enter the array, P · ⌈N/6⌉ (R185). -/
def planeCycles (ps : List Piece) : Nat :=
  let n := ps.foldl (fun n p => n + p.n) 0
  ((ps.head?.map (fun p => p.p)).getD 0) * ((n + 5) / 6)

/-- The cycle in which the last plane of a granted pass enters the array (R185). -/
def lastPlane (o : MatOp) : Option Nat :=
  match o.kind, o.granted with
  | .pass _ ps, some g => some (g + 3 + planeCycles ps)
  | _, _ => none

/-- An operation whose troupe may have exited has still to perform (R86): a transfer, or a matrix operation. -/
def opPerforms (s : State) (l : List Nat) : Bool :=
  let copies (c : CopyOp) : Bool := l.contains c.op
  s.agenda.any (fun e => match e.2 with | .copyPerform c => copies c | _ => false) ||
  s.waitQ.any (fun x => match x.what with | .access (.copy c) _ => copies c | _ => false) ||
  s.units.any (fun u => (u.2.running ++ u.2.rtab).any (fun o => o.flags.any (fun p => match p.2 with | some n => l.contains n | none => false))) ||
  s.enss.any (fun e => (unformed e.2).any (fun p => match p.op with | some n => l.contains n | none => false))

/-- Every operation of a fence has completed (R193), those of troupes that have exited among them. -/
def fenceClear (s : State) (l : List Nat) : Bool :=
  l.isEmpty || (!s.troupes.any (fun p => p.2.outs.any (fun o => l.contains o.op)) && !opPerforms s l)

/-- The oldest ungranted operation of an ensemble, when it has entered the table, its fence is clear (R190, R193), and the unit's
partition runs its context (R21). -/
def headOp (s : State) (u ens : Nat) : Option MatOp :=
  match (s.tile u).rtab.find? (fun o => o.ens == ens), s.ens ens with
  | some o, some e => if decide (o.posted ≤ s.now) && fenceClear s o.fence && unitServes s u e.ctx then some o else none
  | _, _ => none

/-- The heads of all ensembles of a tile, oldest first. -/
def heads (s : State) (u : Nat) : List MatOp :=
  (s.tile u).rtab.filter (fun o => match headOp s u o.ens with | some h => h.id == o.id | none => false)

/-- The operation needs array time. -/
def MatOp.isPass (o : MatOp) : Bool := match o.kind with | .pass .. => true | _ => false

/-- Two lists of byte ranges meet. -/
def rangesShare (l m : List (Nat × Nat)) : Bool := l.any (fun a => m.any (fun b => overlap a.1 a.2 b.1 b.2))

/-- An earlier operation of a troupe that posted this one holds it back in scratch: bytes that it has still to write, or that it
has still to read before this one writes them (R194, R280). -/
def holdsBack (r o : MatOp) : Bool :=
  r.ens == o.ens && o.ids.any (fun p => r.by_ p.2) &&
  (rangesShare r.toWrite (o.toRead ++ o.toWrite) || rangesShare r.toRead o.toWrite)

/-- The lock of a pass is clear (R188): no earlier load into the current bank, no earlier drain or zero of its
accumulator, no earlier drain of the bytes that it reads (R194). Every earlier operation of its ensemble has been granted. -/
def passLock (s : State) (u : Nat) (o : MatOp) : Bool :=
  match s.ens o.ens with
  | none => true
  | some e => !(s.tile u).running.any (fun r => holdsBack r o) && !(s.tile u).running.any (fun r => r.ens == o.ens && (match r.kind with
      | .load b .. => b == e.cur
      | .drain a .. => some a == o.kind.acc
      | .zero a => some a == o.kind.acc
      | _ => false))

/-- The granted operations of the same ensemble that were posted before one. -/
def grantedBefore (s : State) (u : Nat) (o : MatOp) : List MatOp :=
  (((s.tile u).running.takeWhile (fun r => r.id != o.id)).filter (fun r => r.ens == o.ens))

/-- The lock of a granted operation that waits on it (R188): no earlier user of its accumulator or bank, and for a load no
pass on its bank with a plane still to enter; and no earlier operation that holds it back in scratch (R194). -/
def startLock (s : State) (u : Nat) (o : MatOp) : Bool :=
  !(grantedBefore s u o).any (fun r => holdsBack r o) &&
  match o.kind with
  | .drain a .. => !(grantedBefore s u o).any (fun r => r.kind.acc == some a)
  | .zero a => !(grantedBefore s u o).any (fun r => r.kind.acc == some a)
  | .free b =>
    let phys := match s.ens o.ens with | some e => kfind e.banks b | none => none
    !(grantedBefore s u o).any (fun r => (match r.kind with | .load c .. => c == b | _ => false) || (r.isPass && r.bank.isSome && r.bank == phys))
  | .load .. => (s.tile u).running.all (fun r => !(r.isPass && r.bank == o.bank) ||
      (match lastPlane r with | some c => decide (c < s.now) | none => true))
  | _ => true

/-- The cycles until a started operation completes (R200, R202). -/
def matCycles : MatKind → Nat
  | .load _ _ _ count _ _ => count + 8
  | .drain _ _ _ mr _ _ _ _ _ => mr + 8
  | .zero _ => 8
  | _ => 0

/-- Changes an operation in flight. -/
def modRunning (s : State) (u id : Nat) (f : MatOp → MatOp) : State :=
  s.modUnit u (fun t => { t with running := t.running.map (fun o => if o.id = id then f o else o) })

/-- A bank in a mode: a change of mode zeroes every row first (R200). -/
def Bank.inMode (k : Bank) (a17 : Bool) : Bank := if k.a17 = a17 then k else { a17 := a17, rows := [] }

/-- A granted operation whose lock is clear starts: a load reads its records and sets its bank's mode, a free unbinds its bank
(R188, R200, R203). A load that meets a fault in some record has written no row and left the bank's mode (log 23); one whose
bank an earlier `mfree` has unbound since its grant leaves that bank alone (R186). -/
def startMat (s : State) (u : Nat) (o : MatOp) : State :=
  match s.ens o.ens with
  | none => finishMat s u o
  | some e =>
    let go (s : State) : State := s.schedule (s.now + matCycles o.kind) (.matrixOpComplete u o.id)
    match o.kind with
    | .load b addr m0 count stride a17 =>
      match readRows s u (65536 * e.base) (if a17 then 17 else 9) stride count m0 addr with
      | .error d => failMat s u o d
      | .ok rows =>
        let s := match o.bank with
          | some p => if kfind e.banks b = some p then setBank s u p ((bankOf s u p).inMode a17) else s
          | none => s
        go (modRunning s u o.id (fun o => { o with started := some s.now, rows := rows }))
    | .free b =>
      let s := match kfind e.banks b with | some p => setBank s u p Bank.init | none => s
      finishMat (s.modEns o.ens (fun e => { e with banks := kdel e.banks b })) u o
    | _ => go (modRunning s u o.id (fun o => { o with started := some s.now }))

/-- An operation leaves the table and is in flight. -/
def takeGrant (s : State) (u : Nat) (o : MatOp) : State :=
  s.modUnit u (fun t => { t with rtab := t.rtab.filter (fun x => x.id != o.id), running := t.running ++ [o] })

/-- A head that needs no array time is granted (R191, R192). -/
def grantPlain (s : State) (u : Nat) (o : MatOp) : State :=
  match s.ens o.ens with
  | none => finishMat (takeGrant s u o) u o
  | some e =>
    match o.kind with
    | .swap b => finishMat ((takeGrant s u o).modEns o.ens (fun e => { e with cur := b })) u o
    | .load b .. =>
      let o := { o with granted := some s.now, bank := kfind e.banks b }
      if o.bank.isNone then failMat (takeGrant s u o) u o 7 else takeGrant s u o
    | _ => takeGrant s u { o with granted := some s.now }

/-- Pieces of one pass agree (R201). -/
def piecesAgree : List Piece → Bool
  | [] => true
  | p :: ps => ps.all (fun q => q.acc == p.acc && q.zero == p.zero && q.k == p.k && q.p == p.p && q.pieces == p.pieces)

/-- The accumulator columns that a pass names. -/
def passColumns (ps : List Piece) : List Nat := ps.flatMap (fun p => (upTo p.n).map (fun i => p.c0 + i))

/-- What a pass meets at its grant: a detail of R195, or the physical bank and its contents. Where several apply, the first of 5, 6,
7 and 8 is recorded (log 23); an uncorrectable word of a bank or an accumulator, which has no detail of its own, is recorded as one of
scratch is (R458; DESIGN CHOICE, log 66). -/
def passCheck (s : State) (u : Nat) (e : Ensemble) (ps : List Piece) : Except Nat (Nat × Bank) :=
  if !piecesAgree ps then .error 5
  else if 48 < (passColumns ps).length || !noRepeat (passColumns ps) then .error 6
  else match kfind e.banks e.cur with
    | none => .error 7
    | some b => if (bankOf s u b).bad.isEmpty then .ok (b, bankOf s u b) else .error 8

/-- A pass is granted the array (R185, R191): it latches the current bank with its mode and rows, and completes 44 + P·⌈N/6⌉
cycles later. A pass that fails at its grant has used this cycle's grant. -/
def grantPass (s : State) (u : Nat) (o : MatOp) : State :=
  match s.ens o.ens with
  | none => finishMat (takeGrant s u o) u o
  | some e =>
    let ps := o.kind.pieces
    match passCheck s u e ps with
    | .error d => (failMat (takeGrant s u o) u o d).modUnit u (fun t => { t with arrayFree := s.now + 1 })
    | .ok (b, k) =>
      let o := { o with granted := some s.now, started := some s.now, bank := some b, a17 := k.a17,
                        rows := k.rows.filter (fun r => decide (r.1 < bankDepth k.a17)) }
      let s := (takeGrant s u o).modUnit u (fun t => { t with arrayFree := s.now + planeCycles ps })
      s.schedule (s.now + 44 + planeCycles ps) (.matrixOpComplete u o.id)

/-- The pass at the head of an ensemble is eligible: its lock is clear and no other ensemble of the tile is engaged
(R188, R196). -/
def passEligible (s : State) (u : Nat) (o : MatOp) : Bool :=
  o.isPass && passLock s u o && !(enssOn s u).any (fun p => p.2.engaged && p.1 != o.ens)

/-- The effective priority of a pass (R191). -/
def passPriority (s : State) (o : MatOp) : Nat :=
  if o.raised then 8
  else match s.ens o.ens with
    | none => 0
    | some e => match s.comp e.comp with | some c => c.desc.prio | none => e.desc.prio

/-- The pass that the arbiter grants: highest effective priority, then oldest entry. -/
def pickPass (s : State) (l : List MatOp) : Option MatOp := leastBy (fun o => 8 - passPriority s o) l

/-- The cycles in which an operation reads or writes: the headers and planes of a pass, the rows of a load or a drain. -/
def MatKind.cycles : MatKind → Nat
  | .pass _ ps => 4 + planeCycles ps
  | .load _ _ _ count _ _ => count
  | .drain _ _ _ mr _ _ _ _ _ => mr
  | _ => 0

/-- A started operation has still to do what this cycle brings it. -/
def MatOp.behind (o : MatOp) (now : Nat) : Bool :=
  match o.started with
  | none => false
  | some t => decide (o.done < o.kind.cycles) && decide (t + o.done ≤ now)

/-- One cycle of a started operation: a pass reads headers or planes, a load writes a row, a drain reads and writes a row (R185,
R200, R202). A drain writes the elements of a row in the cycle in which it reads them (log 23). -/
def matCycle (s : State) (u : Nat) (o : MatOp) : State :=
  match s.ens o.ens with
  | none => finishMat s u o
  | some e =>
    let next (s : State) : State := modRunning s u o.id (fun o => { o with done := o.done + 1 })
    match o.kind with
    | .pass _ ps => match readCycle s u (65536 * e.base) o ps with
      | .error d => failMat s u o d
      | .ok l => modRunning (next s) u o.id (fun o => { o with cols := l })
    | .load b .. =>
      let s := match o.bank, o.rows[o.done]? with
        | some p, some r => if kfind e.banks b = some p then setBank s u p { bankOf s u p with rows := kset (bankOf s u p).rows r.1 r.2, bad := (bankOf s u p).bad.filter (fun n => n != r.1) } else s
        | _, _ => s
      next s
    | .drain a dst m0 _ c0 nc stride fmt clr =>
      let x := drainRow s u (65536 * e.base) o.ens a dst m0 o.done c0 nc stride fmt clr
      let s := x.s.modEns o.ens (fun e => { e with matExc := e.matExc ||| (x.fp &&& 0x17) })
      if x.failed then failMat s u o 8 else next s
    | _ => next s

/-- Changes an operation of the reservation table. -/
def modTable (s : State) (u id : Nat) (f : MatOp → MatOp) : State :=
  s.modUnit u (fun t => { t with rtab := t.rtab.map (fun x => if x.id = id then f x else x) })

/-- A pass begins to wait as an eligible head: it rises when it has waited for 4,096 cycles in all (R191). -/
def beginWait (s : State) (u : Nat) (o : MatOp) : State :=
  (modTable s u o.id (fun x => { x with eligible := some s.now })).schedule (s.now + (4096 - o.waited)) (.grantPriorityRise u o.id)

/-- A pass waits no longer as an eligible head; the cycles for which it has been one count. -/
def endWait (s : State) (u : Nat) (o : MatOp) : State :=
  modTable s u o.id (fun x => { x with eligible := none, waited := x.waited + (s.now - (x.eligible.getD s.now)) })

/-- What the engine of a tile does next in this cycle (R185 to R196): a started operation goes on, a granted one starts, a head
without array time is granted, a pass begins to wait or waits no longer, or a pass is granted. -/
def matrixNext (s : State) (u : Nat) : Option (State → State) :=
  match (s.tile u).running.find? (fun o => o.behind s.now), (s.tile u).running.find? (fun o => o.started.isNone && startLock s u o) with
  | some o, _ => some (fun s => matCycle s u o)
  | none, some o => some (fun s => startMat s u o)
  | none, none =>
    let hs := heads s u
    match hs.find? (fun o => !o.isPass) with
    | some o => some (fun s => grantPlain s u o)
    | none =>
      let el := hs.filter (passEligible s u)
      match (s.tile u).rtab.find? (fun o => o.eligible.isSome && !el.any (fun x => x.id == o.id)), el.find? (fun o => o.eligible.isNone) with
      | some o, _ => some (fun s => endWait s u o)
      | none, some o => some (fun s => beginWait s u o)
      | none, none =>
        if s.now < (s.tile u).arrayFree || s.now < s.mgmt.matHold then none
        else match pickPass s el with
          | none => none
          | some o => some (fun s => grantPass s u o)

/-- MATRIX_GRANT (R191): one action of the engine's scheduler. -/
def execMatrixGrant (unit : Nat) (s : State) : Res :=
  match matrixNext s unit with
  | none => .next s
  | some act => .next (act s)

/-- A pass has been an eligible head for 4,096 cycles in all. -/
def MatOp.risen (o : MatOp) (now : Nat) : Bool :=
  match o.eligible with | some c => decide (4096 ≤ o.waited + (now - c)) | none => false

/-- GRANT_PRIORITY_RISE (R191): a head that has waited its 4,096 eligible cycles rises. -/
def execGrantPriorityRise (unit op : Nat) (s : State) : Res :=
  .next (modTable s unit op (fun o => if o.risen s.now then { o with raised := true } else o))

/-- The effect of an operation that completes: a pass writes its accumulator, a zero clears one (R185, R202); a load and a drain
have written their rows. -/
def matEffect (s : State) (u : Nat) (o : MatOp) : State :=
  match s.ens o.ens with
  | none => finishMat s u o
  | some e =>
    match o.kind with
    | .pass _ (p :: _) =>
      if !p.zero && (upTo (bankDepth o.a17)).any (accBad e p.acc) then failMat s u o 8 else
      finishMat (s.modEns o.ens (passEffect p.acc p.k (bankDepth o.a17) p.zero o.rows o.cols)) u o
    | .zero a => finishMat (s.modEns o.ens (fun e => { e with accs := kdel e.accs a, badAccs := e.badAccs.filter (fun x => x.1 != a) })) u o
    | _ => finishMat s u o

/-- MATRIX_OP_COMPLETE (R185, R200, R202). -/
def execMatrixOpComplete (unit op : Nat) (s : State) : Res :=
  match (s.tile unit).running.find? (fun o => o.id == op) with
  | none => .next s
  | some o => .next (matEffect s unit o)

/-! ## MAT slots (R194, R195, R197 to R204) -/

/-- Raises the latched cause and clears the latch (R195). -/
def raiseLatch (s : State) (f : Focus) (ens : Nat) (l : Latch) : State :=
  trapAll (s.modEns ens (fun e => { e with latch := none })) f
    { cause := l.cause, detail := l.value.toNat / 256 % 256, value := l.value.setWidth 64 }

/-- MAT_CONFIG at a slot. -/
def matConfig (f : Focus) : Cause := openCause cMatConfig 0 f.issue

/-- What every MAT slot does first: it stalls while speculative (R375), is held until the scratch stores that its troupe issued
earlier have performed (R194), and raises a latched fault (R195); `again` says that the end of its wait raises it too. A handler
troupe has no ensemble and holds none of the engine's parts (R187, R413). -/
def matSlot (order : OrderKind) (again : Bool) (s : State) (k : Focus → Troupe → Ensemble → State) : Res :=
  atUniform s (fun f t =>
    if t.speculative then stallCommit s f
    else if orderPending s f.troupe t 0xFFFF order then holdFor s f (.order 0xFFFF order)
    else match s.ens t.ens with
      | none => trapAll s f (matConfig f)
      | some e =>
        if t.handler then trapAll s f (matConfig f)
        else match (if f.resuming && !again then none else e.latch) with
          | some l => raiseLatch s f t.ens l
          | none => k f t e)

/-- Adds an operation to the reservation table, entering it two cycles after issue (R190). -/
def enterTable (s : State) (u : Nat) (o : MatOp) : State := s.modUnit u (fun t => { t with rtab := t.rtab ++ [o] })

/-- A posting slot (R190, R193, R199): its checks, room in the table and in its flag, its operation; the fence of an
`mfence` before it is used up. -/
def postSlot (s : State) (f : Focus) (t : Troupe) (check : Option Cause) (flag : Nat)
    (post : State → Nat → Option Nat → List Nat → State) : State :=
  match check with
  | some c => trapAll s f c
  | none =>
    if 32 ≤ tableCount s (unitOf f.troupe) then holdFor s f (.room 15 none true)
    else if flagFull s f flag then holdFlag s f flag
    else
      let r : Option Nat × State := if flag < 12 then (let q := openOp s f flag; (some q.1, q.2)) else (none, s)
      let id := r.2.ids
      let s := { r.2 with ids := id + 1 }
      post (s.modTroupe f.troupe (fun t => { t with mfence := none })) id r.1 (t.mfence.getD [])

/-- An operation as it is posted. -/
def newOp (f : Focus) (t : Troupe) (id : Nat) (op : Option Nat) (fence : List Nat) (k : MatKind) : MatOp :=
  { id := id, ens := t.ens, troupe := f.troupe, eix := t.eix, op := op, kind := k, fence := fence, posted := f.issue + 2,
    eligible := none, waited := 0, raised := false, granted := none, started := none, bank := none, a17 := false, rows := [], cols := [],
    done := 0 }

/-- The bits of a number that a mask does not name are zero. -/
def onlyBits (v mask : Dword) : Bool := v &&& ~~~mask == 0

/-- ALIGN and SCRATCH_BOUNDS of R199: address, stride, alignment and the bytes of the span from the address. R199 states no fault
value: that of ALIGN is the record or destination address, also where only the stride is misaligned (DESIGN CHOICE, log 59), and
that of SCRATCH_BOUNDS is free (log 14). -/
def matSpan (f : Focus) (size addr stride al len : Nat) : Option Cause :=
  if addr % al ≠ 0 || stride % al ≠ 0 then some { cause := cAlign, detail := 0, value := BitVec.ofNat 64 addr }
  else if len ≠ 0 && size < addr + len then some (openCause cScratchBounds 0 f.issue)
  else none

/-- The allocation of an ensemble in bytes. -/
def Ensemble.bytes (e : Ensemble) : Nat := 65536 * e.count

/-- The checks of `mload` (R199, R200). -/
def loadCheck (s : State) (f : Focus) (e : Ensemble) (x : MloadF) : Option Cause :=
  let d := vField f x.b
  let m0 := d.toNat % 512
  let count := d.toNat / 512 % 512
  let stride := d.toNat / 2 ^ 32
  if (kfind e.banks x.bank.toNat).isNone && (freeBank s (unitOf f.troupe)).isNone then some (matConfig f)
  else if !onlyBits d 0xFFFFFFFF0003FFFF || bankDepth (x.a17 == 1) < m0 + count then some (matConfig f)
  else matSpan f e.bytes (vField f x.a).toNat stride 16
    (if count = 0 then 0 else if stride = 0 then 288 * count else (count - 1) * stride + 288)

/-- `mload` (R200): the first into an unbound name binds it to a free bank (R186). -/
def execMload (x : MloadF) (s : State) : Res :=
  matSlot .scratch true s (fun f t e =>
    let d := (vField f x.b).toNat
    let u := unitOf f.troupe
    postSlot s f t (loadCheck s f e x) (selectFlag s f (x.sety == 1)) (fun s id op fence =>
      let s := match kfind e.banks x.bank.toNat, freeBank s u with
        | none, some b => s.modEns t.ens (fun e => { e with banks := kset e.banks x.bank.toNat b })
        | _, _ => s
      enterTable s u (newOp f t id op fence
        (.load x.bank.toNat (vField f x.a).toNat (d % 512) (d / 512 % 512) (d / 2 ^ 32) (x.a17 == 1)))))

/-- The piece that a pass descriptor gives (R198). -/
def pieceOf (s : State) (f : Focus) (t : Troupe) (x : MpassF) (id : Nat) (op : Option Nat) (fence : List Nat) : Piece :=
  let d := (vField f x.b).toNat
  let p := fmtPlanes ((s.core (coreOf f.troupe)).fmtAt f.issue)
  let st := d / 65536 % 65536
  { id := id, troupe := f.troupe, eix := t.eix, op := op, fence := fence, addr := (vField f x.a).toNat, n := d % 64,
    k := d / 64 % 4 + 1, c0 := d / 256 % 64, stride := if st = 0 then 16 * (p + 1) else st, acc := x.acc.toNat,
    zero := x.zero == 1, p := p, pieces := d / 2 ^ 36 % 8 + 1 }

/-- The checks of `mpass` and `mjoin` (R198, R199). -/
def passSlotCheck (s : State) (f : Focus) (t : Troupe) (e : Ensemble) (x : MpassF) (join : Bool) : Option Cause :=
  let p := pieceOf s f t x 0 none []
  if e.naccs ≤ p.acc then some (matConfig f)
  else if !onlyBits (vField f x.b) (if join then 0x73FFFF3FFF else 0xFFFF3FFF) then some (matConfig f)
  else if p.n = 0 || 48 < p.n || 48 < p.c0 + p.n || p.stride < 16 * (p.p + 1) then some (matConfig f)
  else matSpan f e.bytes p.addr p.stride 16 ((p.n - 1) * p.stride + 16 * (p.p + 1))

/-- The flag of a pass: none while the ensemble is engaged (R196). -/
def passFlag (s : State) (f : Focus) (e : Ensemble) (x : MpassF) : Nat := if e.engaged then 15 else selectFlag s f (x.sety == 1)

/-- `mpass` (R201). -/
def execMpass (x : MpassF) (s : State) : Res :=
  matSlot .scratch true s (fun f t e =>
    postSlot s f t (passSlotCheck s f t e x false) (passFlag s f e x) (fun s id op fence =>
      let p := { pieceOf s f t x id op fence with pieces := 1 }
      enterTable s (unitOf f.troupe) (newOp f t id op fence (.pass false [p]))))

/-- `mjoin` (R201): the piece joins its slot; the last one forms the pass, with the pieces of the first's PIECES. -/
def execMjoin (x : MpassF) (s : State) : Res :=
  matSlot .scratch true s (fun f t e =>
    postSlot s f t (passSlotCheck s f t e x true) (passFlag s f e x) (fun s id op fence =>
      let j := (vField f x.b).toNat / 2 ^ 32 % 4
      let ps := kget [] e.joins j ++ [pieceOf s f t x id op fence]
      if ps.length < (ps.head?.map (fun p => p.pieces)).getD 1 then
        s.modEns t.ens (fun e => { e with joins := kset e.joins j ps })
      else
        let s := s.modEns t.ens (fun e => { e with joins := kdel e.joins j })
        enterTable s (unitOf f.troupe) (newOp f t s.ids none (ps.flatMap (fun p => p.fence)) (.pass true ps)) |>
          (fun s => { s with ids := s.ids + 1 })))

/-- The checks of `mdrain` (R198, R199). -/
def drainCheck (f : Focus) (e : Ensemble) (x : MdrainF) : Option Cause :=
  let d := (vField f x.b).toNat
  let size := if x.fmt = 0 then 4 else 2
  let mr := d / 512 % 512
  let nc := d / 2 ^ 24 % 64 + 1
  if e.naccs ≤ x.acc.toNat then some (matConfig f)
  else if d / 2 ^ 30 % 4 ≠ 0 || 384 < d % 512 + mr || 48 < d / 2 ^ 18 % 64 + nc then some (matConfig f)
  else matSpan f e.bytes (vField f x.d).toNat (d / 2 ^ 32) size (if mr = 0 then 0 else (mr - 1) * (d / 2 ^ 32) + nc * size)

/-- `mdrain` (R202). -/
def execMdrain (x : MdrainF) (s : State) : Res :=
  matSlot .posted true s (fun f t e =>
    let d := (vField f x.b).toNat
    postSlot s f t (drainCheck f e x) (selectFlag s f (x.sety == 1)) (fun s id op fence =>
      enterTable s (unitOf f.troupe) (newOp f t id op fence
        (.drain x.acc.toNat (vField f x.d).toNat (d % 512) (d / 512 % 512) (d / 2 ^ 18 % 64) (d / 2 ^ 24 % 64 + 1) (d / 2 ^ 32)
          x.fmt.toNat (x.clr == 1)))))

/-- `mzero` (R202). -/
def execMzero (x : AccF) (s : State) : Res :=
  matSlot .scratch true s (fun f t e =>
    postSlot s f t (if e.naccs ≤ x.acc.toNat then some (matConfig f) else none) 15 (fun s id op fence =>
      enterTable s (unitOf f.troupe) (newOp f t id op fence (.zero x.acc.toNat))))

/-- A slot that names a bank which must be bound (R187). -/
def boundCheck (f : Focus) (e : Ensemble) (b : Nat) : Option Cause := if (kfind e.banks b).isNone then some (matConfig f) else none

/-- `mswap` (R192). -/
def execMswap (x : BankF) (s : State) : Res :=
  matSlot .scratch true s (fun f t e =>
    postSlot s f t (boundCheck f e x.bank.toNat) 15 (fun s id op fence =>
      enterTable s (unitOf f.troupe) (newOp f t id op fence (.swap x.bank.toNat))))

/-- `mfree` (R203). -/
def execMfree (x : BankF) (s : State) : Res :=
  matSlot .scratch true s (fun f t e =>
    postSlot s f t (boundCheck f e x.bank.toNat) 15 (fun s id op fence =>
      enterTable s (unitOf f.troupe) (newOp f t id op fence (.free x.bank.toNat))))

/-- Writes a g register named by a V-form field; 31 discards (R170). -/
def writeV (s : State) (f : Focus) (d : BitVec 5) (v : Dword) : State :=
  if d.toNat < 16 then s.modTroupe f.troupe (fun t => t.gwrite d.toNat v) else s

/-- Another ensemble of the tile is engaged. -/
def otherEngaged (s : State) (u ens : Nat) : Bool := (enssOn s u).any (fun p => p.2.engaged && p.1 != ens)

/-- No plane of another ensemble is still to enter the array (R203). -/
def planesGone (s : State) (u ens : Nat) : Bool :=
  (s.tile u).running.all (fun o => o.ens == ens || (match lastPlane o with | some c => decide (c < s.now) | none => true))

/-- `mengage` (R203). A latch set while it waits is for the next MAT slot that issues (R195). -/
def execMengage (x : VdaF) (s : State) : Res :=
  matSlot .scratch false s (fun f t e =>
    let u := unitOf f.troupe
    let a := vField f x.a
    if a = 1 then
      if otherEngaged s u t.ens then writeV s f x.d 1
      else if planesGone s u t.ens then writeV (s.modEns t.ens (fun e => { e with engaged := true })) f x.d 0
      else holdActing s f .mengage
    else if a = 0 then writeV (if e.engaged then s.modEns t.ens (fun e => { e with engaged := false }) else s) f x.d 0
    else writeV s f x.d 2)

/-- `mfence` (R193): the operations counted now in the named flags hold the troupe's next post. -/
def execMfence (x : VaF) (s : State) : Res :=
  matSlot .scratch true s (fun f t _ =>
    let mask := (vField f x.a).setWidth 12
    s.modTroupe f.troupe (fun _ => { t with mfence := some ((t.outs.filter (fun o => decide (o.flag < 12) && mask.getLsbD o.flag)).map (fun o => o.op)) }))

/-- The numbers that an `mwait` awaits (R204): operations of the ensemble on an accumulator, or of the troupe, formed or
not. -/
def mwaitIds (s : State) (tk : Nat) (t : Troupe) (e : Ensemble) (a : Nat) : List Nat :=
  let u := unitOf tk
  let ops := ((s.tile u).rtab ++ (s.tile u).running).filter (fun o => o.ens == t.ens)
  if a = 31 then
    (ops.flatMap MatOp.ids ++ (unformed e).map (fun p => (p.id, p.troupe))).filterMap (fun p => if p.2 = tk then some p.1 else none)
  else
    (ops.filter (fun o => o.kind.acc == some a)).flatMap (fun o => o.ids.map (fun p => p.1)) ++
    ((unformed e).filter (fun p => p.acc == a)).map (fun p => p.id)

/-- None of a list of operations is still to complete. -/
def matDone (s : State) (u : Nat) (l : List Nat) : Bool :=
  l.isEmpty ||
  !(((s.tile u).rtab ++ (s.tile u).running).any (fun o => o.ids.any (fun p => l.contains p.1)) ||
    (enssOn s u).any (fun p => (unformed p.2).any (fun q => l.contains q.id)))

/-- The exception bits that `mwait` gives and clears (R204). -/
def endMwait (s : State) (f : Focus) (t : Troupe) (e : Ensemble) (d : BitVec 5) : State :=
  let v := e.matExc
  let s := (s.modEns t.ens (fun e => { e with matExc := 0 })).modTroupe f.troupe (fun t => { t with fpFlags := t.fpFlags ||| v })
  writeV s f d (v.setWidth 64)

/-- `mwait` (R204). -/
def execMwait (x : VdaF) (s : State) : Res :=
  matSlot .scratch true s (fun f t e =>
    if x.a != 31 && decide (e.naccs ≤ x.a.toNat) then trapAll s f (matConfig f)
    else
      let ids := mwaitIds s f.troupe t e x.a.toNat
      if f.resuming || ids.isEmpty then endMwait s f t e x.d else holdActing s f (.mwait ids))

end Sys2Proof.Machine
end

