-- ==== Sys2Proof/Machine/Plane.lean ====
section
/-! DEFINITION. The plane unit (09_matrix R205 to R215): conversion into and out of planes, rotation, quantisation,
transposition, window gather; and `xfmt` (06_numbers R141). -/

namespace Sys2Proof.Machine

/-! ## Checks at issue (R207) -/

/-- A byte range that an operation reads or writes, with the alignment of its first byte. -/
structure Span where
  off : Nat
  len : Nat
  al : Nat
deriving DecidableEq, Repr

/-- Step 1: the first g operand that is not aligned to what it names. R207 states no fault value for a check at issue: that of ALIGN and of
SCRATCH_BOUNDS is the operand or the span's first offset that fails (DESIGN CHOICE, log 59). -/
def planeAlign (l : List (Dword × Nat)) : Option Cause :=
  (l.find? (fun p => p.1.toNat % p.2 != 0)).map (fun p => { cause := cAlign, detail := 0, value := p.1 })

/-- Steps 2 and 4: ALIGN, then SCRATCH_BOUNDS, on a list of spans. -/
def spanCheck (size : Nat) (l : List Span) : Option Cause :=
  match l.find? (fun p => p.off % p.al != 0) with
  | some p => some { cause := cAlign, detail := 0, value := BitVec.ofNat 64 p.off }
  | none => (l.find? (fun p => decide (size < p.off + p.len))).map
      (fun p => { cause := cScratchBounds, detail := 0, value := BitVec.ofNat 64 p.off })

/-- FORMAT at issue. -/
def planeFormat (f : Focus) : Cause := openCause cFormat 0 f.issue

/-- The 32 bytes of a header or window record after steps 1 and 2. -/
def headerBytes (s : State) (f : Focus) (unit base size : Nat) (a : Dword) : Except Cause (List Byte) :=
  match spanCheck size [{ off := a.toNat, len := 32, al := 8 }] with
  | some c => .error c
  | none => match scratchBytes s unit base a.toNat 32 with
    | none => .error (openCause cDataUnc 0 f.issue)
    | some l => .ok l

/-! ## Tensor headers (R129, R130) -/

/-- A tensor header record and its address. -/
structure Header where
  at_ : Dword
  fmt : Nat
  rotate : Bool
  dimk : Nat
  dimn : Nat
  estride : Nat
  bstride : Nat
  elemoff : Int
  blkoff : Int
  seed : Dword
deriving DecidableEq, Repr

/-- The bytes of n elements of a format. -/
def rowBytes (fmt n : Nat) : Nat := if fmt = 0 then 4 * n else if fmt ≤ 2 then 2 * n else if fmt ≤ 4 then n else n / 2

/-- The alignment of an element. -/
def elemAlign (fmt : Nat) : Nat := if fmt = 0 then 4 else if fmt ≤ 2 then 2 else 1

/-- The fields of a header record (R129). -/
def parseHeader (a : Dword) (l : List Byte) : Header :=
  { at_ := a, fmt := fieldAt l 0 1, rotate := fieldAt l 1 1 % 2 == 1, dimk := fieldAt l 4 2, dimn := fieldAt l 6 2,
    estride := fieldAt l 8 4, bstride := fieldAt l 12 4, elemoff := signedAt l 16 4, blkoff := signedAt l 20 4,
    seed := BitVec.ofNat 64 (fieldAt l 24 8) }

/-- A header record that a consumer refuses (R130). -/
def headerBad (l : List Byte) (h : Header) : Bool :=
  decide (2 ≤ fieldAt l 1 1) || fieldAt l 2 2 != 0 || decide (6 ≤ h.fmt) || h.dimk == 0 || h.dimn == 0 ||
  (decide (3 ≤ h.fmt) && h.dimk % 24 != 0) ||
  (h.rotate && (h.dimk % 32 != 0 || (decide (3 ≤ h.fmt) && h.dimk % 96 != 0))) ||
  decide (h.estride < rowBytes h.fmt h.dimk) || (decide (3 ≤ h.fmt) && decide (h.bstride < 2 * h.dimk / 24)) ||
  (h.seed != 0 && !h.rotate) || (decide (h.fmt ≤ 2) && (h.bstride != 0 || h.blkoff != 0))

/-- The address of element (n, k) and of the record of block b of row n (R129), modulo 2^64. -/
def Header.elem (h : Header) (n k : Nat) : Nat :=
  (h.at_ + BitVec.ofInt 64 h.elemoff + BitVec.ofNat 64 (n * h.estride + rowBytes h.fmt k)).toNat
def Header.block (h : Header) (n b : Nat) : Nat :=
  (h.at_ + BitVec.ofInt 64 h.blkoff + BitVec.ofNat 64 (n * h.bstride + 2 * b)).toNat

/-- Reads a header (R130, R207). -/
def readHeader (s : State) (f : Focus) (unit base size : Nat) (a : Dword) : Except Cause Header :=
  match headerBytes s f unit base size a with
  | .error c => .error c
  | .ok l => if headerBad l (parseHeader a l) then .error (planeFormat f) else .ok (parseHeader a l)

/-- A tensor descriptor (R209): first row, KB, COUNT, WP. -/
structure TDesc where
  n0 : Nat
  kb : Nat
  count : Nat
  wp : Nat
deriving DecidableEq, Repr

/-- The fields of a tensor descriptor, and whether they are legal for a header; WP only where `wide`. -/
def tensorDesc (d : Dword) : TDesc :=
  { n0 := d.toNat % 65536, kb := d.toNat / 65536 % 65536, count := d.toNat / 2 ^ 32 % 64 + 1, wp := d.toNat / 2 ^ 38 % 32 }
def tensorOk (d : Dword) (h : Header) (wide : Bool) : Bool :=
  let x := tensorDesc d
  d.toNat / 2 ^ 43 == 0 && (if wide then decide (2 ≤ x.wp) && decide (x.wp ≤ 17) else x.wp == 0) &&
  decide (x.n0 + x.count ≤ h.dimn) && decide (96 * x.kb < h.dimk)

/-- The elements of a row that a tensor operation reaches: up to 96, short of DIMK. -/
def Header.reach (h : Header) (kb : Nat) : Nat := min 96 (h.dimk - 96 * kb)

/-- The spans of the rows of a tensor that an operation reaches: elements and block records. -/
def tensorSpans (h : Header) (x : TDesc) : List Span :=
  (upTo x.count).flatMap (fun j =>
    { off := h.elem (x.n0 + j) (96 * x.kb), len := rowBytes h.fmt (h.reach x.kb), al := elemAlign h.fmt } ::
    (if h.fmt ≤ 2 then [] else [{ off := h.block (x.n0 + j) (4 * x.kb), len := 2 * (h.reach x.kb / 24), al := 1 }]))

/-! ## Running a plane operation (R206, R207) -/

/-- What one row of an operation gives: scratch writes, signals, saturation, and the address of the next record. -/
structure RowOut where
  ws : List (Nat × List Byte)
  fp : FpFlags
  sat : Bool
  next : Nat
deriving DecidableEq, Repr

/-- An operation that has passed its checks: its rows, spans read and written, and what row j does, given the state and
the address of the next record; a row can meet a cause. -/
structure PlaneJob where
  rows : Nat
  reads : List Span
  writes : List Span
  start : Nat
  row : State → Nat → Nat → Except Nat RowOut

/-- What an operation has done so far. -/
structure PlaneRun where
  s : State
  ws : List (Nat × List Byte)
  fp : FpFlags
  sat : Bool
  next : Nat
  fault : Option (Nat × Nat)
deriving DecidableEq, Repr

/-- Runs row j: its writes land before row j + 1 reads; a write that covers part of an uncorrectable word fails the row. -/
def planeRow (unit base : Nat) (row : State → Nat → Nat → Except Nat RowOut) (r : PlaneRun) (j : Nat) : PlaneRun :=
  if r.fault.isSome then r
  else match row r.s j r.next with
    | .error c => { r with fault := some (c, j) }
    | .ok o =>
      if partBad r.s unit base o.ws then { r with fault := some (cDataUnc, j) }
      else { s := putScratch r.s unit base o.ws, ws := r.ws ++ o.ws, fp := r.fp ||| o.fp, sat := r.sat || o.sat,
             next := o.next, fault := none }

/-- The plane unit runs an operation for 8·R cycles, and the troupe is not ready for its next bundle before (R205, R206). -/
def occupyPlane (s : State) (f : Focus) (rows : Nat) : State :=
  ((s.modCore (coreOf f.troupe) (fun c => { c with plane := some f.troupe })).modTroupe f.troupe (fun t =>
    { t with readyAt := max t.readyAt (f.issue + 8 * rows) })).schedule (f.issue + 8 * rows) (.planeComplete f.troupe)

/-- Runs the rows of an operation that has passed its checks. -/
def planeRun (s : State) (f : Focus) (a : Nat × Nat × Nat) (j : PlaneJob) (held : Bool) : State :=
  let r := (upTo j.rows).foldl (planeRow a.1 a.2.1 j.row)
    { s := s, ws := [], fp := 0, sat := false, next := j.start, fault := none }
  let s := if held then holdEffects s f.troupe [(0, .bytes r.ws)] else r.s
  let s := occupyPlane (s.modTroupe f.troupe (fun t =>
    { t with fpFlags := t.fpFlags ||| r.fp, sat := if r.sat then 1 else t.sat })) f j.rows
  match r.fault with
  | none => s
  | some (c, row) => trapAll s f { cause := c, detail := 0, value := BitVec.ofNat 64 row }

/-- The g operand of a header or window record, which a slot reads before anything else. -/
def headSpan (f : Focus) (x : BitVec 5) : List (Nat × Nat) := [((vField f x).toNat, 32)]

/-- Runs a PLANE slot (R205 to R207): the stalls of R375, the place of its reads and writes in program order (R206), the checks of
`prep`, the rows. `head` are the ranges that `prep` reads. -/
def planeSlot (s : State) (head : Focus → List (Nat × Nat)) (prep : State → Focus → Nat → Nat → Nat → Dword → Except Cause PlaneJob) : Res :=
  atUniform s (fun f t =>
    if heldMeets s f.troupe t (head f) then stallCommit s f
    else inOrder s f t false false [] (fun s =>
      let a := scratchOf s f.troupe t
      let fmt := (s.core (coreOf f.troupe)).fmtAt f.issue
      match prep s f a.1 a.2.1 a.2.2 fmt with
      | .error c => trapAll s f c
      | .ok j =>
        let held := writesHeld s f.troupe t (j.writes.map (fun p => (p.off, List.replicate p.len (0 : Byte))))
        if heldMeets s f.troupe t (j.reads.map (fun p => (p.off, p.len))) then stallCommit s f
        else if held && !specRoom t 1 then stallCommit s f
        else inOrder s f t (!held) false (j.writes.map (fun p => (p.off, p.len))) (fun s => planeRun s f a j held)))

/-- PLANE_COMPLETE (R206): the plane unit is free. -/
def execPlaneComplete (troupe : Nat) (s : State) : Res :=
  .next (s.modCore (coreOf troupe) (fun c => if c.plane = some troupe then { c with plane := none } else c))

/-! ## Into planes (R210) -/

/-- The floating format of a format code 0 to 2. -/
def srcFmt (code : Nat) : FFmt := if code = 0 then f32 else if code = 1 then f16 else bf16

/-- A list of f32 patterns, padded to 96. -/
def pad96 (l : List Nat) : List Nat := l ++ List.replicate (96 - l.length) 0

/-- The elements of a byte run of an f32, f16 or bf16 row as f32 patterns. -/
def widen (code : Nat) (l : List Byte) : List Nat :=
  let z := rowBytes code 1
  (upTo (l.length / z)).map (fun i => (ffConvert (srcFmt code) f32 (fieldAt l (z * i) z)).1)

/-- Four blocks as a record and whether a value was clamped; none when one is infinite or NaN. -/
def planeRecord (p code : Nat) (rot : Bool) (bs : List (Option PlaneBlock)) : Option (PlaneRec × Bool) :=
  let l := bs.filterMap id
  if l.length = bs.length then
    some ({ p := p, fmt := code, rotated := rot, exps := l.map (fun b => b.exp), vals := l.flatMap (fun b => b.vals) },
          l.any (fun b => b.sat))
  else none

/-- 96 f32 patterns as a record (R136). -/
def floatRecord (p code : Nat) (rot : Bool) (l : List Nat) : Option (PlaneRec × Bool) :=
  planeRecord p code rot ((runsOf 24 4 l).map (fun b => planesOf p (b.map (ffDecode f32))))

/-- A block of an MX format into planes; none on a block that raises FORMAT (R127, R135, R136). -/
def mxPlanes (p code scale spare : Nat) (cs : List Nat) : Option PlaneBlock :=
  if blockBad code cs spare || scale = 0xFF then none
  else if code = 5 then some (planesOfE2m1 p scale spare cs)
  else planesOf p (cs.map (blockValue code scale spare))

/-- A block of zeros. -/
def zeroBlock : PlaneBlock := { exp := 0, vals := List.replicate 24 0, sat := false }

/-- Row n of a tensor, elements from 96·KB, as a plane record, with the signals of its rotation (R210). -/
def tplaneRow (s : State) (unit base : Nat) (h : Header) (kb p n : Nat) : Except Nat (PlaneRec × Bool × FpFlags) :=
  let m := h.reach kb
  match scratchBytes s unit base (h.elem n (96 * kb)) (rowBytes h.fmt m) with
  | none => .error cDataUnc
  | some l =>
    if h.fmt ≤ 2 then
      let xs := pad96 (widen h.fmt l)
      let r := if h.rotate then rotateRow h.seed (3 * kb) xs else (xs, 0)
      match floatRecord p h.fmt h.rotate r.1 with
      | none => .error cFormat
      | some q => .ok (q.1, q.2, r.2)
    else match scratchBytes s unit base (h.block n (4 * kb)) (2 * (m / 24)) with
      | none => .error cDataUnc
      | some b =>
        let bs := (runsOf 24 4 (unpackCodes h.fmt l)).zipIdx.map (fun c =>
          mxPlanes p h.fmt (fieldAt b (2 * c.2) 1) (fieldAt b (2 * c.2 + 1) 1) c.1)
        match planeRecord p h.fmt h.rotate (bs ++ List.replicate (4 - bs.length) (some zeroBlock)) with
        | none => .error cFormat
        | some q => .ok (q.1, q.2, 0)

/-- `tplane` (R210). -/
def execTplane (x : TplaneF) (s : State) : Res :=
  planeSlot s (fun f => headSpan f x.a) (fun s f unit base size fmt =>
    let dst := vField f x.d
    let d := vField f x.b
    let w := x.weight == 1
    match planeAlign [(vField f x.a, 8), (dst, 16)] with
    | some c => .error c
    | none => match readHeader s f unit base size (vField f x.a) with
      | .error c => .error c
      | .ok h =>
        let t := tensorDesc d
        let p := if w then t.wp else fmtPlanes fmt
        if !tensorOk d h w || h.fmt != (if w then fmtW fmt else fmtA fmt) || h.rotate != fmtRot fmt then .error (planeFormat f)
        else
          let z := 16 * (p + 1)
          let wr := (upTo t.count).map (fun j => ({ off := (dst + BitVec.ofNat 64 (j * z)).toNat, len := z, al := 16 } : Span))
          match spanCheck size (tensorSpans h t ++ wr) with
          | some c => .error c
          | none => .ok { rows := t.count, reads := tensorSpans h t, writes := wr, start := 0, row := fun s j _ =>
              match tplaneRow s unit base h t.kb p (t.n0 + j) with
              | .error c => .error c
              | .ok r => .ok { ws := [((dst + BitVec.ofNat 64 (j * z)).toNat, r.1.bytes)], fp := r.2.2, sat := r.2.1, next := 0 } })

/-! ## Out of planes (R211) -/

/-- Reads the record at an offset at its own P; a refused one raises FORMAT (R207, R211). -/
def readOwnRecord (s : State) (unit base off : Nat) : Except Nat PlaneRec :=
  match scratchBytes s unit base off 16 with
  | none => .error cDataUnc
  | some h =>
    let p := fieldAt h 8 1
    if p < 2 || 17 < p then .error cFormat
    else match scratchBytes s unit base off (16 * (p + 1)) with
      | none => .error cDataUnc
      | some l => if recClean p l then .ok (readRec l) else .error cFormat

/-- The first n elements of a record in a format, with OF where one overflows (R137, R211). -/
def unplane (r : PlaneRec) (dst : FFmt) (n : Nat) : List Byte × FpFlags :=
  let rs := (upTo n).map (fun e =>
    let v := r.vals.getD e 0
    ffRound dst (decide (v < 0)) v.natAbs (r.exps.getD (e / 24) 0) false)
  (rs.flatMap (fun q => leBytes (ffWidth dst / 8) q.1), (rs.foldl (fun m q => m ||| q.2) 0) &&& fpOF)

/-- One row of `tunplane` and `tdequant`. -/
def unplaneRow (s : State) (unit base rec_ dst n : Nat) (fm : FFmt) : Except Nat RowOut :=
  match readOwnRecord s unit base rec_ with
  | .error c => .error c
  | .ok r =>
    let o := unplane r fm n
    .ok { ws := [(dst, o.1)], fp := o.2, sat := false, next := rec_ + 16 * (r.p + 1) }

/-- `tunplane` (R211). -/
def execTunplane (x : TunF) (s : State) : Res :=
  planeSlot s (fun _ => []) (fun _ f unit base size _ =>
    let fm := srcFmt x.tf.toNat
    let z := ffWidth fm / 8
    let src := vField f x.a
    let d := (vField f x.b).toNat
    let count := d % 64 + 1
    let row (j : Nat) : Nat := (vField f x.d + BitVec.ofNat 64 (j * (d / 2 ^ 32))).toNat
    match planeAlign [(src, 16), (vField f x.d, z)] with
    | some c => .error c
    | none =>
      if d / 64 % 2 ^ 26 ≠ 0 then .error (planeFormat f)
      else
        let rd : List Span := [{ off := src.toNat, len := 288 * count, al := 16 }]
        let wr : List Span := (upTo count).map (fun j => { off := row j, len := 96 * z, al := z })
        match spanCheck size (rd ++ wr) with
        | some c => .error c
        | none => .ok { rows := count, reads := rd, writes := wr, start := src.toNat,
                        row := fun s j nx => unplaneRow s unit base nx (row j) 96 fm })

/-- `tdequant` (R211). -/
def execTdequant (x : VdabF) (s : State) : Res :=
  planeSlot s (fun f => headSpan f x.d) (fun s f unit base size _ =>
    let src := vField f x.a
    let d := vField f x.b
    match planeAlign [(vField f x.d, 8), (src, 16)] with
    | some c => .error c
    | none => match readHeader s f unit base size (vField f x.d) with
      | .error c => .error c
      | .ok h =>
        let t := tensorDesc d
        if !tensorOk d h false || 3 ≤ h.fmt then .error (planeFormat f)
        else
          let rd : List Span := [{ off := src.toNat, len := 288 * t.count, al := 16 }]
          match spanCheck size (rd ++ tensorSpans h t) with
          | some c => .error c
          | none => .ok { rows := t.count, reads := rd, writes := tensorSpans h t, start := src.toNat,
                          row := fun s j nx => unplaneRow s unit base nx (h.elem (t.n0 + j) (96 * t.kb)) (h.reach t.kb) (srcFmt h.fmt) })

/-! ## Rotation and quantisation (R212, R213) -/

/-- The f32 patterns of a byte run. -/
def f32s (l : List Byte) : List Nat := (upTo (l.length / 4)).map (fun i => fieldAt l (4 * i) 4)

/-- The inverse rotation of 32 patterns: butterflies, sign flips, then × 2^−5 (R212). -/
def unrotate32 (seed : Dword) (row : Nat) (l : List Nat) : List Nat × FpFlags :=
  let r := hadamard l
  let rs := (rotSigns seed row r.1).map (fun y => ffMul f32 y 0x3D000000)
  (rs.map (fun q => q.1), rs.foldl (fun m q => m ||| q.2) r.2)

/-- Three groups of 32 as rotation rows 3·KB to 3·KB + 2. -/
def trotRow (inv : Bool) (seed : Dword) (kb : Nat) (l : List Nat) : List Nat × FpFlags :=
  if inv then
    let rs := (runsOf 32 3 l).zipIdx.map (fun p => unrotate32 seed (3 * kb + p.2) p.1)
    (rs.flatMap (fun r => r.1), rs.foldl (fun m r => m ||| r.2) 0)
  else rotateRow seed (3 * kb) l

/-- `trot` (R212). -/
def execTrot (x : TrotF) (s : State) : Res :=
  planeSlot s (fun _ => []) (fun _ f unit base size _ =>
    let seed := vField f x.b
    let d := (vField f (x.b + 1)).toNat
    let count := d % 64 + 1
    let st := d / 2 ^ 32
    let at_ (g : BitVec 5) (j : Nat) : Nat := (vField f g + BitVec.ofNat 64 (j * st)).toNat
    match planeAlign [(vField f x.a, 4), (vField f x.d, 4)] with
    | some c => .error c
    | none =>
      if d / 64 % 1024 ≠ 0 then .error (planeFormat f)
      else
        let rd : List Span := (upTo count).map (fun j => { off := at_ x.a j, len := 384, al := 4 })
        let wr : List Span := (upTo count).map (fun j => { off := at_ x.d j, len := 384, al := 4 })
        match spanCheck size (rd ++ wr) with
        | some c => .error c
        | none => .ok { rows := count, reads := rd, writes := wr, start := 0, row := fun s j _ =>
            match scratchBytes s unit base (at_ x.a j) 384 with
            | none => .error cDataUnc
            | some l =>
              let r := trotRow (x.inv == 1) seed (d / 65536 % 65536) (f32s l)
              .ok { ws := [(at_ x.d j, r.1.flatMap (leBytes 4))], fp := r.2, sat := false, next := 0 } })

/-- `tquant` (R213): each row's four blocks are quantised, and those short of DIMK are written. -/
def execTquant (x : VdabF) (s : State) : Res :=
  planeSlot s (fun f => headSpan f x.d) (fun s f unit base size fmt =>
    let d := vField f x.b
    let st := vField f (x.b + 1)
    let src (j : Nat) : Nat := (vField f x.a + BitVec.ofNat 64 j * st).toNat
    match planeAlign [(vField f x.d, 8), (vField f x.a, 4)] with
    | some c => .error c
    | none => match readHeader s f unit base size (vField f x.d) with
      | .error c => .error c
      | .ok h =>
        let t := tensorDesc d
        if !tensorOk d h false || h.fmt ≤ 2 || h.rotate != fmtRot fmt then .error (planeFormat f)
        else
          let rd : List Span := (upTo t.count).map (fun j => { off := src j, len := 384, al := 4 })
          match spanCheck size (rd ++ tensorSpans h t) with
          | some c => .error c
          | none => .ok { rows := t.count, reads := rd, writes := tensorSpans h t, start := 0, row := fun s j _ =>
              match scratchBytes s unit base (src j) 384 with
              | none => .error cDataUnc
              | some l =>
                let r := if h.rotate then rotateRow h.seed (3 * t.kb) (f32s l) else (f32s l, 0)
                let all := (runsOf 24 4 r.1).filterMap (quantBlock h.fmt (fmtSpare fmt))
                let qs := all.take (h.reach t.kb / 24)
                if all.length < 4 then .error cFormat
                else .ok { ws := [(h.elem (t.n0 + j) (96 * t.kb), packCodes h.fmt (qs.flatMap (fun q => q.codes))),
                                  (h.block (t.n0 + j) (4 * t.kb), qs.flatMap (fun q => [BitVec.ofNat 8 q.scale, BitVec.ofNat 8 q.spare]))],
                           fp := r.2, sat := all.any (fun q => q.sat), next := 0 } })

/-! ## Transposition (R214) -/

/-- `ttrans` (R214): every read precedes every write. -/
def execTtrans (x : TtransF) (s : State) : Res :=
  planeSlot s (fun _ => []) (fun s0 f unit base size _ =>
    let z := if x.half = 1 then 2 else 4
    let d := (vField f x.b).toNat
    let rows := d % 128
    let cols := d / 128 % 128
    let src (i : Nat) : Nat := (vField f x.a + BitVec.ofNat 64 (i * (d / 2 ^ 32 % 65536))).toNat
    let dst (j : Nat) : Nat := (vField f x.d + BitVec.ofNat 64 (j * (d / 2 ^ 48))).toNat
    match planeAlign [(vField f x.a, z), (vField f x.d, z)] with
    | some c => .error c
    | none =>
      if d / 2 ^ 14 % 2 ^ 18 ≠ 0 || rows = 0 || 96 < rows || cols = 0 || 96 < cols then .error (planeFormat f)
      else
        let rd : List Span := (upTo rows).map (fun i => { off := src i, len := cols * z, al := z })
        let wr : List Span := (upTo cols).map (fun j => { off := dst j, len := rows * z, al := z })
        match spanCheck size (rd ++ wr) with
        | some c => .error c
        | none => .ok { rows := rows, reads := rd, writes := wr, start := 0, row := fun _ i _ =>
            match scratchBytes s0 unit base (src i) (cols * z) with
            | none => .error cDataUnc
            | some l => .ok { ws := (upTo cols).map (fun j => (dst j + i * z, (l.drop (j * z)).take z)), fp := 0, sat := false, next := 0 } })

/-! ## Window gather (R215) -/

/-- A window record. -/
structure Window where
  w : Nat
  h : Nat
  c : Nat
  kw : Nat
  kh : Nat
  sx : Nat
  sy : Nat
  dx : Nat
  dy : Nat
  padl : Nat
  padt : Nat
  count : Nat
  rowstride : Nat
  padval : Nat
  ow : Nat
  kb : Nat
  first : Nat
deriving DecidableEq, Repr

/-- The fields of a window record. -/
def parseWindow (l : List Byte) : Window :=
  { w := fieldAt l 0 2, h := fieldAt l 2 2, c := fieldAt l 4 2, kw := fieldAt l 6 1, kh := fieldAt l 7 1, sx := fieldAt l 8 1,
    sy := fieldAt l 9 1, dx := fieldAt l 10 1, dy := fieldAt l 11 1, padl := fieldAt l 12 1, padt := fieldAt l 13 1,
    count := fieldAt l 14 1 + 1, rowstride := fieldAt l 16 4, padval := fieldAt l 20 4, ow := fieldAt l 24 2,
    kb := fieldAt l 26 2, first := fieldAt l 28 4 }

/-- A window record outside its limits. -/
def windowBad (l : List Byte) (z : Nat) (x : Window) : Bool :=
  [x.w, x.h, x.c, x.kw, x.kh, x.sx, x.sy, x.dx, x.dy, x.ow].contains 0 || decide (48 < x.count) || fieldAt l 15 1 != 0 ||
  x.rowstride % z != 0 || !fvFinite (ffDecode f32 x.padval) || decide (x.kw * x.kh * x.c ≤ 96 * x.kb)

/-- One tap of a record: an f32 pattern; the state is read only inside the image. -/
def windowTap (s : State) (unit base a code : Nat) (x : Window) (j e : Nat) : Except Nat Nat :=
  let k := 96 * x.kb + e
  if x.kw * x.kh * x.c ≤ k then .ok 0
  else
    let p := x.first + j
    let t := k / x.c
    let iy : Int := (p / x.ow * x.sy + t / x.kw * x.dy : Nat) - (x.padt : Int)
    let ix : Int := (p % x.ow * x.sx + t % x.kw * x.dx : Nat) - (x.padl : Int)
    if 0 ≤ iy && iy < x.h && 0 ≤ ix && ix < x.w then
      let z := rowBytes code 1
      match scratchBytes s unit base (a + iy.toNat * x.rowstride + (ix.toNat * x.c + k % x.c) * z) z with
      | none => .error cDataUnc
      | some l => .ok (ffConvert (srcFmt code) f32 (bytesNat l)).1
    else .ok x.padval

/-- The 96 taps of a record. -/
def windowTaps (s : State) (unit base a code : Nat) (x : Window) (j : Nat) : Except Nat (List Nat) :=
  (upTo 96).foldl (fun (r : Except Nat (List Nat)) e => match r with
    | .error c => .error c
    | .ok l => match windowTap s unit base a code x j e with
      | .error c => .error c
      | .ok v => .ok (l ++ [v])) (.ok [])

/-- `twin` (R215). -/
def execTwin (x : VdabF) (s : State) : Res :=
  planeSlot s (fun f => headSpan f x.b) (fun s f unit base size fmt =>
    let code := fmtA fmt
    let p := fmtPlanes fmt
    let z := elemAlign code
    let a := (vField f x.a).toNat
    match planeAlign [(vField f x.d, 16), (vField f x.a, z), (vField f x.b, 8)] with
    | some c => .error c
    | none => match headerBytes s f unit base size (vField f x.b) with
      | .error c => .error c
      | .ok l =>
        let w := parseWindow l
        if 3 ≤ code || fmtRot fmt || windowBad l z w then .error (planeFormat f)
        else
          let rd : List Span := [{ off := a, len := (w.h - 1) * w.rowstride + w.w * w.c * z, al := z }]
          let wr : List Span := (upTo w.count).map (fun j => { off := (vField f x.d).toNat + j * (16 * (p + 1)), len := 16 * (p + 1), al := 16 })
          match spanCheck size (rd ++ wr) with
          | some c => .error c
          | none => .ok { rows := w.count, reads := rd, writes := wr, start := 0, row := fun s j _ =>
              match windowTaps s unit base a code w j with
              | .error c => .error c
              | .ok l => match floatRecord p code false l with
                | none => .error cFormat
                | some q => .ok { ws := [((vField f x.d).toNat + j * (16 * (p + 1)), q.1.bytes)], fp := 0, sat := q.2, next := 0 } })

/-! ## `xfmt` (R141) -/

/-- The fields of `fmt` that SUB selects. -/
def xfmtMask (sub : BitVec 5) : Dword :=
  (if sub.getLsbD 0 then 0x1F else 0) ||| (if sub.getLsbD 1 then 0x700 else 0) ||| (if sub.getLsbD 2 then 0x7000 else 0) |||
  (if sub.getLsbD 3 then 0x40000 else 0) ||| (if sub.getLsbD 4 then 0x80000 else 0)

/-- `xfmt` (R141): the merge is made against every write issued before. A speculative troupe stalls at it: `fmt` is its core's, neither
a register of its own nor in a spec region (R375; log 60). -/
def execXfmt (x : XfmtF) (s : State) : Res :=
  atUniform s (fun f t =>
    let m := xfmtMask x.mask
    let v := vField f x.a
    let c := coreOf f.troupe
    if t.speculative then stallCommit s f
    else if !fmtLegal m (v &&& m) then trapAll s f (planeFormat f)
    else
      let old := (s.core c).fmtLast
      writeV (s.modCore c (fun k => k.fmtWrite f.issue ((old &&& ~~~m) ||| (v &&& m)))) f x.d old)

end Sys2Proof.Machine
end

