-- ==== Sys2Proof/Machine/Replay.lean ====
section
/-! DEFINITION. Accesses that perform after their slot has committed: the entries of a replay list (11_translation R243, R247
to R249), and the held effects of a speculative troupe at its commit (17_sketch R376, R380). -/

namespace Sys2Proof.Machine

/-- How an entry fares: its page is absent, at an address and a level; its access is made and its result awaited; or it is
done. -/
inductive Played where
  | absent (ea : Dword) (level : Nat)
  | awaited
  | done
deriving DecidableEq, Repr

/-- A replayed load of a thread (R247, R249); an acquire acts at the scope that its slot read at issue (R282). -/
def replayLoad (s : State) (w : Who) (t : Troupe) (ea : Dword) (size fn q op : Nat) (ids : List Nat) (wide : Bool) : Played × State :=
  let r := reach s w.troupe t fn (2 ^ size) ea .read
  match r.1 with
  | .absent l => (.absent ea l, r.2)
  | .trap c =>
    let d := r.2.drawTime 1
    (.awaited, sendLoad d.2 w.troupe w.gen op d.1 (markFills w.thread q ids c.cause c.detail ea) true)
  | .global pa key pm =>
    (.awaited, acquireAt (performLoad r.2 w (.global pa key pm) (laneOf w.troupe) s.now ea size fn q op ids true) w.troupe wide)
  | _ => (.done, r.2.modTroupe w.troupe (fun t => t.closePart op))

/-- A replayed atomic of a thread (R247, R249), in the mode of its issue (R297). -/
def replayAtom (s : State) (w : Who) (t : Troupe) (ea : Dword) (fn : Nat) (b d : Word) (dst op id : Nat) (wide mca : Bool) : Played × State :=
  let r := reach s w.troupe t 1 4 ea .both
  match r.1 with
  | .absent l => (.absent ea l, r.2)
  | .trap c => (.awaited, sendAtom r.2 w op (atomFills w.thread id (BitVec.ofNat 6 dst) (.error (c.cause + 256 * c.detail) ea)) none true)
  | .global pa key pm => (.awaited, performAtom r.2 w (.global pa key pm) ea fn b d dst op id wide mca true)
  | _ => (.done, r.2.modTroupe w.troupe (fun t => t.closePart op))

/-- A store that performs late (R247 to R249, R376), in the mode of its issue (R297), and a release when it was one then (R285): a
failure goes to the troupe as an asynchronous trap. -/
def lateStore (s : State) (w : Who) (t : Troupe) (ea : Dword) (size fn : Nat) (data : Dword) (mca : Bool) (rel : Option Bool) : Played × State :=
  let n := 2 ^ size
  let s := if rel.isSome then flushTroupe s w.troupe else s
  let fail (s : State) (c : Cause) : State := failStore s w.troupe w.gen w.thread c.cause c.detail ea
  let go (s : State) (p : Place) : State := issueStore s w p (laneOf w.troupe) s.now ea size fn data mca rel
  let r := reach s w.troupe t fn n ea .write
  match r.1 with
  | .absent l => (.absent ea l, r.2)
  | .trap c => (.done, fail r.2 c)
  | .scratch u off => (.done, go r.2 (.scratch u off))
  | .global pa key pm => (.done, go r.2 (.global pa key pm))
  | .window => (.done, go r.2 .window)

/-- A reduction that performs late, at the scope set of its issue (R282). -/
def lateRed (s : State) (w : Who) (t : Troupe) (ea : Dword) (fn : Nat) (b : Word) (wide mca : Bool) (slot : Nat) (rel : Option Bool) : Played × State :=
  let r := reach s w.troupe t 1 4 ea .write
  match r.1 with
  | .absent l => (.absent ea l, r.2)
  | .trap c => (.done, failStore r.2 w.troupe w.gen w.thread c.cause c.detail ea)
  | .global pa key pm => (.done, issueRed r.2 w (.global pa key pm) ea fn b wide mca slot rel)
  | _ => (.done, r.2)

/-- A transfer that performs late: a failure goes to its tag (R249, R346). One that parked stays in its list until it has
completed (R247). Its scratch offset counts from the allocation as it now lies (R344). -/
def lateCopy (s : State) (tk : Nat) (t : Troupe) (op : CopyOp) (parked : Bool) : Played × State :=
  let c := { op with off := (scratchOf s tk t).2.1 + op.sa.toNat }
  let out : Played := if parked then .awaited else .done
  if c.count = 0 then (out, launchCopy s { c with replayed := parked })
  else
    let r := reach s tk t 1 1 c.ga (if c.toScratch then .read else .write)
    match r.1 with
    | .absent l => (.absent c.ga l, r.2)
    | .trap k => (.done, endCopy r.2 c (some (k.cause + 256 * k.detail, c.ga)))
    | .global pa key pm =>
      (out, launchCopy r.2 { c with pa := pa, key := key, pmode := pm, replayed := parked })
    | _ => (.done, endCopy r.2 c none)

/-- The outcome of a deque operation that performs late. R249 names no deque operation: a ring access that fails at its replay raises an
asynchronous trap, as a store's does (R407; DESIGN CHOICE, log 61). -/
def lateDeque (tk i : Nat) (e : DequeEnd × State) : Played × State :=
  match e.1 with
  | .done => (.done, e.2)
  | .full => (.done, failStore e.2 tk (e.2.genOf tk) i cSpillFull 0 (Config.faultValue cSpillFull 0 e.2.now))
  | .trap c => (.done, failStore e.2 tk (e.2.genOf tk) i c.cause c.detail c.value)
  | .absent ea l => (.absent ea l, e.2)

/-- A held engine command is checked for acceptance when it is released; a refused one is dropped (R375). -/
def lateEnq (s : State) (tk : Nat) (t : Troupe) (e : Nat) (ws : List Word) : State :=
  let core := coreOf tk
  if !serves core e || 16 ≤ ((s.core core).engine e).length then s
  else
    let s := release s tk
    let a := acceptCmd s tk t e s.now ws
    match a.1 with
    | none => a.2
    | some c => appendCmd a.2 core e c

/-- Performs an access of a thread after its slot has committed; `parked` says that it had parked, and `seq` is the place in program
order of one that its commit releases (R376). A steal whose victim has meanwhile gone to another context fails (R82). -/
def performAct (s : State) (tk i : Nat) (a : Act) (parked : Bool) (seq : Option Nat) : Played × State :=
  match s.troupe tk with
  | none => (.done, s)
  | some t =>
    let w := { whoOf s tk t i with seq := seq }
    match a with
    | .load ea size fn q op ids wide => replayLoad s w t ea size fn q op ids wide
    | .store ea size fn data mca rel => lateStore s w t ea size fn data mca rel
    | .atom ea fn b d dst op id wide mca _ => replayAtom s w t ea fn b d dst op id wide mca
    | .red ea fn b wide mca slot rel => lateRed s w t ea fn b wide mca slot rel
    | .copy c => lateCopy s tk t c parked
    | .fork r _ => lateDeque tk i (doFork s tk t.ctx r)
    | .take d p _ => lateDeque tk i (doTake s tk t.ctx (coreOf tk) false d p)
    | .steal v d p _ =>
      if robbable s tk t.ctx (BitVec.ofNat 64 v) then lateDeque tk i (doTake s tk t.ctx v true d p) else (.done, finishTake s tk d p none)
    | .bytes ws =>
      let a := scratchOf s tk t
      (.done, putScratch (performTroupe s tk) a.1 a.2.1 ws)
    | .enq e ws => (.done, lateEnq s tk t e ws)

/-! ## Replay (R247 to R249) -/

/-- The threads whose earlier accesses an entry follows, and what it waits for; a store or a reduction takes its place in the
queues of its thread instead (R248). -/
def replayOrder (i : Nat) : Act → Option (BitVec 16 × OrderKind)
  | .load .. => some (BitVec.ofNat 16 (2 ^ i), .loads)
  | .atom .. => some (BitVec.ofNat 16 (2 ^ i), .stores)
  | .copy c => some (maskOf c.threads, .stores)
  | .enq .. => some (0xFFFF, .stores)
  | .store .. => none
  | .red .. => none
  | _ => some (0xFFFF, .all)

/-- The entry at the head of a replay list has been sent, or has parked and is not woken, or waits for earlier accesses. An entry
with no fault counted is a held effect that its commit has released. -/
def replayBlocked (s : State) (tk : Nat) (t : Troupe) : Bool :=
  match t.replay with
  | [] => true
  | r :: _ => r.sent || (r.faults != 0 && !t.woken) || (match replayOrder r.thread r.act with
    | some (ths, k) => orderPending s tk t ths k
    | none => false)

/-- An entry of a speculative troupe whose effect its buffer holds (R375). -/
def replayHeld (s : State) (tk : Nat) (t : Troupe) (i : Nat) : Act → Bool
  | .store ea size fn .. => storeHeld s tk t i fn (2 ^ size) ea
  | .red .. => t.speculative
  | .copy _ => t.speculative
  | _ => false

/-- A held entry is tried: its page may still be absent. -/
def replayAbsent (s : State) (tk : Nat) (t : Troupe) (a : Act) : Played × State :=
  match a with
  | .copy c => if c.count = 0 then (.done, s) else
    let r := reach s tk t 1 1 c.ga (if c.toScratch then .read else .write)
    (match r.1 with | .absent l => .absent c.ga l | _ => .done, r.2)
  | _ =>
    let r := reach s tk t 1 1 (actEa a) .write
    (match r.1 with | .absent l => .absent (actEa a) l | _ => .done, r.2)

/-- Replays one entry. -/
def replayOne (s : State) (tk : Nat) (t : Troupe) (r : Replay) : Played × State :=
  if replayHeld s tk t r.thread r.act then
    let a := replayAbsent s tk t r.act
    match a.1 with
    | .absent ea l => (.absent ea l, a.2)
    | _ => (.done, holdEffects a.2 tk [(r.thread, r.act)])
  else performAct s tk r.thread r.act (r.faults != 0) r.seq

/-- A deque operation stops at a ring address, which may be another than before. -/
def Act.stopAt (ea : Dword) : Act → Act
  | .fork r _ => .fork r ea
  | .take d p _ => .take d p ea
  | .steal v d p _ => .steal v d p ea
  | a => a

/-- The head of a replay list is a deque operation, a steal or not: it reaches its deque in the order of R83. -/
def dequeHead (l : List Replay) : Option Bool :=
  match l with
  | [] => none
  | r :: _ => match r.act with
    | .fork .. => some false
    | .take .. => some false
    | .steal .. => some true
    | _ => none

/-- Replays the entries of a troupe in order, up to a deque operation that is not the first: one whose result is awaited stays at the head until it has come, and an absent one
with a raised count, its record posted (R245, R247, R249). -/
def replayList (tk : Nat) : Nat → State → State
  | 0, s => s
  | n + 1, s =>
    match s.troupe tk with
    | none => s
    | some t => match t.replay with
      | [] => s.modTroupe tk (fun t => { t with woken := false, parkedAt := none, surfaced := t.surfaced || !t.late.isEmpty })
      | r :: rest =>
        if replayBlocked s tk t then s
        else
          let a := replayOne s tk t r
          match a.1 with
          | .absent ea l =>
            let k := min (r.faults + 1) 255
            let s := if r.faults = 0 && pageParked a.2 tk t.ctx ea then a.2
                     else postRecord a.2 t.ctx (faultRecord a.2 tk t.ctx ea (actKind r.act) l k)
            s.modTroupe tk (fun t => { t with replay := { r with faults := k, act := r.act.stopAt ea, level := l } :: rest, woken := false, parkedAt := some s.now })
          | .awaited => a.2.modTroupe tk (fun t => { t with replay := { r with sent := true } :: rest, woken := false, parkedAt := none })
          | .done =>
            let s := a.2.modTroupe tk (fun t => { t with replay := rest })
            if (dequeHead rest).isSome then s else replayList tk n s

/-- REPLAY (R247): a woken troupe translates and performs its replay entries in order. -/
def execReplay (troupe : Nat) (s : State) : Res :=
  .next (replayList troupe (match s.troupe troupe with | some t => t.replay.length + 1 | none => 0) s)

end Sys2Proof.Machine
end

