-- ==== Sys2Proof/Machine/Sketch.lean ====
section
/-! DEFINITION. Predicted tiles (17_sketch R367 to R383): the tracked-tile entries, the SPEC class, the compare, commit and
squash of speculative troupes. -/

namespace Sys2Proof.Machine

/-! ## Entries and their history (R367 to R369, R372) -/

/-- The allocation offset of history slot j (R368). -/
def histSlot (k : Tracked) (j : Nat) : Nat := k.hist + 64 + 64 * k.blocks * j

/-- The physical offset of an allocation byte of the entry's ensemble. -/
def entryBase (s : State) (k : Tracked) : Nat := match s.ens k.ens with | some e => 65536 * e.base | none => 0

/-- The newest version is speculative: its poster has neither committed nor been squashed (R374, R378). -/
def newestSpec (s : State) (k : Tracked) : Bool :=
  match k.specBy with
  | none => false
  | some p => match s.troupe p with | some t => t.speculative | none => false

/-- The version that a slot holds: 64 × BLOCKS bytes. -/
def versionBytes (s : State) (u : Nat) (k : Tracked) (j : Nat) : List Byte :=
  readList s.scratch (scrKey u (entryBase s k + histSlot k j)) (64 * k.blocks)

/-- The prediction of one element (R369). -/
def predictElement (f : FFmt) (a b : Nat) : Nat :=
  let two : FVal := match ffDecode f b with | .fin n m e => .fin n m (e + 1) | v => v
  (fvAdd f two (fvNeg (ffDecode f a))).1

/-- The predictions of R369 in element order; none when no version is posted. -/
def predict (s : State) (u : Nat) (k : Tracked) : Option (List Byte) :=
  match k.v1 with
  | none => none
  | some j1 => match k.v0 with
    | none => some (versionBytes s u k j1)
    | some j0 =>
      if k.hold then some (versionBytes s u k j1)
      else
        let z := rowBytes k.fmt 1
        let a := versionBytes s u k j0
        let b := versionBytes s u k j1
        some ((upTo (64 * k.blocks / z)).flatMap (fun i =>
          leBytes z (predictElement (srcFmt k.fmt) (fieldAt a (z * i) z) (fieldAt b (z * i) z))))

/-- A word of the history that a prediction reads is uncorrectable: with MODE 1 it reads v1 alone (R369). -/
def historyBad (s : State) (u : Nat) (k : Tracked) : Bool :=
  (if k.hold then [k.v1] else [k.v0, k.v1]).any (fun j => match j with
    | some j => scrBad s u (entryBase s k + histSlot k j) (64 * k.blocks)
    | none => false)

/-- Posts bytes as the next version (R372): v1 takes them in the slot that neither v0 nor v1 holds, v0 takes the old v1,
and the undo copy is the old v0 (R368). -/
def postVersion (s : State) (u t : Nat) (k : Tracked) (bs : List Byte) (poster : Option Nat) : State :=
  let j := ((upTo 3).find? (fun j => some j != k.v0 && some j != k.v1)).getD 0
  let s := putScratch s u (entryBase s k) [(histSlot k j, bs)]
  setEntry s u t { k with v1 := some j, v0 := k.v1, undo := k.v0, version := k.version + 1, specBy := poster }

/-! ## Pre-emption (R383) -/

/-- Every outstanding sketch of a unit is squashed (R383, R417). -/
def squashAll (s : State) (u : Nat) : State :=
  ((s.tile u).tracked.map (fun p => p.1)).foldl (fun s t => squashSketch cascade s u t) s

/-! ## Commit (R380) -/

/-- Releases the held effects of a troupe in order, before it goes on: they pass through its replay list, before what has parked
there later, and one whose page is absent parks (R242). Each takes its place of issue in its thread's queues (R376). -/
def releaseHeld (s : State) (tk : Nat) (l : List Held) : State :=
  s.modTroupe tk (fun t => { t with replay := l.map (fun h => ({ thread := h.thread, faults := 0, act := h.act, seq := some h.seq } : Replay)) ++ t.replay })

/-- A trap that was held is raised at its split (R377, R405). -/
def raiseHeld (s : State) (tk : Nat) (os : List Origin) : State :=
  match os with
  | [] => s
  | o :: rest =>
    let low := rest.foldl (fun b x => if x.thread < b.thread then x else b) o
    (s.modTroupe tk (fun t =>
      let sp := t.split.getD { slot := o.slot, pass := t.active, redo := 0, op := none, preds := t.threads.map (fun th => th.preds), scopesel := t.scopesel, answer := none }
      { writeTrapRegs sp.slot o.slot t.pc sp.pass sp.redo { cause := low.cause, detail := low.detail, value := low.value } t with
        origins := t.origins ++ os })).schedule s.now (.originArrival tk)

/-- A troupe commits (R380). -/
def commitTroupe (s : State) (tk : Nat) : State :=
  match s.troupe tk with
  | none => s
  | some t =>
    let s := s.modTroupe tk (fun t => { t with spec := Spec.none, wait := if t.wait = some .commit then none else t.wait })
    let s := releaseHeld s tk t.spec.held
    let s := s.modUnit (unitOf tk) (fun x => { x with tracked := x.tracked.map (fun p =>
      (p.1, if p.2.specBy = some tk then { p.2 with specBy := none } else p.2)) })
    raiseHeld s tk t.spec.trap

/-- The outstanding sketch of an entry commits: a consumer with no other sketch commits (R379, R380). -/
def commitSketch (s : State) (u t : Nat) : State :=
  match entryOf s u t with
  | none => s
  | some k => match k.sketch with
    | none => s
    | some (_, _, cs) =>
      let s := setEntry s u t { k with sketch := none, outcome := 0 }
      cs.foldl (fun s c =>
        let s := s.modTroupe c (fun x => { x with spec := { x.spec with sketches := x.spec.sketches.filter (fun p => p.1 != t) } })
        match s.troupe c with
        | some x => if x.spec.sketches.isEmpty then commitTroupe s c else s
        | none => s) s

/-! ## SPEC slots (R370 to R374, R382) -/

/-- A SPEC slot whose core has no proof engine answers 3 (R367). -/
def atSketch (s : State) (d : BitVec 6) (k : Focus → Troupe → State) : Res :=
  atUniform s (fun f t => if isGuide (unitOf f.troupe) then writeG s f d 3 else k f t)

/-- The entry T that a slot names, when the issuing ensemble holds it (R367). -/
def heldEntry (s : State) (f : Focus) (t : Troupe) (a : Dword) : Option (Nat × Tracked) :=
  let n := a.toNat % 16
  match entryOf s (unitOf f.troupe) n with
  | some k => if k.ens = t.ens then some (n, k) else none
  | none => none

/-- The slot completes n cycles after issue, holding its bundle until then (R370). -/
def specHold (s : State) (f : Focus) (n : Nat) (act : State → State) : State :=
  if f.issue + n ≤ s.now then act s else holdActing s f (.until (f.issue + n))

/-- A span of whole blocks lies in the allocation (R371 to R373). -/
def spanOk (size off len : Nat) : Bool := off % 64 == 0 && decide (off + len ≤ size)

/-- `sktrack` (R371). -/
def execSktrack (x : DabF) (s : State) : Res :=
  atSketch s x.d (fun f t =>
    if t.speculative then stallCommit s f
    else specHold s f 16 (fun s =>
      let a := uniformVal f x.a
      let b := uniformVal f x.b
      let u := unitOf f.troupe
      if !onlyBits a 0xFFFFFFFF0000000F || !onlyBits b 0x80000000000077FF then writeG s f x.d 2
      else if b.getLsbD 63 then
        if b.setWidth 63 != 0 then writeG s f x.d 2
        else match heldEntry s f t a with
          | none => writeG s f x.d 2
          | some (n, k) =>
            if k.sketch.isSome || newestSpec s k then writeG s f x.d 4
            else writeG (s.modUnit u (fun y => { y with tracked := kdel y.tracked n })) f x.d (BitVec.ofNat 64 (256 * n))
      else
        let hist := a.toNat / 2 ^ 32
        let blocks := b.toNat % 2048
        let fmt := b.toNat / 4096 % 4
        let size := (scratchOf s f.troupe t).2.2
        if blocks = 0 || 1024 < blocks || fmt = 3 || !spanOk size hist (64 + 192 * blocks) then writeG s f x.d 2
        else match (upTo 16).find? (fun i => (entryOf s u i).isNone) with
          | none => writeG s f x.d 1
          | some n =>
            let k : Tracked :=
              { ens := t.ens, hist := hist, blocks := blocks, fmt := fmt, hold := b.getLsbD 14, version := 0, v0 := none, v1 := none,
                undo := none, sketch := none, specBy := none, outcome := 2, record := [] }
            writeG (setEntry s u n k) f x.d (BitVec.ofNat 64 (256 * n))))

/-- No result is in flight to a troupe's queues: every position is filled, or holds its result in the snapshot buffer (R373, R381, R419). -/
def queuesSettled (s : State) (t : Troupe) : Bool :=
  t.threads.all (fun th => th.qs.all (fun q => q.2.all (fun e => (e.pos.value s.now).isSome || (match e.pos with | .tagged .. => true | _ => false))))

/-- The depth of a troupe: the largest among the sketches that it consumes (R374). -/
def troupeDepth (s : State) (tk : Nat) : Nat :=
  match s.troupe tk with
  | none => 0
  | some t => t.spec.sketches.foldl (fun d p => match (entryOf s (unitOf tk) p.1).bind (fun k => k.sketch) with
      | some (_, e, _) => max d e
      | none => d) 0

/-- The depth of a new sketch on an entry (R374). -/
def sketchDepth (s : State) (k : Tracked) : Nat :=
  match k.specBy with
  | some p => if newestSpec s k then 1 + troupeDepth s p else 1
  | none => 1

/-- The checkpoint of a troupe with the slot of the focus committed (R373). -/
def checkpointOf (s : State) (f : Focus) (n : Nat) (version : Word) (dst : Nat) : Option Checkpoint :=
  let s := if f.last then finishBundle s f else s.modTroupe f.troupe (splitAt f (f.k + f.width) f.pass 0 none)
  (s.troupe f.troupe).map (fun t =>
    { threads := t.threads.map Thread.settle, g := t.g, active := t.active, maskStack := t.maskStack, retStack := t.retStack,
      clause := t.clause, outs := t.outs.map (fun o => o.op), vregs := t.vregs, scopesel := t.scopesel, label := t.label,
      wopen := t.wopen, fpFlags := t.fpFlags, sat := t.sat, pc := t.pc, fell := t.fell, split := t.split,
      t := n, version := version, dst := dst, seq := s.ids })

/-- The effect of an `skread` that has passed its checks and waited (R373). -/
def takeSketch (s : State) (f : Focus) (t : Troupe) (d : BitVec 6) (n : Nat) (k : Tracked) (dst len : Nat) : State :=
  let u := unitOf f.troupe
  let version := k.version + 1
  let sk := k.sketch.getD (version, sketchDepth s k, [])
  let cs := if sk.2.2.contains f.troupe then sk.2.2 else sk.2.2 ++ [f.troupe]
  let bs := (predict s u k).getD []
  let s := setEntry s u n { k with sketch := some (sk.1, sk.2.1, cs) }
  let s := putScratch s u (scratchOf s f.troupe t).2.1 [(dst, bs)]
  let s := s.modTroupe f.troupe (fun t =>
    { t with spec := { t.spec with regions := t.spec.regions ++ [(dst, dst + len)],
                                   sketches := if t.spec.sketches.any (fun p => p.1 == n) then t.spec.sketches else t.spec.sketches ++ [(n, version)] } })
  let s := writeG s f d (BitVec.ofNat 64 (version.toNat * 2 ^ 32))
  if t.speculative then s
  else
    let c := checkpointOf s f n version dst
    s.modTroupe f.troupe (fun t => { t with spec := { t.spec with checkpoint := c } })

/-- `skread` (R373, R374). -/
def execSkread (x : DabF) (s : State) : Res :=
  atSketch s x.d (fun f t =>
    let a := uniformVal f x.a
    let dst := (uniformVal f x.b).toNat
    if !onlyBits a 0xFFFF000F then writeG s f x.d 2
    else match heldEntry s f t a with
      | none => writeG s f x.d 2
      | some (n, k) =>
        let len := 64 * max k.blocks (a.toNat / 65536 % 65536)
        if !spanOk (scratchOf s f.troupe t).2.2 dst len then writeG s f x.d 2
        else if k.v1.isNone then writeG s f x.d 5
        else if !queuesSettled s t then holdActing s f .drain
        else if k.sketch.isNone && 3 < sketchDepth s k then trapAll s f { cause := cSpecLimit, detail := 1, value := BitVec.ofNat 64 n }
        else if !t.spec.sketches.any (fun p => p.1 == n) && 4 ≤ t.spec.sketches.length then
          trapAll s f { cause := cSpecLimit, detail := 2, value := BitVec.ofNat 64 n }
        else if historyBad s (unitOf f.troupe) k then trapAll s f (openCause cDataUnc 0 f.issue)
        else specHold s f (16 + 4 * k.blocks) (fun s => takeSketch s f t x.d n k dst len))

/-- `skwait` (R382). -/
def execSkwait (x : DaF) (s : State) : Res :=
  atSketch s x.d (fun f t =>
    let a := uniformVal f x.a
    if !onlyBits a 0xF then writeG s f x.d 2
    else match heldEntry s f t a with
      | none => writeG s f x.d 2
      | some (n, k) =>
        if k.sketch.isSome || newestSpec s k then holdActing s f (.skwait n)
        else writeG s f x.d (BitVec.ofNat 64 (k.outcome + 2 ^ 32 * k.version.toNat)))

/-- `skabort` (R382): a troupe that is squashed by its own `skabort` stops at it. -/
def execSkabort (x : DaF) (s : State) : Res :=
  atSketch s x.d (fun f t =>
    let a := uniformVal f x.a
    if !onlyBits a 0xF then writeG s f x.d 2
    else match heldEntry s f t a with
      | none => writeG s f x.d 2
      | some (n, k) => if k.sketch.isNone then writeG s f x.d 2 else squashSketch cascade (writeG s f x.d 0) (unitOf f.troupe) n)

/-- The state of an entry as `skstat` reads it. -/
def entryWord (s : State) (k : Tracked) : Dword :=
  let n := (if k.v1.isSome then 1 else 0) + (if k.v0.isSome then 1 else 0)
  let sk : Nat × Nat := match k.sketch with | some (_, d, cs) => (d, cs.length) | none => (0, 0)
  BitVec.ofNat 64 (n + (if k.sketch.isSome then 4 else 0) + (if newestSpec s k then 8 else 0) + 16 * sk.1 + 256 * min sk.2 63 +
    2 ^ 14 * k.outcome + 2 ^ 16 * k.blocks + 2 ^ 32 * k.version.toNat)

/-- `skstat` (R382). -/
def execSkstat (x : DaF) (s : State) : Res :=
  atSketch s x.d (fun f t =>
    let a := uniformVal f x.a
    if !onlyBits a 0x1F then writeG s f x.d 2
    else if a.getLsbD 4 then
      writeG s f x.d (BitVec.ofNat 64 (troupeDepth s f.troupe + 4 * t.spec.sketches.length + (if t.spec.trap.isEmpty then 0 else 32) +
        64 * t.spec.held.length))
    else match heldEntry s f t a with
      | none => writeG s f x.d 2
      | some (_, k) => writeG s f x.d (entryWord s k))

/-- `skpost` (R372). -/
def execSkpost (x : DabF) (s : State) : Res :=
  atSketch s x.d (fun f t =>
    let a := uniformVal f x.a
    let src := (uniformVal f x.b).toNat
    let al := scratchOf s f.troupe t
    if !onlyBits a 0xF then writeG s f x.d 2
    else match heldEntry s f t a with
      | none => writeG s f x.d 2
      | some (n, k) =>
        if !spanOk al.2.2 src (64 * k.blocks) then writeG s f x.d 2
        else if k.sketch.isSome || newestSpec s k then writeG s f x.d 6
        else specHold s f (16 + 4 * k.blocks) (fun s =>
          match scratchBytes s al.1 al.2.1 src (64 * k.blocks) with
          | none => trapAll s f (openCause cDataUnc 0 f.issue)
          | some bs => writeG (postVersion s al.1 n k bs (if t.speculative then some f.troupe else none)) f x.d 0))

/-! ## The compare (R378, R379) -/

/-- The magnitude of a value's difference from another is at most a tolerance. -/
def within (f : FFmt) (r p : Nat) (tol : Word) : Bool :=
  match ffDecode f r, ffDecode f p with
  | .fin s m e, .fin t n g =>
    let d := exactAdd s m e (!t) n g
    !fvLt (match ffDecode f32 tol.toNat with | .fin _ m e => .fin false m e | v => v) (.fin false d.2.1 d.2.2)
  | _, _ => false

/-- The blocks that fail. -/
def failing (fmt blocks : Nat) (real pred : List Byte) (tol : Word) : List Nat :=
  let z := rowBytes fmt 1
  (upTo blocks).filter (fun b => (upTo (64 / z)).any (fun i =>
    let r := fieldAt real (64 * b + z * i) z
    let p := fieldAt pred (64 * b + z * i) z
    r != p && !within (srcFmt fmt) r p tol))

/-- What a compare did: state, failure, and bytes 8 to 15 of its done record. -/
structure Compared where
  m : Moved
  word : Nat
deriving DecidableEq, Repr

/-- A compare (R379). With no version posted there is no prediction, and no block fails. -/
def doCompare (s : State) (c : Cmd) : Compared :=
  let n := wordN c.words 4
  let a := cmdScratch s c
  let fail (s : State) (st at_ : Nat) : Compared := { m := { s := s, bytes := 0, fail := some (st, 0, at_), write := false }, word := 0 }
  match entryOf s a.1 n with
  | none => fail s 4 0
  | some k =>
    if k.ens ≠ c.ens then fail s 4 0
    else match scratchBytes s a.1 a.2.1 (wordN c.words 5) (64 * k.blocks) with
      | none => fail (squashSketch cascade s a.1 n) 3 (wordN c.words 5)
      | some real =>
        if historyBad s a.1 k then fail (squashSketch cascade s a.1 n) 3 (k.hist + 64)
        else
          let bad := match predict s a.1 k with | some p => failing k.fmt k.blocks real p (c.words.getD 7 0) | none => []
          let out := k.sketch.isSome
          let s := if !out then s else if bad.isEmpty then commitSketch s a.1 n else squashSketch cascade s a.1 n
          let s := match entryOf s a.1 n with | some k => postVersion s a.1 n k real none | none => s
          { m := { s := s, bytes := 64 * k.blocks, fail := none, write := false },
            word := bad.length + 65536 * (bad.headD 0xFFFF) + (if out then 2 ^ 32 else 0) + (if out && !bad.isEmpty then 2 ^ 33 else 0) }

/-- A compare on the same entry was accepted earlier and has not run, or the newest version is still speculative (R378). -/
def compareWaits (s : State) (core : Nat) (c : Cmd) : Bool :=
  let u := core / 4
  (upTo 4).any (fun i => ((s.core (4 * u + i)).engine 4).any (fun x => !x.performed && decide (x.id < c.id) && wordN x.words 4 == wordN c.words 4)) ||
  (match entryOf s u (wordN c.words 4) with | some k => newestSpec s k | none => false)

/-- COMPARE (R379). -/
def execCompare (core : Nat) (s : State) : Res :=
  match ((s.core core).engine 4).find? (fun c => !c.performed) with
  | none => .next s
  | some c =>
    if compareWaits s core c then .next (s.schedule (s.now + 16) (.compare core))
    else
      let r := doCompare s c
      let s := endPerform core 4 c r.m
      .next (if r.m.fail.isSome then s
        else s.modCore core (fun k => { k with engines := kset k.engines 4 ((k.engine 4).map (fun x =>
          if x.id = c.id then { x with fault := BitVec.ofNat 64 r.word } else x)) }))

/-! ## Restart (R381) -/

/-- The tag counters of a restored thread: the transfers that were outstanding at the checkpoint and still are. -/
def restoreTags (old cur : Thread) : Thread :=
  { old with tags := (upTo 4).map (fun n => (n, ({ n := (cur.tag n).n, err := (old.tag n).err.orElse (fun _ => (cur.tag n).err) } : TagCtr))) }

/-- A troupe with its checkpoint restored (R373, R381). An operation counted at the checkpoint that has completed since stays completed;
a push that its queues took since then is lost. -/
def restoreCheckpoint (c : Checkpoint) (t : Troupe) : Troupe :=
  { t with
    threads := (c.threads.zip t.threads).map (fun p => restoreTags p.1 p.2),
    g := c.g, active := c.active, maskStack := c.maskStack, retStack := c.retStack, clause := c.clause,
    outs := t.outs.filter (fun o => c.outs.contains o.op), vregs := c.vregs, scopesel := c.scopesel, label := c.label,
    wopen := c.wopen, fpFlags := c.fpFlags, sat := c.sat, pc := c.pc, fell := c.fell, split := c.split,
    spec := { t.spec with restored := true } }

/-- A squashed troupe can take its next step (R381): with no result of its own in flight, to restore its checkpoint; then, once the version
that it waits for has been posted and is not speculative, to restart. -/
def restartReady (s : State) (tk : Nat) : Bool :=
  match s.troupe tk with
  | none => false
  | some t => t.spec.squashed && (match t.spec.checkpoint with
    | none => queuesSettled s t
    | some c => if !t.spec.restored then queuesSettled s t else match entryOf s (unitOf tk) c.t with
      | none => true
      | some k => decide ((k.version - c.version).toNat < 2 ^ 31) && (k.version != c.version || !newestSpec s k))

/-- SQUASH_RESTART (R381): the troupe restores its checkpoint; or, when it has, copies v1 into the destination of its first `skread` and is
no longer speculative. -/
def execSquashRestart (troupe : Nat) (s : State) : Res :=
  if !restartReady s troupe then .next s
  else match s.troupe troupe with
    | none => .next s
    | some t => match t.spec.checkpoint with
      | none => .next (s.modTroupe troupe (fun t => { t with spec := Spec.none }))
      | some c =>
        if !t.spec.restored then .next (s.modTroupe troupe (restoreCheckpoint c))
        else
        let u := unitOf troupe
        let a := scratchOf s troupe t
        let s := match entryOf s u c.t with
          | some k => (match k.v1 with
            | some j => putScratch s u a.2.1 [(c.dst, versionBytes s u k j)]
            | none => s).modTroupe troupe (fun t => { t with readyAt := max t.readyAt (s.now + 16 + 4 * k.blocks) })
          | none => s
        .next (s.modTroupe troupe (fun t => { t with spec := Spec.none }))

end Sys2Proof.Machine
end

