-- ==== Sys2Proof/Machine/Guide.lean ====
section
/-! DEFINITION. The graphics slots of guide cores (20_guide R427 to R442): triangle setup and the raster step, box and triangle
tests, the texel filter, the feature grid and the pixel update. -/

namespace Sys2Proof.Machine

/-! ## Running a graphics slot (R427 to R429) -/

/-- Writes the words of a result in a thread; QUEUE_OVER leaves the thread as it was (R99, R429). A g register keeps the value of a
higher thread that has committed the slot before (R106). -/
def commitWords (s : State) (f : Focus) (i : Nat) (d : BitVec 6) (th : Thread) (ws : List Word) : Except Cause State :=
  match writeWords (f.issue + i) th d ws with
  | .error c => .error c
  | .ok x => .ok ((putThread s f i x.th).modTroupe f.troupe (fun t => match x.g with | some (g, w) => if f.above i then t else t.gwrite g w | none => t))

/-- The scratch accesses of a graphics slot stand at its place in program order (R279, R430): the threads' stores at their port
perform first, and the slot holds while earlier accesses of the kind have still to perform. -/
def gfxOrdered (s : State) (f : Focus) (t : Troupe) (o : OrderKind) (k : State → State) : State :=
  let s := performTroupe s f.troupe
  if orderPending s f.troupe t f.run o then holdFor s f (.order f.run o) else k s

/-- Runs a graphics slot in its threads in turn (R427, R441). -/
def gfxSlot (s : State) (f : Focus) (uniform : Bool) (body : State → Nat → Except Cause State) : State :=
  if f.run = 0 then s
  else
    let r := (slotThreads f uniform).foldl (fun (acc : State × List (Nat × Cause)) i => match body acc.1 i with
      | .ok s => (s, acc.2)
      | .error c => (acc.1, acc.2 ++ [(i, c)])) (s, [])
    settleSlot r.1 f (spreadFaults f uniform r.2)

/-- Reads A as a scratch offset and B (R225, R429). -/
def gfxSources (s : State) (f : Focus) (x : RegF) (i : Nat) : Except Cause (Dword × Word × Thread) :=
  match readSrc f (f.issue + i) i (liveThread s f i) x.a (x.ka == 1) with
  | .error c => .error c
  | .ok (a, th) => match readSrc f (f.issue + i) i th x.b (x.kb == 1) with
    | .error c => .error c
    | .ok (b, th) => .ok (a.addr (x.a == 61), b.lo, th)

/-- n bytes of the allocation at an offset aligned to 16: ALIGN, SCRATCH_BOUNDS, then DATA_UNCORRECTABLE (R429, R458). -/
def gfxBytes (s : State) (tk : Nat) (t : Troupe) (ea : Dword) (n : Nat) : Except Cause (List Byte) :=
  let a := scratchOf s tk t
  if ea.toNat % 16 ≠ 0 then .error { cause := cAlign, detail := 0, value := ea }
  else if a.2.2 < ea.toNat + n then .error { cause := cScratchBounds, detail := 0, value := ea }
  else match scratchBytes s a.1 a.2.1 ea.toNat n with
    | none => .error { cause := cDataUnc, detail := 0, value := ea }
    | some l => .ok l

/-- Stores n bytes of a record of the allocation: a scratch store of the thread (R430). The next store after a release fence follows
the stores of its unit home (R285). -/
def gfxStore (s : State) (tk i : Nat) (t : Troupe) (off n v : Nat) : State :=
  let a := scratchOf s tk t
  let s := if (t.thread i).release.isSome then release s tk else s
  scratchStore s (whoOf s tk t i) a.1 (a.2.1 + off) n v (BitVec.ofNat 64 off)

/-- A thread that has made its next store after a fence (R285). -/
def Thread.stored (th : Thread) : Thread := { th with release := none }

/-! ## f32 in steps -/

/-- Steps of f32 arithmetic on patterns, each rounded to nearest even; they set no FPFLAGS bit (log 30). -/
def gAdd (a b : Nat) : Nat := (ffAdd f32 a b).1
def gSub (a b : Nat) : Nat := (ffSub f32 a b).1
def gMul (a b : Nat) : Nat := (ffMul f32 a b).1
/-- a ≤ b and a < b as f32; false with a NaN. -/
def gLt (a b : Nat) : Bool := fvLt (ffDecode f32 a) (ffDecode f32 b)
def gLe (a b : Nat) : Bool := gLt a b || fvEq (ffDecode f32 a) (ffDecode f32 b)
/-- A pattern is finite. -/
def gFinite (a : Nat) : Bool := fvFinite (ffDecode f32 a)
/-- A finite pattern times 2^k, rounded to nearest even as an integer. -/
def gRound (k : Nat) (a : Nat) : Int := match ffDecode f32 a with | .fin n m e => (toIntMode .nearest n m (e + k)).1 | _ => 0
/-- The floor of a finite pattern. -/
def gFloor (a : Nat) : Int := match ffDecode f32 a with | .fin n m e => (toIntMode .floor n m e).1 | _ => 0
/-- An integer as f32. -/
def gInt (v : Int) : Nat := (ffRound f32 (decide (v < 0)) v.natAbs 0 false).1

/-! ## Triangle setup and the raster step (R431 to R433) -/

/-- Status of `tsetup`, with the setup to store when it is 0 (R432). The lines take effect in order (R9), so a triangle of no area, or one
that is culled, has status 1 whatever came before; one whose x and y are not all finite has no area to test (log 30). -/
def setupOf (b : Word) (l : List Byte) : Nat × Option (List (Int × Int) × Int × List Word) :=
  let at_ (v c : Nat) : Nat := fieldAt l (12 * v + 4 * c) 4
  let xy (v : Nat) : Int × Int := (gRound 8 (at_ v 0), gRound 8 (at_ v 1))
  let big (p : Int × Int) : Bool := decide (2 ^ 23 ≤ p.1.natAbs) || decide (2 ^ 23 ≤ p.2.natAbs)
  let bad : Bool := b.extractLsb' 2 30 != 0 || !(upTo 3).all (fun v => gFinite (at_ v 2)) || (upTo 3).any (fun v => big (xy v))
  if !(upTo 3).all (fun v => gFinite (at_ v 0) && gFinite (at_ v 1)) then (2, none)
  else
    let p0 := xy 0
    let p1 := xy 1
    let p2 := xy 2
    let a := (p1.1 - p0.1) * (p2.2 - p0.2) - (p1.2 - p0.2) * (p2.1 - p0.1)
    if a = 0 || (decide (0 < a) && b.getLsbD 0) || (decide (a < 0) && b.getLsbD 1) then (1, none)
    else if bad then (2, none)
    else
      let z0 := at_ 0 2
      let q : (Int × Int) × (Int × Int) × Nat × Nat := if a < 0 then (p2, p1, at_ 2 2, at_ 1 2) else (p1, p2, at_ 1 2, at_ 2 2)
      (0, some ([p0, q.1, q.2.1], (a.natAbs : Int),
                [BitVec.ofNat 32 z0, BitVec.ofNat 32 (gSub q.2.2.1 z0), BitVec.ofNat 32 (gSub q.2.2.2 z0)]))

/-- An entry of the triangle-setup cache never taken. -/
def Setup.init : Setup := { gen := 0, valid := false, xy := [], area := 0, z := [] }

/-- The generation of an entry: how often it was taken, and how often all were invalidated (R432; log 7). -/
def setupGen (u : TileUnit) (e : Nat) : Nat := ((kget Setup.init u.setups e).gen + u.setupAge) % 2 ^ 20

/-- The least recently used entry: one never used, or the first in order of use. -/
def setupVictim (u : TileUnit) : Nat := ((upTo 1024).find? (fun e => !u.setupUse.contains e)).getD (u.setupUse.headD 0)

/-- Marks an entry as the most recently used. -/
def touchSetup (u : TileUnit) (e : Nat) : TileUnit := { u with setupUse := u.setupUse.filter (fun x => x != e) ++ [e] }

/-- Takes an entry for a setup: its number, and the unit afterwards (R432). -/
def takeSetup (u : TileUnit) (p : List (Int × Int) × Int × List Word) : Nat × TileUnit :=
  let e := setupVictim u
  let k := kget Setup.init u.setups e
  (e, touchSetup { u with setups := kset u.setups e { gen := k.gen + 1, valid := true, xy := p.1, area := p.2.1, z := p.2.2 } } e)

/-- Every entry of a unit becomes invalid and its generation advances: a context start or a partition resume (R432). -/
def invalidateSetups (u : TileUnit) : TileUnit :=
  { u with setups := u.setups.map (fun p => (p.1, { p.2 with valid := false })), setupAge := u.setupAge + 1 }

/-- `tsetup` in one thread (R432). -/
def tsetupThread (f : Focus) (t : Troupe) (x : RegF) (s : State) (i : Nat) : Except Cause State :=
  match gfxSources s f x i with
  | .error c => .error c
  | .ok (a, b, th) => match gfxBytes s f.troupe t a 36 with
    | .error c => .error c
    | .ok l =>
      let u := unitOf f.troupe
      match setupOf b l with
      | (0, some p) =>
        let r := takeSetup (s.tile u) p
        commitWords (s.modUnit u (fun _ => r.2)) f i x.d th [BitVec.ofNat 32 (r.1 + 1024 * setupGen r.2 r.1)]
      | (st, _) => commitWords s f i x.d th [BitVec.ofNat 32 (st * 2 ^ 30)]

/-- `tsetup` (R432). -/
def execTsetup (x : RegF) (s : State) : Res :=
  atSlot s (fun f t => gfxOrdered s f t .loads (fun s => gfxSlot s f (uniformNames [x.d, x.a, x.b]) (tsetupThread f t x)))

/-- edge(a, b, P) of R433. -/
def edgeOf (a b p : Int × Int) : Int := (b.1 - a.1) * (p.2 - a.2) - (b.2 - a.2) * (p.1 - a.1)

/-- A point with edge value e is inside an edge from a to b (R433). -/
def insideEdge (a b : Int × Int) (e : Int) : Bool :=
  decide (0 < e) || (e == 0 && (decide (b.2 - a.2 < 0) || (b.2 == a.2 && decide (0 < b.1 - a.1))))

/-- An exact quotient of integers, rounded to f32. -/
def gQuot (n d : Int) : Nat := (fvDiv f32 (.fin (decide (n < 0)) n.natAbs 0) (.fin (decide (d < 0)) d.natAbs 0)).1

/-- Coverage and depth of a pixel under a setup (R433). -/
def rasterAt (k : Setup) (pix : Word) : Bool × Nat :=
  let p : Int × Int := (256 * ((pix.toNat % 65536 : Nat) : Int) + 128, 256 * ((pix.toNat / 65536 : Nat) : Int) + 128)
  let v (i : Nat) : Int × Int := k.xy.getD i (0, 0)
  let z (i : Nat) : Nat := (k.z.getD i 0).toNat
  let e0 := edgeOf (v 1) (v 2) p
  let e1 := edgeOf (v 2) (v 0) p
  let e2 := edgeOf (v 0) (v 1) p
  (insideEdge (v 1) (v 2) e0 && insideEdge (v 2) (v 0) e1 && insideEdge (v 0) (v 1) e2,
   gAdd (gAdd (z 0) (gMul (gQuot e1 k.area) (z 1))) (gMul (gQuot e2 k.area) (z 2)))

/-- `rstep` in one thread (R433). -/
def rstepThread (f : Focus) (x : RegF) (s : State) (i : Nat) : Except Cause State :=
  match gfxSources s f x i with
  | .error c => .error c
  | .ok (a, b, th) =>
    let h := a.toNat % 2 ^ 32
    let u := unitOf f.troupe
    let e := h % 1024
    let k := kget Setup.init (s.tile u).setups e
    if h / 2 ^ 30 ≠ 0 then commitWords s f i x.d th [4, 0]
    else if !k.valid || setupGen (s.tile u) e ≠ h / 1024 % 2 ^ 20 then commitWords s f i x.d th [2, 0]
    else
      let r := rasterAt k b
      commitWords (s.modUnit u (fun y => touchSetup y e)) f i x.d th [if r.1 then 1 else 0, BitVec.ofNat 32 r.2]

/-- `rstep` (R433). -/
def execRstep (x : RegF) (s : State) : Res := atSlot s (fun f _ => gfxSlot s f (uniformNames [x.d, x.a, x.b]) (rstepThread f x))

/-! ## Rays (R434 to R436) -/

/-- A ray record (R434): its offset, its 64 bytes, and the physical place of its buffer. -/
structure Ray where
  off : Nat
  raw : List Byte
deriving DecidableEq, Repr

/-- Fields of a ray record. -/
def Ray.o (r : Ray) (i : Nat) : Nat := fieldAt r.raw (4 * i) 4
def Ray.dir (r : Ray) (i : Nat) : Nat := fieldAt r.raw (12 + 4 * i) 4
def Ray.inv (r : Ray) (i : Nat) : Nat := fieldAt r.raw (24 + 4 * i) 4
def Ray.tmin (r : Ray) : Nat := fieldAt r.raw 36 4
def Ray.tmax (r : Ray) : Nat := fieldAt r.raw 40 4
def Ray.base (r : Ray) : Nat := fieldAt r.raw 48 4
def Ray.len (r : Ray) : Nat := fieldAt r.raw 52 4
def Ray.limit (r : Ray) : Nat := if fieldAt r.raw 56 2 = 0 then 4096 else fieldAt r.raw 56 2
def Ray.used (r : Ray) : Nat := fieldAt r.raw 58 2
def Ray.status (r : Ray) : Nat := fieldAt r.raw 60 1

/-- The ray record of a slot, with the checks of R429 and R434: its buffer lies wholly inside the allocation and begins at a
multiple of 16. The spec names no cause for a buffer that is not aligned, nor for a record whose zero bytes are not zero (R7):
the model takes ALIGN and FORMAT; a buffer outside the allocation fails at its first offset (log 30). -/
def readRay (s : State) (f : Focus) (t : Troupe) (ea : Dword) : Except Cause Ray :=
  match gfxBytes s f.troupe t ea 64 with
  | .error c => .error c
  | .ok l =>
    let r : Ray := { off := ea.toNat, raw := l }
    if r.base % 16 ≠ 0 then .error { cause := cAlign, detail := 0, value := BitVec.ofNat 64 r.base }
    else if (scratchOf s f.troupe t).2.2 < r.base + r.len then .error { cause := cScratchBounds, detail := 0, value := BitVec.ofNat 64 r.base }
    else if fieldAt l 61 3 ≠ 0 then .error { cause := cFormat, detail := 0, value := ea }
    else .ok r

/-- The word that a status alone gives. -/
def statusWord (st : Nat) : Word := BitVec.ofNat 32 (st % 4 * 2 ^ 28)

/-- Ends a ray with a status: the record takes it, and the slot answers it (R435, R436). -/
def endRay (s : State) (f : Focus) (t : Troupe) (i : Nat) (r : Ray) (d : BitVec 6) (th : Thread) (st : Nat) : Except Cause State :=
  commitWords (gfxStore s f.troupe i t (r.off + 60) 1 st) f i d th.stored [statusWord st]

/-- near and far of a box on a ray (R435). -/
def boxSpan (r : Ray) (node : List Byte) (slot : Nat) : Nat × Nat :=
  let lo (i : Nat) : Nat := fieldAt node (24 * slot + 4 * i) 4
  let hi (i : Nat) : Nat := fieldAt node (24 * slot + 12 + 4 * i) 4
  let t0 (i : Nat) : Nat := gMul (gSub (lo i) (r.o i)) (r.inv i)
  let t1 (i : Nat) : Nat := gMul (gSub (hi i) (r.o i)) (r.inv i)
  let mn (a b : Nat) : Nat := (ffMinMax f32 false a b).1
  let mx (a b : Nat) : Nat := (ffMinMax f32 true a b).1
  (mx (mx (mn (t0 0) (t1 0)) (mn (t0 1) (t1 1))) (mn (t0 2) (t1 2)),
   mn (mn (mx (t0 0) (t1 0)) (mx (t0 1) (t1 1))) (mx (t0 2) (t1 2)))

/-- The child pointer of a slot. -/
def childOf (node : List Byte) (slot : Nat) : Nat := fieldAt node (96 + 4 * slot) 4

/-- The slots hit, with near (R435). -/
def boxHits (r : Ray) (node : List Byte) : List (Nat × Nat) :=
  (upTo 4).filterMap (fun k =>
    let sp := boxSpan r node k
    if childOf node k ≠ 0xFFFFFFFF && gLe sp.1 sp.2 && gLe r.tmin sp.2 && gLe sp.1 r.tmax then some (k, sp.1) else none)

/-- Puts a slot into a list that rises by near; an equal one goes behind (R435). -/
def insertNear (x : Nat × Nat) : List (Nat × Nat) → List (Nat × Nat)
  | [] => [x]
  | y :: rest => if gLt x.2 y.2 then x :: y :: rest else y :: insertNear x rest

/-- The box word of a list of hits (R435). -/
def boxWord (l : List (Nat × Nat)) : Word :=
  let hit := l.foldl (fun n p => n + 2 ^ p.1) 0
  let order := ((l.foldl (fun a p => insertNear p a) []).zipIdx).foldl (fun n p => n + p.1.1 * 2 ^ (4 + 2 * p.2)) 0
  BitVec.ofNat 32 (hit + order + 4096 * l.length)

/-- A child ends beyond LEN (R435). -/
def badChild (r : Ray) (c : Nat) : Bool := decide (r.len < 16 * (c % 2 ^ 31) + (if 2 ^ 31 ≤ c then 48 else 128))

/-- `bxtest` on a ray that has been read (R435). A node whose bytes 112 to 127 are not zero (R434) is a bad node: R7 has the
consumer refuse it and no rule names the answer (log 30). -/
def boxTest (s : State) (f : Focus) (t : Troupe) (i : Nat) (r : Ray) (d : BitVec 6) (th : Thread) (p : Nat) : Except Cause State :=
  if r.status ≠ 0 then commitWords s f i d th [statusWord r.status]
  else if r.limit ≤ r.used then endRay s f t i r d th 2
  else
    let s1 := gfxStore s f.troupe i t (r.off + 58) 2 (r.used + 1)
    if 2 ^ 31 ≤ p || r.len < 16 * (p % 2 ^ 31) + 128 then endRay s1 f t i r d th 1
    else
      let a := scratchOf s f.troupe t
      let off := r.base + 16 * p
      match scratchBytes s a.1 a.2.1 off 128 with
      | none => .error { cause := cDataUnc, detail := 0, value := BitVec.ofNat 64 off }
      | some node =>
        let l := boxHits r node
        if fieldAt node 112 16 ≠ 0 || l.any (fun h => badChild r (childOf node h.1)) then endRay s1 f t i r d th 1
        else commitWords s1 f i d th.stored [boxWord l]

/-- `bxtest` (R435). -/
def execBxtest (x : RegF) (s : State) : Res :=
  atSlot s (fun f t => gfxOrdered s f t .all (fun s => gfxSlot s f (uniformNames [x.d, x.a, x.b]) (fun s i =>
    match gfxSources s f x i with
    | .error c => .error c
    | .ok (a, b, th) => match readRay s f t a with
      | .error c => .error c
      | .ok r => boxTest s f t i r x.d th b.toNat)))

/-- A vector of three f32 values. -/
abbrev V3 := Nat × Nat × Nat
def v3Sub (a b : V3) : V3 := (gSub a.1 b.1, gSub a.2.1 b.2.1, gSub a.2.2 b.2.2)
/-- cross and dot, each product and each sum rounded (R436). -/
def v3Cross (a b : V3) : V3 :=
  (gSub (gMul a.2.1 b.2.2) (gMul a.2.2 b.2.1), gSub (gMul a.2.2 b.1) (gMul a.1 b.2.2), gSub (gMul a.1 b.2.1) (gMul a.2.1 b.1))
def v3Dot (a b : V3) : Nat := gAdd (gAdd (gMul a.1 b.1) (gMul a.2.1 b.2.1)) (gMul a.2.2 b.2.2)

/-- The patterns of 0 and 1. -/
def gOne : Nat := 0x3F800000

/-- The distance at which a ray meets a triangle, when the test of R436 finds a hit. -/
def triHit (r : Ray) (leaf : List Byte) : Option Nat :=
  let v (k : Nat) : V3 := (fieldAt leaf (12 * k) 4, fieldAt leaf (12 * k + 4) 4, fieldAt leaf (12 * k + 8) 4)
  let dir : V3 := (r.dir 0, r.dir 1, r.dir 2)
  let e1 := v3Sub (v 1) (v 0)
  let e2 := v3Sub (v 2) (v 0)
  let h := v3Cross dir e2
  let a := v3Dot e1 h
  if fvIsNan (ffDecode f32 a) || fvEq (ffDecode f32 a) (.fin false 0 0) then none
  else
    let f := (fvDiv f32 (ffDecode f32 gOne) (ffDecode f32 a)).1
    let s := v3Sub (r.o 0, r.o 1, r.o 2) (v 0)
    let u := gMul f (v3Dot s h)
    if !(gLe 0 u && gLe u gOne) then none
    else
      let q := v3Cross s e1
      let w := gMul f (v3Dot dir q)
      if !(gLe 0 w && gLe (gAdd u w) gOne) then none
      else
        let d := gMul f (v3Dot e2 q)
        if gLe r.tmin d && gLt d r.tmax then some d else none

/-- `tritest` on a ray that has been read (R436). -/
def triTest (s : State) (f : Focus) (t : Troupe) (i : Nat) (r : Ray) (d : BitVec 6) (th : Thread) (p : Nat) : Except Cause State :=
  if r.status ≠ 0 then commitWords s f i d th [statusWord r.status]
  else if p < 2 ^ 31 || r.len < 16 * (p % 2 ^ 31) + 48 then endRay s f t i r d th 1
  else
    let a := scratchOf s f.troupe t
    let off := r.base + 16 * (p % 2 ^ 31)
    match scratchBytes s a.1 a.2.1 off 40 with
    | none => .error { cause := cDataUnc, detail := 0, value := BitVec.ofNat 64 off }
    | some leaf => match triHit r leaf with
      | none => commitWords s f i d th [0]
      | some dist =>
        let s := gfxStore s f.troupe i t (r.off + 40) 4 dist
        let s := gfxStore s f.troupe i t (r.off + 44) 4 (fieldAt leaf 36 4)
        commitWords s f i d th.stored [1]

/-- `tritest` (R436). -/
def execTritest (x : RegF) (s : State) : Res :=
  atSlot s (fun f t => gfxOrdered s f t .all (fun s => gfxSlot s f (uniformNames [x.d, x.a, x.b]) (fun s i =>
    match gfxSources s f x i with
    | .error c => .error c
    | .ok (a, b, th) => match readRay s f t a with
      | .error c => .error c
      | .ok r => triTest s f t i r x.d th b.toNat)))

/-! ## Texels and feature grids (R437 to R439) -/

/-- The exact sum of two values; opposite infinities give a NaN. -/
def fvPlus (a b : FVal) : FVal :=
  match a, b with
  | .nan _, _ => .nan false
  | _, .nan _ => .nan false
  | .inf s, .inf t => if s = t then .inf s else .nan false
  | .inf s, .fin .. => .inf s
  | .fin .., .inf t => .inf t
  | .fin s m e, .fin t n g => let r := exactAdd s m e t n g; .fin r.1 r.2.1 r.2.2

/-- A value times a weight. -/
def fvScale (w : Nat) : FVal → FVal
  | .fin s m e => .fin s (w * m) e
  | v => v

/-- Σ weight × value / (65,536 × d), exact, rounded once to f16; a value of weight 0 takes no part (R438; log 31). -/
def filterF16 (d : Nat) (l : List (Nat × FVal)) : Nat :=
  let v := (l.filter (fun p => p.1 != 0)).foldl (fun (a : Option FVal) p => match a with
    | none => some (fvScale p.1 p.2)
    | some x => some (fvPlus x (fvScale p.1 p.2))) none
  (fvDiv f16 (v.getD (.fin false 0 0)) (.fin false d 16)).1

/-- The four weights of R438. -/
def cornerWeights (wx wy : Nat) : List Nat := [(256 - wx) * (256 - wy), wx * (256 - wy), (256 - wx) * wy, wx * wy]

/-- A texture descriptor (R437). -/
structure Texture where
  base : Nat
  w : Nat
  h : Nat
  pitch : Nat
  fmt : Nat
  clamp : Bool
  bilinear : Bool
deriving DecidableEq, Repr

/-- Bytes of a texel. -/
def texelBytes (fmt : Nat) : Nat := if fmt = 1 then 8 else 4

/-- The descriptor keeps R437. -/
def textureOk (l : List Byte) : Bool :=
  let w := fieldAt l 4 2
  let h := fieldAt l 6 2
  decide (1 ≤ w) && decide (w ≤ 4096) && decide (1 ≤ h) && decide (h ≤ 4096) && decide (fieldAt l 12 1 ≤ 2) &&
  decide (w * texelBytes (fieldAt l 12 1) ≤ fieldAt l 8 4) && decide (fieldAt l 13 1 < 4) && (l.drop 14).all (fun b => b == 0)

/-- The texture of a thread: the descriptor at g9, its place, and its fields in turn (R429, R437). A descriptor that places
its texture outside the allocation meets SCRATCH_BOUNDS, at BASE (log 30), before FORMAT. -/
def readTexture (s : State) (f : Focus) (t : Troupe) : Except Cause Texture :=
  let ea := f.latch.gread 9
  match gfxBytes s f.troupe t ea 32 with
  | .error c => .error c
  | .ok l =>
    let x : Texture :=
      { base := fieldAt l 0 4, w := fieldAt l 4 2, h := fieldAt l 6 2, pitch := fieldAt l 8 4, fmt := fieldAt l 12 1,
        clamp := fieldAt l 13 1 % 2 == 1, bilinear := fieldAt l 13 1 / 2 % 2 == 1 }
    if x.fmt ≤ 2 && (scratchOf s f.troupe t).2.2 < x.base + (x.h - 1) * x.pitch + x.w * texelBytes x.fmt then
      .error { cause := cScratchBounds, detail := 0, value := BitVec.ofNat 64 x.base }
    else if !textureOk l then .error { cause := cFormat, detail := 0, value := ea }
    else .ok x

/-- The first texel and the weight along an axis of n texels; none where the slot gives zeros (R438). -/
def axisOf (bilinear : Bool) (u : Word) (n : Nat) : Option (Int × Nat) :=
  let p := gMul u.toNat (gInt n)
  if !gFinite u.toNat || !gLt (p % 2 ^ 31) (gInt (2 ^ 24)) then none
  else if bilinear then
    let x := gSub p 0x3F000000
    let i := gFloor x
    some (i, (gRound 8 (gSub x (gInt i))).toNat)
  else some (gFloor p, 0)

/-- The index of a texel along an axis of n (R438). -/
def wrapIndex (clamp : Bool) (i : Int) (n : Nat) : Nat :=
  if clamp then (if i < 0 then 0 else min i.toNat (n - 1)) else (i % (n : Int)).toNat

/-- The channels of a texel as values, r, g, b, a; rgba8 in units of 1/255. -/
def texelChannels (x : Texture) (l : List Byte) : List FVal :=
  match x.fmt with
  | 0 => (upTo 4).map (fun c => .fin false (fieldAt l c 1) 0)
  | 1 => (upTo 4).map (fun c => ffDecode f16 (fieldAt l (2 * c) 2))
  | _ => [ffDecode f32 (fieldAt l 0 4), .fin false 0 0, .fin false 0 0, .fin false 1 0]

/-- The bytes of a list of scratch offsets, or DATA_UNCORRECTABLE at the first bad one. -/
def gatherBytes (s : State) (f : Focus) (t : Troupe) (n : Nat) : List Nat → Except Cause (List (List Byte))
  | [] => .ok []
  | o :: rest =>
    let a := scratchOf s f.troupe t
    match scratchBytes s a.1 a.2.1 o n with
    | none => .error { cause := cDataUnc, detail := 0, value := BitVec.ofNat 64 o }
    | some l => match gatherBytes s f t n rest with
      | .error c => .error c
      | .ok ls => .ok (l :: ls)

/-- The two words of `txf` (R438). -/
def sampleTexture (s : State) (f : Focus) (t : Troupe) (x : Texture) (u v : Word) : Except Cause (List Word) :=
  match axisOf x.bilinear u x.w, axisOf x.bilinear v x.h with
  | some (i, wx), some (j, wy) =>
    let z := texelBytes x.fmt
    let at_ (di dj : Int) : Nat := x.base + wrapIndex x.clamp (j + dj) x.h * x.pitch + wrapIndex x.clamp (i + di) x.w * z
    let ws := ((cornerWeights wx wy).zip [at_ 0 0, at_ 1 0, at_ 0 1, at_ 1 1]).filter (fun p => p.1 != 0)
    match gatherBytes s f t z (ws.map (fun p => p.2)) with
    | .error c => .error c
    | .ok ls =>
      let d := if x.fmt = 0 then 255 else 1
      let ch (c : Nat) : Nat := filterF16 d ((ws.zip ls).map (fun p => (p.1.1, (texelChannels x p.2).getD c (.fin false 0 0))))
      .ok [BitVec.ofNat 32 (ch 0 + 65536 * ch 1), BitVec.ofNat 32 (ch 2 + 65536 * ch 3)]
  | _, _ => .ok [0, 0]

/-- A result that arrives later, without signals. -/
def lateFx (th : Thread) (ws : List Word) : Fx := { th := th, g := none, fp := 0, sat := false, late := some (ws, 0) }

/-- A slot with two f32 sources and an exposed result (R427, R428). -/
def gfxExposed (x : RegF) (lat : Nat) (body : State → Focus → Troupe → Word → Word → Except Cause (List Word)) (s : State) : Res :=
  atSlot s (fun f t => gfxOrdered s f t .loads (fun s => exposedSlot s f t (x.kb == 1 && !isQ x.b) (uniformNames [x.d, x.a, x.b]) lat x.d (fun i th =>
    match readSrc f (f.issue + i) i th x.a (x.ka == 1) with
    | .error c => .error c
    | .ok (a, th) => match readSrc f (f.issue + i) i th x.b (x.kb == 1) with
      | .error c => .error c
      | .ok (b, th) => match body s f t a.lo b.lo with
        | .error c => .error c
        | .ok ws => .ok (lateFx th ws))))

/-- `txf` (R438). -/
def execTxf (x : RegF) (s : State) : Res :=
  gfxExposed x 20 (fun s f t u v => match readTexture s f t with
    | .error c => .error c
    | .ok d => sampleTexture s f t d u v) s

/-- A grid descriptor: TABLE, RES, LOG2T (R439), and whether its other bytes are zero. One whose RES or LOG2T is refused places no table. -/
def readGrid (s : State) (f : Focus) (t : Troupe) : Except Cause (Nat × Nat × Nat × Bool) :=
  let ea := f.latch.gread 10
  match gfxBytes s f.troupe t ea 32 with
  | .error c => .error c
  | .ok l =>
    let res := fieldAt l 4 2
    let lg := fieldAt l 6 1
    if 1 ≤ res && res ≤ 4095 && 4 ≤ lg && lg ≤ 16 then .ok (fieldAt l 0 4, res, lg, (l.drop 7).all (fun b => b == 0))
    else .error { cause := cFormat, detail := 0, value := ea }

/-- The cell and the weight along an axis of a grid (R439). -/
def gridAxis (x : Word) (res : Nat) : Nat × Nat :=
  let g := gMul x.toNat (gInt res)
  let g := if !gLt 0 g then 0 else if gLt (gInt res) g then gInt res else g
  let i := gFloor g
  if i.toNat = res then (res - 1, 256) else (i.toNat, (gRound 8 (gSub g (gInt i))).toNat)

/-- The entry of a corner (R439). -/
def gridEntry (res lg ix iy : Nat) : Nat :=
  if (res + 1) * (res + 1) ≤ 2 ^ lg then ix + (res + 1) * iy else (ix ^^^ (iy * 0x9E3779B1 % 2 ^ 32)) % 2 ^ lg

/-- The word of `fgrid` (R439): the entries that it reads lie in the allocation, which is tested before a descriptor whose bytes 7 to 31 are
not zero is refused (R429). -/
def sampleGrid (s : State) (f : Focus) (t : Troupe) (g : Nat × Nat × Nat × Bool) (x y : Word) : Except Cause (List Word) :=
  let bad : Cause := { cause := cFormat, detail := 0, value := f.latch.gread 10 }
  if !gFinite x.toNat || !gFinite y.toNat then (if g.2.2.2 then .ok [0] else .error bad)
  else
    let ax := gridAxis x g.2.1
    let ay := gridAxis y g.2.1
    let at_ (dx dy : Nat) : Nat := g.1 + 4 * gridEntry g.2.1 g.2.2.1 (ax.1 + dx) (ay.1 + dy)
    let offs := [at_ 0 0, at_ 1 0, at_ 0 1, at_ 1 1]
    match offs.find? (fun o => decide ((scratchOf s f.troupe t).2.2 < o + 4)) with
    | some o => .error { cause := cScratchBounds, detail := 0, value := BitVec.ofNat 64 o }
    | none => if !g.2.2.2 then .error bad else match gatherBytes s f t 4 offs with
      | .error c => .error c
      | .ok ls =>
        let ch (c : Nat) : Nat := filterF16 1 (((cornerWeights ax.2 ay.2).zip ls).map (fun p => (p.1, ffDecode f16 (fieldAt p.2 (2 * c) 2))))
        .ok [BitVec.ofNat 32 (ch 0 + 65536 * ch 1)]

/-- `fgrid` (R439). -/
def execFgrid (x : RegF) (s : State) : Res :=
  gfxExposed x 24 (fun s f t a b => match readGrid s f t with
    | .error c => .error c
    | .ok g => sampleGrid s f t g a b) s

/-! ## The pixel update (R440, R441) -/

/-- The four head words of a queue, popped or peeked (R441). -/
def readFour (cyc : Nat) (th : Thread) (q : Nat) (keep : Bool) : Except Cause (List Word × Thread) :=
  let step (r : Except Cause (List Word × Thread)) : Except Cause (List Word × Thread) := match r with
    | .error c => .error c
    | .ok (ws, x) => match x.head cyc q with
      | .error c => .error c
      | .ok w => .ok (ws ++ [w], x.drop q)
  match step (step (step (step (.ok ([], th))))) with
  | .error c => .error c
  | .ok (ws, x) => .ok (ws, if keep then th else x)

/-- The new pixel replaces the old one (R441). -/
def pixelWins (old new : List Word) : Bool :=
  let o := (old.getD 1 0).toNat
  let n := (new.getD 1 0).toNat
  !fvIsNan (ffDecode f32 n) &&
  (fvIsNan (ffDecode f32 o) || gLt n o || (fvEq (ffDecode f32 n) (ffDecode f32 o) && decide ((new.getD 0 0).toNat < (old.getD 0 0).toNat)))

/-- `gwrite` in one thread (R441): it performs after the thread's earlier stores. -/
def gwriteThread (f : Focus) (t : Troupe) (x : RegF) (s : State) (i : Nat) : Except Cause State :=
  match readFour (f.issue + i) (liveThread s f i) x.a.toNat (x.ka == 1) with
  | .error c => .error c
  | .ok (ws, th) => match readSrc f (f.issue + i) i th x.b (x.kb == 1) with
    | .error c => .error c
    | .ok (b, th) =>
      let ea := f.latch.gread (x.d.toNat - 32) + 16 * b.lo.setWidth 64
      match gfxBytes s f.troupe t ea 16 with
      | .error c => .error c
      | .ok old =>
        if pixelWins (wordsOf old 4) ws then
          .ok (gfxStore (putThread s f i th.stored) f.troupe i t ea.toNat 16 (ws.foldr (fun w n => w.toNat + 2 ^ 32 * n) 0))
        else .ok (putThread s f i th)

/-- `gwrite` (R441). -/
def execGwrite (x : RegF) (s : State) : Res := atSlot s (fun f t => gfxOrdered s f t .all (fun s => gfxSlot s f false (gwriteThread f t x)))

end Sys2Proof.Machine
end

