-- ==== Sys2Proof/Machine/System.lean ====
section
/-! DEFINITION. The control registers (19_traps R402, R403, R408, R426 and the chapters that each register names), the SYS class
(R425, R426), resolution and handler troupes (R409 to R416), and halting (R419 to R421). -/

namespace Sys2Proof.Machine

/-! ## Control registers -/

/-- The position of a unit: DIE, ROW, COL (R16). -/
def unitPlace (u : Nat) : Nat := if isGuide u then 2 * 256 + (u - 288) else u / 144 * 256 + u % 144 / 12 * 16 + u % 12

/-- `stat` of a troupe (R402). -/
def statValue (t : Troupe) : Dword :=
  BitVec.ofNat 64 ((if privileged t.ctx then 2 ^ 31 else 0) + (if t.handler then 2 ^ 30 else 0) + t.slotResume.toNat * 2 ^ 16 +
    t.fpEnable.toNat * 2 ^ 11 + t.fpFlags.toNat * 2 ^ 6 + t.sat.toNat * 2 ^ 5)

/-- Writes the fields FPENABLE, FPFLAGS and SAT of `stat` (R402). -/
def writeStat (v : Dword) (t : Troupe) : Troupe :=
  { t with fpEnable := v.extractLsb' 11 5, fpFlags := v.extractLsb' 6 5, sat := v.extractLsb' 5 1 }

/-- The pins that a context holds, at both levels (R269). -/
def pinsHeld (s : State) (ctx : Nat) : Nat :=
  s.units.foldl (fun n p => n + (p.2.l1.pins.filter (fun x => x.ctx == ctx)).length) 0 +
  s.slices.foldl (fun n p => n + (p.2.pins.filter (fun x => x.ctx == ctx)).length) 0

/-- REMAIN of `pinq` (R269). -/
def pinRemain (s : State) (ctx : Nat) : Nat := (s.ctx ctx).pinQuota.toNat - pinsHeld s ctx

/-- A register of the scope-table window that holds a word: entries 5 to 31, words 0 to 18 (R283). -/
def scopeReg (n : Nat) : Option (Nat × Nat) :=
  let e := (n - 0x400) / 32
  let w := n % 32
  if 0x400 ≤ n && 5 ≤ e && e < 32 && w ≤ 18 then some (e, w) else none

/-- The registers that have an RP field (R6, R235, R246, R251, R254, R269, R283, R325, R326, R408). -/
def privReg (n : Nat) : Bool :=
  n == 0x40 || (decide (0x50 ≤ n) && decide (n ≤ 0x53)) || (decide (0x55 ≤ n) && decide (n ≤ 0x57)) || n == 0x60 || (scopeReg n).isSome

/-- The value of a control register for a troupe; RP fields read 0 in a context that is not privileged (R426). Registers of the
troupe read as they stood at issue; R91's three and R223's count among them. R218 gives BASE the granule of offset 0: with COUNT 0 there is
none, and BASE reads 0 (DESIGN CHOICE, log 62). -/
def ctlRead (s : State) (f : Focus) (t : Troupe) (n : Nat) : Dword :=
  let c := s.ctx t.ctx
  let k := s.core (coreOf f.troupe)
  let l := f.latch
  let rp (v : Dword) : Dword := if privileged t.ctx then v else 0
  let hi (a b : Nat) : Dword := BitVec.ofNat 64 (a * 2 ^ 32 + b)
  let linear := match s.ens t.ens with | some e => e.linear | none => 0
  match n with
  | 0x00 => statValue l
  | 0x01 => l.causeReg.setWidth 64
  | 0x02 => BitVec.ofNat 64 (l.epc % 2 ^ 56)
  | 0x03 => l.eslot.setWidth 64
  | 0x04 => l.eaddr
  | 0x05 => BitVec.ofNat 64 (l.redoPass.toNat * 65536 + l.redo.toNat)
  | 0x10 => k.fmtAt f.issue
  | 0x11 => l.scopesel.setWidth 64
  | 0x20 => BitVec.ofNat 64 f.issue
  | 0x21 => hi s.frame.number.toNat (s.tick % 2 ^ 32)
  | 0x30 => BitVec.ofNat 64 (s.mgmt.deviceNo.toNat * 65536 + unitPlace (unitOf f.troupe))
  | 0x31 => hi t.comp linear
  | 0x32 => BitVec.ofNat 64 t.comp
  | 0x33 => BitVec.ofNat 64 (match s.comp t.comp with | some c => c.depth | none => 0)
  | 0x34 => (match s.ens t.ens with | some e => BitVec.ofNat 64 (e.count * 65536 + (if e.count = 0 then 0 else e.base)) | none => 0)
  | 0x35 => (conflictsNow f.issue k).setWidth 64
  | 0x40 => rp (BitVec.ofNat 64 (c.pinQuota.toNat * 2 ^ 32)) ||| BitVec.ofNat 64 (pinRemain s t.ctx)
  | 0x41 => k.bypass.setWidth 64
  | 0x50 => rp c.ctxcfg
  | 0x51 => rp c.ptroot
  | 0x52 => rp c.pfring
  | 0x53 => rp (c.pfhead.setWidth 64)
  | 0x54 => c.pftail.setWidth 64
  | 0x55 => rp c.swparea
  | 0x56 => rp c.osspill
  | 0x57 => rp (BitVec.ofNat 64 (c.osquota.toNat * 2 ^ 32)) ||| BitVec.ofNat 64 (tableUsed s t.ctx)
  | 0x60 => rp c.trapvec
  | n => match scopeReg n with
    | some (e, w) => rp (kget 0 c.scopes (32 * e + w))
    | none => 0

/-- A write of `pfring`: ignored while the ring holds records; otherwise the held records are written (R246). -/
def writePfring (s : State) (ctx : Nat) (v : Dword) : State :=
  let c := s.ctx ctx
  if c.pftail ≠ c.pfhead then s
  else
    let s := s.modCtx ctx (fun c => { c with pfring := v &&& 0xFFFFFFFFFFF00F })
    flushRecords ctx (s.ctx ctx).pfheld.length s

/-- A write of `pfhead`, clamped to PTAIL; held records take the room (R246). -/
def writePfhead (s : State) (ctx : Nat) (v : Word) : State :=
  let s := s.modCtx ctx (fun c =>
    let d := v - c.pftail
    { c with pfhead := if d ≠ 0 && d.toNat < 2 ^ 31 then c.pftail else v })
  flushRecords ctx (s.ctx ctx).pfheld.length s

/-- A write of a word of the scope table (R283). -/
def writeScope (s : State) (ctx e w : Nat) (v : Dword) : State :=
  if 5 ≤ e && e < 32 && w ≤ 18 then
    s.modCtx ctx (fun c => { c with scopes := kset c.scopes (32 * e + w) (if w = 18 then v &&& 0x1FFFFFFFFFFFF else v) })
  else s

/-- A write of `osspill`: ignored while the area holds a record (R326). -/
def writeOsspill (s : State) (ctx : Nat) (v : Dword) : State :=
  if s.sections.any (fun e => e.ctx == ctx && e.spilled.isSome) then s
  else s.modCtx ctx (fun c => { c with osspill := v &&& 0xFFFFFFFFFFF00F })

/-- Writes a control register of a troupe (R426); read-only registers and fields ignore it (R6). `fmt` takes effect later
(R140); MCA acts on later stores (R297). -/
def ctlWrite (s : State) (f : Focus) (t : Troupe) (n : Nat) (v : Dword) : State :=
  match n with
  | 0x00 => s.modTroupe f.troupe (writeStat v)
  | 0x10 => s.modCore (coreOf f.troupe) (fun k => k.fmtWrite f.issue (v &&& fmtMask))
  | 0x11 => s.modTroupe f.troupe (fun t => { t with scopesel := v.setWidth 5 })
  | 0x40 => s.modCtx t.ctx (fun c => { c with pinQuota := v.extractLsb' 32 32 })
  | 0x50 => s.modCtx t.ctx (fun c => { c with ctxcfg := v &&& 0xFFFFFFFF01 })
  | 0x51 => s.modCtx t.ctx (fun c => { c with ptroot := v &&& 0xFFFFFFFFFFF001 })
  | 0x52 => writePfring s t.ctx v
  | 0x53 => writePfhead s t.ctx (v.setWidth 32)
  | 0x55 => s.modCtx t.ctx (fun c => { c with swparea := v &&& 0xFFFFFFFFFFFFFF })
  | 0x56 => writeOsspill s t.ctx v
  | 0x57 => s.modCtx t.ctx (fun c => { c with osquota := v.extractLsb' 32 32 })
  | 0x60 => s.modCtx t.ctx (fun c => { c with trapvec := v &&& 0xFFFFFFFFFFFFFF })
  | n => match scopeReg n with
    | some (e, w) => writeScope s t.ctx e w v
    | none => s

/-- PFRING_WRITE (R246). -/
def execPfringWrite (ctx : Nat) (v : BitVec 64) (s : State) : Res := .next (writePfring s ctx v)
/-- PFHEAD_WRITE (R246). -/
def execPfheadWrite (ctx : Nat) (v : BitVec 64) (s : State) : Res := .next (writePfhead s ctx (v.setWidth 32))
/-- SCOPE_TABLE_WRITE (R283). -/
def execScopeTableWrite (ctx entry word : Nat) (v : BitVec 64) (s : State) : Res := .next (writeScope s ctx entry word v)

/-- The control register number of a slot (R425). -/
def ctlNo (hi lo : BitVec 6) : Nat := 64 * hi.toNat + lo.toNat

/-- Keeps the value that the register of a bundle's `xrd` has when the bundle issues (R426). -/
def latchControl (s : State) : State :=
  match s.focus with
  | none => s
  | some f => match scanBundle (wordAt s f.troupe f.latch f.base) 8 0 with
    | none => s
    | some (l, _) => match l.find? (fun p => classOf p.2 == 29 && fnOf p.2 == 4) with
      | some (_, w) => { s with focus := some { f with ctl := some (ctlRead s f f.latch (bitsAt w 8 12)) } }
      | none => s

/-- `xrd` (R426): the register as it stood at issue. -/
def execXrd (x : XrdF) (s : State) : Res :=
  atSlot s (fun f t =>
    if f.run = 0 then s
    else
      let v := f.ctl.getD (ctlRead s f t (ctlNo x.hi x.lo))
      perThread s f t (fun i th => writeDst (f.issue + i) th x.d v))

/-- A uniform slot that stalls a speculative troupe: SYS other than `nop`, `xrd` and `brk`, and MEMC (R375). -/
def atStalled (s : State) (k : Focus → Troupe → State) : Res :=
  atUniform s (fun f t => if t.speculative then stallCommit s f else k f t)

/-- `xwr` (R139, R426). -/
def execXwr (x : XwrF) (s : State) : Res :=
  atStalled s (fun f t =>
    let n := ctlNo x.hi x.lo
    let v := uniformVal f x.d
    if privReg n && !privileged t.ctx then trapAll s f (openCause cPriv 0 f.issue)
    else if n = 0x10 && !fmtLegal fmtMask v then trapAll s f (openCause cFormat 0 f.issue)
    else ctlWrite s f t n v)

/-! ## Traps of the SYS class (R426) -/

/-- `trap` (R426): nothing of it commits. -/
def execTrap (x : TrapF) (s : State) : Res :=
  atStalled s (fun f t =>
      let cause (i : Nat) : Cause := match readSrc f (f.issue + i) i (t.thread i) x.a (x.ka == 1) with
        | .error c => c
        | .ok (a, _) => { cause := cSoftware, detail := x.code.toNat, value := a.val }
      takeTrap s f ((threadsOf f.run).map (fun i => (i, cause i))))

/-! ## Resolution (R413, R414) -/

/-- An origin with an identifier is still unresolved, wherever its troupe is. -/
def originOpen (s : State) (id : Nat) : Bool :=
  let has (t : Troupe) : Bool := t.origins.any (fun o => o.id == id && o.res.isNone)
  s.troupes.any (fun p => has p.2) || s.saved.any (fun p => p.2.troupes.any (fun q => has q.2))

/-- A handler troupe has an origin to settle (R413). -/
def handlerOpen (s : State) (t : Troupe) : Bool := t.tickets.any (fun k => originOpen s k.id)

/-- A handler troupe whose origins are all settled ends (R413). -/
def closeHandler (s : State) (tk : Nat) : State :=
  match s.troupe tk with
  | none => s
  | some t => if t.handler && !handlerOpen s t then endHandler s tk .retry else s

/-- Settles the origin that a tag names, when the handler troupe holds it unresolved (R414). -/
def resolveTag (s : State) (t : Troupe) (how : Nat) (tag v : Word) : State :=
  match t.tickets.find? (fun k => k.tag == tag && originOpen s k.id) with
  | none => s
  | some k => match how with
    | 0 => supplyOrigin s k.id v
    | 1 => settleOrigin s k.id .retry
    | _ => settleOrigin s k.id .kill

/-- `resolve` (R414, R426). -/
def execResolve (x : ResolveF) (s : State) : Res :=
  atStalled s (fun f t =>
    if !t.handler then trapAll s f (openCause cPriv 1 f.issue)
    else
      let r := (threadsOf f.run).foldl (fun (acc : State × List (Nat × Cause)) i =>
        match readSrc f (f.issue + i) i (liveThread acc.1 f i) x.a (x.ka == 1) with
        | .error c => (acc.1, acc.2 ++ [(i, c)])
        | .ok (a, th) => match readSrc f (f.issue + i) i th x.b (x.kb == 1) with
          | .error c => (acc.1, acc.2 ++ [(i, c)])
          | .ok (b, th) => (resolveTag (putThread acc.1 f i th) t x.how.toNat a.lo b.lo, acc.2)) (s, [])
      closeHandler (settleSlot r.1 f r.2) f.troupe)

/-- `eret` (R426). -/
def execEret (_ : StopF) (s : State) : Res :=
  atStalled s (fun f t => if t.handler then endHandler s f.troupe .retry else trapAll s f (openCause cPriv 1 f.issue))

/-! ## Handler collectors (R408 to R411) -/

/-- The tag of an origin (R411). -/
def originTag (s : State) (tk : Nat) (t : Troupe) (o : Origin) : Word :=
  let a := t.pc - t.text
  BitVec.ofNat 32 (a / 4096 % 16 * 2 ^ 28 + a % 4096 * 2 ^ 16 + s.genOf tk % 16 * 2 ^ 12 + o.thread * 256 + slotOf tk % 32 * 8)

/-- The origins of a troupe that have not reached the collector, by rising thread. -/
def newOrigins (t : Troupe) : List Origin :=
  (upTo 16).flatMap (fun i => t.origins.filter (fun o => o.thread == i && !o.arrived && o.res.isNone))

/-- ORIGIN_ARRIVAL (R409): the new origins of a troupe reach the collector of its core; with no handler each is killed. -/
def execOriginArrival (troupe : Nat) (s : State) : Res :=
  match s.troupe troupe with
  | none => .next s
  | some t =>
    let os := newOrigins t
    if ((s.ctx t.ctx).trapvec.extractLsb' 12 44) = 0 then .next (os.foldl (fun s o => settleOrigin s o.id .kill) s)
    else
      let ks : List Ticket := os.map (fun o =>
        { id := o.id, ctx := t.ctx, tag := originTag s troupe t o, cause := o.cause, detail := o.detail, value := o.value,
          slot := if o.async then 0 else o.slot, arrived := s.now })
      let s := s.modTroupe troupe (fun t => { t with origins := t.origins.map (fun o => { o with arrived := true }) })
      .next (s.modCore (coreOf troupe) (fun c => { c with collector := c.collector ++ ks }))

/-- The handler slot of a core that gathers: the one that holds origins and has not launched, or else the lower-numbered
free one (R410). -/
def gatherSlot (s : State) (core : Nat) : Option Nat :=
  let busy (k : Nat) : Bool := (s.troupe (64 * core + k)).isSome
  let has (k : Nat) : Bool := !(kget [] (s.core core).hslots k).isEmpty
  match [32, 33].find? (fun k => has k && !busy k) with
  | some k => some k
  | none => [32, 33].find? (fun k => !busy k)

/-- The origins that the gathering slot would hold, and those left in the collector (R410). -/
def gathered (s : State) (core k : Nat) : List Ticket × List Ticket :=
  let g := kget [] (s.core core).hslots k
  let n := 16 - g.length
  (g ++ (s.core core).collector.take n, (s.core core).collector.drop n)

/-- A handler slot of a core gathers an origin, or launches: it holds 16, or its oldest arrived 3,600 cycles ago (R410). -/
def handlerDue (s : State) (core : Nat) : Bool :=
  match gatherSlot s core with
  | none => false
  | some k =>
    let g := gathered s core k
    decide ((kget [] (s.core core).hslots k).length < g.1.length) ||
    (match g.1 with | o :: _ => decide (g.1.length = 16) || decide (o.arrived + 3600 ≤ s.now) | [] => false)

/-- The thread of a handler troupe for an origin (R411). -/
def handlerThread (k : Ticket) : Thread :=
  let e (v : Word) : Entry := { pos := .filled v false, fresh := false }
  { Thread.init with qs :=
    [(0, [e k.tag]), (1, [e (BitVec.ofNat 32 (k.detail * 256 + k.cause))]),
     (2, [e (k.value.setWidth 32), e (k.value.extractLsb' 32 32)]), (3, [e (BitVec.ofNat 32 k.slot)])] }

/-- A handler troupe for a list of origins (R410, R411). It belongs to no ensemble (R413), and the spec gives `eix` no value there:
the model reads 0, as for the ensemble and company fields (log 18). -/
def handlerTroupe (s : State) (ctx : Nat) (ks : List Ticket) : Troupe :=
  let v := (s.ctx ctx).trapvec
  let text := (v.extractLsb' 12 44).toNat * 4096
  { Troupe.init with
    ctx := ctx, text := text, segs := (v.extractLsb' 8 4).toNat + 1, pc := text + 16 * (v.extractLsb' 0 8).toNat, handler := true,
    active := maskOf (upTo ks.length), threads := (upTo 16).map (fun i => match ks[i]? with | some k => handlerThread k | none => Thread.init),
    tickets := ks, readyAt := s.now + 1 }

/-- The next generation of a troupe slot (R104). -/
def bumpGen (s : State) (tk : Nat) : State :=
  s.modCore (coreOf tk) (fun c => { c with gens := kset c.gens (slotOf tk) ((kget 0 c.gens (slotOf tk) + 1) % 16) })

/-- HANDLER_LAUNCH (R410): the gathering slot takes origins from the collector, and launches when it is time. -/
def execHandlerLaunch (core : Nat) (s : State) : Res :=
  match gatherSlot s core with
  | none => .next s
  | some k =>
    let g := gathered s core k
    match g.1 with
    | [] => .next s
    | o :: _ =>
      let s := s.modCore core (fun c => { c with hslots := kset c.hslots k g.1, collector := g.2 })
      if g.1.length = 16 || o.arrived + 3600 ≤ s.now then
        let tk := 64 * core + k
        .next ((bumpGen s tk).setTroupe tk (handlerTroupe s o.ctx g.1))
      else .next s

/-- ASYNCHRONOUS_TRAP (R358, R407): a troupe about to issue, or back at the bundle in which it stands, raises the oldest asynchronous trap
that it has pending. -/
def execAsynchronousTrap (troupe : Nat) (s : State) : Res :=
  match s.troupe troupe with
  | none => .next s
  | some t =>
    if t.asyncDue then .next (raiseAsync (markIssue s troupe) troupe t) else .next s

/-! ## Halting (R419 to R424, R426) -/

/-- The bundle of the focus commits, and its troupe halts before the next one (R426). -/
def haltAfter (s : State) (f : Focus) : State :=
  (finishBundle s f).modTroupe f.troupe (fun t => drainTroupe s.now { t with halt := .halted, slotResume := 8 })

/-- `halt` (R426). -/
def execHalt (_ : StopF) (s : State) : Res :=
  atStalled s (fun f t => if privileged t.ctx then haltAfter s f else trapAll s f (openCause cPriv 1 f.issue))

/-- A debugger is attached to a context (R422). -/
def debugged (s : State) (ctx : Nat) : Bool := s.dbg.en && s.dbg.ctx == ctx

/-- `brk` (R426). -/
def execBrk (_ : StopF) (s : State) : Res :=
  atUniform s (fun f t => if debugged s t.ctx then haltAfter s f else trapAll s f (openCause cBreak 0 f.issue))

/-! ## The debug block (R422 to R424) -/

/-- Ends a debug command with an ERR value. -/
def debugEnd (s : State) (err : Nat) : State := { s with dbg := { s.dbg with err := BitVec.ofNat 2 err, busy := false } }

/-- Ends a debug command that has a result. -/
def debugData (s : State) (v : Dword) : State := debugEnd { s with dbg := { s.dbg with data := v } } 0

/-- Runs a debug command on the selected troupe (R422, R423): ERR 3 for KIND 3, 2 without a troupe of CTX or with EN = 0, 1
when it is not halted. -/
def atDebug (s : State) (needHalt : Bool) (k : Nat → Troupe → State) : Res :=
  match debugKey s with
  | none => .next (debugEnd s 3)
  | some tk => match s.troupe tk with
    | none => .next (debugEnd s 2)
    | some t =>
      if !s.dbg.en || t.ctx ≠ s.dbg.ctx then .next (debugEnd s 2)
      else if needHalt && t.halt != .halted then .next (debugEnd s 1)
      else .next (k tk t)

/-- POS, INDEX and THREAD of DBGSEL (R422). -/
def dbgPos (s : State) : Nat := (s.dbg.sel.extractLsb' 25 2).toNat
def dbgIndex (s : State) : Nat := (s.dbg.sel.extractLsb' 20 5).toNat
def dbgThread (s : State) : Nat := (s.dbg.sel.extractLsb' 16 4).toNat

/-- The registers of R402 at a halt: SLOT_RESUME is 8 between bundles. Within a bundle they say where the troupe stands, unless
a park or a trap has said it already. A halt has no cause code, and leaves `cause` and `eaddr` as they were (log 14), but for a troupe that
is parked: they take PAGE_ABSENT, with the level and the address of its first entry (R404). -/
def haltRegs (h : Option Hold) (t : Troupe) : Troupe :=
  if !t.origins.isEmpty then t
  else match t.replay with
  | r :: _ =>
    if t.parkedAt.isSome then { t with causeReg := BitVec.ofNat 16 (r.level * 256 + cPageAbsent), eaddr := actEa r.act } else t
  | [] => match h, t.split with
    | some h, _ => { t with slotResume := BitVec.ofNat 4 h.focus.k, eslot := BitVec.ofNat 4 h.focus.k, epc := h.focus.base,
                            redoPass := h.focus.pass, redo := h.focus.run }
    | none, some sp => { t with slotResume := BitVec.ofNat 4 sp.slot, eslot := BitVec.ofNat 4 sp.slot, epc := t.pc,
                                redoPass := sp.pass, redo := sp.redo }
    | none, none => { t with slotResume := 8 }

/-- DEBUG_HALT (R421, R423): between two bundles, or at the split or the hold where the troupe stands. -/
def execDebugHalt (s : State) : Res :=
  atDebug s false (fun tk _ =>
    debugEnd (s.modTroupe tk (fun t => if t.halt == .halted then t
      else drainTroupe s.now (haltRegs (kfind s.holds tk) { t with halt := .halted }))) 0)

/-- The operand latches of a bundle taken afresh from a troupe: its predicates and its `scopesel` stay those of the bundle's issue (R156,
R290). -/
def refreshLatch (t old : Troupe) : Troupe :=
  { t with threads := t.threads.zipWith (fun th o => { th with preds := o.preds }) old.threads, scopesel := old.scopesel }

/-- Resumes a halted troupe in a mode: the operand latches of a slot that it holds are taken afresh (R424), and a PROMISE_LATE that is
pending comes first (R358). -/
def resumeTroupe (s : State) (tk : Nat) (m : Halt) : State :=
  let s := s.modTroupe tk (fun t => { t with halt := m })
  match s.troupe tk with
  | none => s
  | some t =>
    resumeLate { s with holds := kupd s.holds tk (fun h => { h with focus := { h.focus with latch := refreshLatch t h.focus.latch } }) } tk

/-- RESUME (R424). -/
def execResume (s : State) : Res := atDebug s true (fun tk _ => debugEnd (resumeTroupe s tk .running) 0)
/-- STEP (R423). -/
def execStep (s : State) : Res := atDebug s true (fun tk _ => debugEnd (resumeTroupe s tk .stepping) 0)

/-- The word that QREAD shows of an arrival: that of an error mark is open (log 14). -/
def fillWord (now : Nat) : FillVal → Nat
  | .word v => v.toNat
  | .error c _ => ((Config.faultValue (c % 256) (c / 256) now).setWidth 32 : Word).toNat

/-- What QREAD returns for a position. -/
def posWord (now : Nat) : Pos → Dword
  | .reserved _ => 0
  | .timed _ due v => if due ≤ now then BitVec.ofNat 64 (fillWord now v + 2 ^ 32) else 0
  | .coming _ due v => if due ≤ now then BitVec.ofNat 64 (fillWord now v + 2 ^ 32) else 0
  | .filled v _ => BitVec.ofNat 64 (v.toNat + 2 ^ 32)
  | .mark c ea => BitVec.ofNat 64 (fillWord now (.error c ea) + 2 ^ 32)
  | .tagged _ l v => BitVec.ofNat 64 (fillWord now v + 2 ^ 33 + min l 255 * 2 ^ 40)

/-- QREAD (R423). An empty position reads 0. -/
def execQread (s : State) : Res :=
  atDebug s true (fun _ t => debugData s (match ((t.thread (dbgThread s)).queue (dbgIndex s))[dbgPos s]? with
    | some e => posWord s.now e.pos
    | none => 0))

/-- QWRITE (R423): a filled position, one that holds an error mark among them, takes the value with fresh parity (R424). -/
def execQwrite (s : State) : Res :=
  atDebug s true (fun tk t =>
    let th := t.thread (dbgThread s)
    let l := th.queue (dbgIndex s)
    match l[dbgPos s]? with
    | some x =>
      if (x.pos.value s.now).isNone then debugEnd s 3
      else
        let e : Entry := { pos := .filled (s.dbg.data.setWidth 32) false, fresh := x.fresh, edited := true }
        debugEnd (s.modTroupe tk (fun t => t.setThread (dbgThread s) (th.setQueue (dbgIndex s) (lset l (dbgPos s) e)))) 0
    | none => debugEnd s 3)

/-- GREAD (R423). -/
def execGread (s : State) : Res :=
  atDebug s true (fun _ t => if dbgIndex s < 16 then debugData s (t.gread (dbgIndex s)) else debugEnd s 3)

/-- DEBUG_GWRITE (R423). -/
def execDebugGwrite (s : State) : Res :=
  atDebug s true (fun tk _ =>
    if dbgIndex s < 16 then debugEnd (s.modTroupe tk (fun t => t.gwrite (dbgIndex s) s.dbg.data)) 0 else debugEnd s 3)

/-- SREAD (R423). -/
def execSread (s : State) : Res :=
  atDebug s true (fun _ t => match dbgIndex s with
    | 0 => debugData s (BitVec.ofNat 64 t.pc)
    | 1 => debugData s ((t.thread (dbgThread s)).preds.setWidth 64)
    | 2 => debugData s (t.active.setWidth 64)
    | 3 => debugData s (statValue t)
    | _ => debugEnd s 3)

/-- The issue at which a troupe stopped ran no slot and does not count in its clause: it raised ILLEGAL_BUNDLE, or ILLEGAL_SLOT in the
header (R37). -/
def issueUncounted (s : State) (tk : Nat) (t : Troupe) : Bool :=
  let header : Bool := match wordAt s tk t t.pc 0 with | some w => classOf w == 0 | none => false
  (match t.split with | some sp => sp.slot == 0 | none => false) &&
  t.origins.any (fun o => !o.async && (o.cause == cIllegalBundle || (o.cause == cIllegalSlot && header)))

/-- A troupe gives up the bundle in which it stands: threads that have not resolved at its slot count as killed there for the
slot's operation (R39), the bundle, if it has run, counts in its clause (R37), and its positions are no longer fresh (R406). -/
def giveUpBundle (uncounted : Bool) (h : Option Hold) (t : Troupe) : Troupe :=
  match h, t.split with
  | none, none => t
  | some h, _ =>
    { (if h.focus.acted then t else t.closeOpt h.focus.op) with threads := t.threads.map Thread.settle, clause := t.clause.step }
  | none, some sp =>
    { t.closeOpt sp.op with threads := t.threads.map Thread.settle, clause := if uncounted then t.clause else t.clause.step }

/-- A write of the resume PC: SLOT_RESUME and REDO become 0, and the troupe resumes at the start of that bundle (R423). A slot that held
gives up the positions that it had reserved (R100), and no longer waits for a section (R338). -/
def writePc (s : State) (tk : Nat) (v : Dword) : State :=
  let s := match kfind s.holds tk with | some h => releasePlaces s h.focus | none => s
  let s : State := { s.modTroupe tk (fun t =>
      { giveUpBundle (issueUncounted s tk t) (kfind s.holds tk) t with
        pc := (v.extractLsb' 0 56).toNat, fell := false, split := none, wait := none, slotResume := 0, redo := 0 }) with
    holds := kdel s.holds tk }
  if s.sections.isEmpty then s else regap s

/-- SWRITE (R423). -/
def execSwrite (s : State) : Res :=
  atDebug s true (fun tk _ =>
    let v := s.dbg.data
    match dbgIndex s with
    | 0 => debugEnd (writePc s tk v) 0
    | 1 => debugEnd (s.modTroupe tk (fun t => t.setThread (dbgThread s) { t.thread (dbgThread s) with preds := v.setWidth 7 })) 0
    | 2 => debugEnd (s.modTroupe tk (fun t => { t with active := v.setWidth 16 })) 0
    | 3 => debugEnd (s.modTroupe tk (writeStat v)) 0
    | _ => debugEnd s 3)

end Sys2Proof.Machine
end

