-- ==== Sys2Proof/Machine/Cache.lean ====
section
/-! DEFINITION. `tlbinv` (11_translation R260) and the MEMC class (12_caches R264 to R275). -/

namespace Sys2Proof.Machine

/-! ## Waiting for earlier accesses -/

/-- The transfers in flight that a test selects perform now (R275, R260). -/
def performCopies (s : State) (sel : CopyOp → Bool) : State :=
  let isSel (p : Nat × Instr) : Option CopyOp := match p.2 with | .copyPerform c => if sel c then some c else none | _ => none
  let cs := s.agenda.filterMap isSel
  cs.foldl performCopy { s with agenda := s.agenda.filter (fun p => (isSel p).isNone) }

/-- The accesses that a troupe issued earlier perform, but for those that wait in its queues (R275). -/
def performMine (s : State) (tk : Nat) : State := performCopies (release s tk) (fun c => c.troupe == tk)

/-- A slot acts once every access that its troupe issued earlier has performed (R275). -/
def afterAll (s : State) (f : Focus) (t : Troupe) (k : State → State) : State :=
  let s := performMine s f.troupe
  if orderPending s f.troupe t 0xFFFF .all then holdFor s f (.order 0xFFFF .all) else k s

/-! ## `tlbinv` (R260) -/

/-- A unit lies in a SCOPE measured from another. -/
def inScope (from_ scope u : Nat) : Bool :=
  if scope = 0 then u == from_ else if scope = 1 then dieOf u == dieOf from_ else true

/-- Drops the TLB entries of the units in SCOPE that a test selects. -/
def dropTlbs (s : State) (from_ scope : Nat) (sel : Tlb → Bool) : State :=
  let keep (l : List Tlb) : List Tlb := l.filter (fun e => !sel e)
  { s with units := s.units.map (fun p => if inScope from_ scope p.1 then (p.1, { p.2 with tlb := keep p.2.tlb }) else p),
           cores := s.cores.map (fun p => if inScope from_ scope (p.1 / 4) then (p.1, { p.2 with tlb := keep p.2.tlb }) else p) }

/-- The bytes of a WSIZE. -/
def wakeSpan (w : Nat) : Nat := if w = 0 then 4096 else if w = 1 then 65536 else if w = 2 then 2097152 else 536870912

/-- A parked troupe of a context whose first replay entry lies in a region is woken (R260). -/
def wakeTroupe (ctx span a : Nat) (t : Troupe) : Troupe :=
  match t.replay with
  | r :: _ => if t.ctx = ctx && t.parkedAt.isSome && (actEa r.act).toNat / span = a / span then { t with woken := true } else t
  | [] => t

/-- Wakes parked troupes in SCOPE, resident or swapped out. -/
def wakeAll (s : State) (from_ scope ctx span a : Nat) : State :=
  { s with troupes := s.troupes.map (fun p => if inScope from_ scope (unitOf p.1) then (p.1, wakeTroupe ctx span a p.2) else p),
           saved := s.saved.map (fun p => if inScope from_ scope p.2.ens.unit then
             (p.1, { p.2 with troupes := p.2.troupes.map (fun q => (q.1, wakeTroupe ctx span a q.2)) }) else p) }

/-- The reductions and transfers of the units in SCOPE perform: their addresses were translated before the drop. -/
def performScope (s : State) (from_ scope : Nat) : State :=
  let s := s.units.foldl (fun s p => if inScope from_ scope p.1 then flushPartials faddW bfaddW s p.1 (fun _ => true) else s) s
  performCopies s (fun c => inScope from_ scope (unitOf c.troupe))

/-- The engine commands of the units in SCOPE whose DONE address a `tlbinv` with CTX, KIND and address covers: they keep its translation from
their acceptance (R350), so they have still to perform with it (R260). -/
def commandsUnder (s : State) (from_ scope kind ctx a : Nat) : List Nat :=
  let es := (s.units.flatMap (fun p => if inScope from_ scope p.1 then p.2.tlb else []) ++
    s.cores.flatMap (fun p => if inScope from_ scope (p.1 / 4) then p.2.tlb else [])).filter (fun e => e.covers ctx a)
  let under (c : Cmd) : Bool :=
    let va := wordPair c.words 1
    if kind = 0 then c.ctx == ctx && (va / 4096 == a / 4096 || es.any (fun e => e.covers ctx va)) else kind == 2 || (kind == 1 && c.ctx == ctx)
  s.cores.flatMap (fun p => if inScope from_ scope (p.1 / 4) then
    p.2.engines.flatMap (fun q => (q.2.filter under).map (fun c => c.id)) else [])

/-- The effect of a legal `tlbinv` after its fence (R260). The stores in flight have performed with the fence. -/
def tlbinvEffect (s : State) (tk : Nat) (a b : Dword) : State :=
  let u := unitOf tk
  let ctx := (b.extractLsb' 0 12).toNat
  let scope := (b.extractLsb' 14 2).toNat
  let s := if b.extractLsb' 12 2 = 3 then s else performScope s u scope
  match (b.extractLsb' 12 2).toNat with
  | 0 => dropTlbs s u scope (fun e => e.covers ctx a.toNat)
  | 1 => dropTlbs s u scope (fun e => e.ctx == ctx)
  | 2 => dropTlbs s u scope (fun _ => true)
  | _ => wakeAll s u scope ctx (wakeSpan (b.extractLsb' 16 2).toNat) a.toNat

/-- `tlbinv` (R260). -/
def execTlbinv (x : DabF) (s : State) : Res :=
  atStalled s (fun f t =>
    if f.acted then writeG s f x.d 0
    else if !privileged t.ctx then trapAll s f (openCause cPriv 1 f.issue)
    else
      let a := uniformVal f x.a
      let b := uniformVal f x.b
      let kind := (b.extractLsb' 12 2).toNat
      if b.extractLsb' 18 46 != 0 || b.extractLsb' 14 2 == 3 || ((kind == 0 || kind == 3) && a.extractLsb' 56 8 != 0) then writeG s f x.d 2
      else
        let s := release s f.troupe
        if orderPending s f.troupe t 0xFFFF .stores then holdFor s f (.order 0xFFFF .stores)
        else
          let u := unitOf f.troupe
          let scope := (b.extractLsb' 14 2).toNat
          let cs := commandsUnder s u scope kind (b.extractLsb' 0 12).toNat a.toNat
          let s := tlbinvEffect s f.troupe a b
          holdActing s { f with acted := true } (.dropped u scope s.ids cs))

/-! ## Pages and lines of a range (R273, R274) -/

/-- How a MEMC slot that does not perform ends: with a STATUS (R274), or with a trap, as when a table entry that its walk reads
is uncorrectable (R458; log 52). -/
inductive MemcEnd where
  | status (n : Nat)
  | trap (c : Cause)
deriving DecidableEq, Repr

/-- A page of a range as it is translated: the leaf's entry, or the status ABSENT or DENIED (R274). -/
def memcPage (s : State) (core ctx va : Nat) (need : Need) : Except MemcEnd Tlb × State :=
  let r := translateEa s core ctx (BitVec.ofNat 64 va) need
  match r.1 with
  | .perm d => (.error (.status (if d = 1 || d = 6 then 3 else 4)), r.2)
  | .absent _ => (.error (.status 3), r.2)
  | .unc d => (.error (.trap { cause := cDataUnc, detail := d, value := BitVec.ofNat 64 va }), r.2)
  | .ok _ _ _ => match (r.2.core core).tlb.find? (fun e => e.covers ctx va) with
    | some e => (.ok e, r.2)
    | none => (.error (.status 3), r.2)

/-- The pages of 4 KiB that a range meets: the first address in each and the number of its bytes in the range. -/
def pagesOf : Nat → Nat → Nat → List (Nat × Nat)
  | 0, _, _ => []
  | fuel + 1, a, n => if n = 0 then [] else let k := min n (4096 - a % 4096); (a, k) :: pagesOf fuel (a + k) (n - k)

/-- A physical line with the key slot and PMODE of its page. -/
structure PLine where
  line : Nat
  key : Nat
  pmode : Bool
deriving DecidableEq, Repr

/-- The lines of n bytes of a page. -/
def pageLines (e : Tlb) (va n : Nat) : List PLine :=
  let pa := e.pa + va % e.span
  (upTo ((pa + n - 1) / 128 - pa / 128 + 1)).map (fun i => { line := pa / 128 + i, key := e.key, pmode := e.pmode })

/-- Each line once: two pages of a range may map to one line. -/
def distinctLines (l : List PLine) : List PLine :=
  l.foldl (fun acc p => if acc.any (fun q => q.line == p.line) then acc else acc ++ [p]) []

/-- The lines of a range, or what the first page that fails gives; `skip` leaves failing pages out. -/
def rangeLines (core ctx : Nat) (skip : Bool) : List (Nat × Nat) → State → Except MemcEnd (List PLine) × State
  | [], s => (.ok [], s)
  | p :: rest, s =>
    let r := memcPage s core ctx p.1 .read
    match r.1 with
    | .error st => if skip then rangeLines core ctx skip rest r.2 else (.error st, r.2)
    | .ok e =>
      let q := rangeLines core ctx skip rest r.2
      match q.1 with
      | .error st => (.error st, q.2)
      | .ok l => (.ok (distinctLines (pageLines e p.1 p.2 ++ l)), q.2)

/-- LEN and LEVEL of a range (R273); none when a field is out of range. -/
def rangeField (b : Dword) : Option (Nat × Bool) :=
  let n := (b.extractLsb' 0 32).toNat
  if b.extractLsb' 33 31 != 0 || n = 0 || 2 ^ 24 < n then none else some (n, b.getLsbD 32)

/-- D of a MEMC slot: STATUS and data (R274). -/
def memcWord (status data : Nat) : Dword := BitVec.ofNat 64 (status + 256 * data)

/-- The end of a MEMC slot: D takes its answer, and the slot holds until then; or it traps. -/
def memcEnd (f : Focus) (d : BitVec 6) (r : Except MemcEnd Dword × State) : State :=
  match r.1 with
  | .error (.trap c) => trapAll r.2 f c
  | .error (.status n) => holdAnswer (writeG r.2 f d (memcWord n 0)) f []
  | .ok v => holdAnswer (writeG r.2 f d v) f []

/-- A MEMC slot that waits for the troupe's earlier accesses, acts, and holds until D is written (R275). -/
def memcSlot (s : State) (d : BitVec 6) (act : Focus → Troupe → State → Except MemcEnd Dword × State) : Res :=
  atStalled s (fun f t => if f.acted then s else afterAll s f t (fun s => memcEnd f d (act f t s)))

/-! ## Pins (R267 to R269) -/

/-- The way of a cache that a pin of a line takes: the way of another pin of it, the unpinned way that holds it, or the way
that it would take (R267); none when every eligible way of its set is pinned. -/
def pinWay (c : Cache) (setOf : Nat → Nat) (nWays line : Nat) : Option Nat :=
  match c.pins.find? (fun p => p.line == line) with
  | some p => some p.way
  | none => match c.ways.find? (fun x => x.line == line) with
    | some x => if (pinnedWays c setOf line).contains x.way then victimWay c setOf nWays line else some x.way
    | none => victimWay c setOf nWays line

/-- Adds a pin; a line that another line's data held leaves the way (R267). -/
def addPin (c : Cache) (setOf : Nat → Nat) (nWays ctx line : Nat) : Option Cache :=
  if c.pins.any (fun p => p.ctx == ctx && p.line == line) then some c
  else (pinWay c setOf nWays line).map (fun w =>
    { c with pins := c.pins ++ [{ ctx := ctx, line := line, way := w }],
             ways := c.ways.filter (fun x => !(setOf x.line == setOf line && x.way == w && x.line != line)) })

/-- Where the pins of a line's home slice are kept. The home of another device's line lies on that device (R262): this one keeps,
beside its own slices, the pins that it asked for there (log 54). -/
def homeSlice (s : State) (line : Nat) : Nat :=
  sliceOn (homeDie line) line + (if isLocal s line then 0 else 96 * (1 + Config.deviceOf line))

/-- Pins every line of a list at a level; none when some set is full. -/
def pinLines (ctx unit : Nat) (slice : Bool) : List PLine → State → Option State
  | [], s => some s
  | l :: rest, s =>
    if slice then
      match addPin (s.slice (homeSlice s l.line)) sliceSet (sliceWays l.line) ctx l.line with
      | none => none
      | some c =>
        let sl := kset s.slices (homeSlice s l.line) c
        pinLines ctx unit slice rest { s with slices := sl, replicas := liveReplicas sl s.replicas }
    else match addPin (s.tile unit).l1 l1Set 8 ctx l.line with
      | none => none
      | some c => pinLines ctx unit slice rest (s.modUnit unit (fun u => { u with l1 := c }))

/-- The pins of a context on a line at a level. -/
def hasPin (s : State) (ctx unit : Nat) (slice : Bool) (line : Nat) : Bool :=
  (if slice then s.slice (homeSlice s line) else (s.tile unit).l1).pins.any (fun p => p.ctx == ctx && p.line == line)

/-- Brings a line into the level of a slot: the slice, and the L1 as well when LEVEL is 0 (R273). -/
def fetchLine (s : State) (unit core : Nat) (slice : Bool) (l : PLine) : State :=
  if (memFault s (128 * l.line) 128).isSome then s
  else
    let s := homeRead (performLine (flushLine s unit l.line) unit l.line) unit core (128 * l.line) l.key l.pmode false
    if slice || (l1Find s unit l.line l.key).isSome then s else l1Fill s unit core l.line l.key

/-- `pin` (R273, R274). R274 orders no two statuses: PIN_QUOTA is tested before PIN_SET_FULL (DESIGN CHOICE, log 63). -/
def execPin (x : DabF) (s : State) : Res :=
  memcSlot s x.d (fun f t s => match rangeField (uniformVal f x.b) with
    | none => (.error (.status 5), s)
    | some (n, slice) =>
      let a := (uniformVal f x.a).toNat
      let u := unitOf f.troupe
      let r := rangeLines (coreOf f.troupe) t.ctx false (pagesOf (n / 4096 + 2) a n) s
      match r.1 with
      | .error e => (.error e, r.2)
      | .ok l =>
        let new := l.filter (fun p => !hasPin r.2 t.ctx u slice p.line)
        if pinRemain r.2 t.ctx < new.length then (.error (.status 1), r.2)
        else match pinLines t.ctx u slice new r.2 with
          | none => (.error (.status 2), r.2)
          | some s => (.ok (memcWord 0 0), new.foldl (fun s p => fetchLine s u (coreOf f.troupe) slice p) s))

/-- `unpin` (R273, R274). -/
def execUnpin (x : DabF) (s : State) : Res :=
  memcSlot s x.d (fun f t s => match rangeField (uniformVal f x.b) with
    | none => (.error (.status 5), s)
    | some (n, slice) =>
      let a := (uniformVal f x.a).toNat
      let u := unitOf f.troupe
      let r := rangeLines (coreOf f.troupe) t.ctx false (pagesOf (n / 4096 + 2) a n) s
      match r.1 with
      | .error e => (.error e, r.2)
      | .ok l =>
        let held := l.filter (fun p => hasPin r.2 t.ctx u slice p.line)
        let off (line : Nat) (c : Cache) : Cache := { c with pins := c.pins.filter (fun p => !(p.ctx == t.ctx && p.line == line)) }
        let s := held.foldl (fun s p => if slice then s.modSlice (homeSlice s p.line) (off p.line)
          else s.modUnit u (fun y => { y with l1 := off p.line y.l1 })) r.2
        (.ok (memcWord 0 held.length), s))

/-- `pfch` (R273 to R275): it does not wait, and leaves failing pages out. -/
def execPfch (x : DabF) (s : State) : Res :=
  atStalled s (fun f t => match rangeField (uniformVal f x.b) with
    | none => writeG s f x.d (memcWord 5 0)
    | some (n, slice) =>
      let a := (uniformVal f x.a).toNat
      let r := rangeLines (coreOf f.troupe) t.ctx true (pagesOf (n / 4096 + 2) a n) s
      let l := match r.1 with | .ok l => l | .error _ => []
      writeG (l.foldl (fun s p => fetchLine s (unitOf f.troupe) (coreOf f.troupe) slice p) r.2) f x.d (memcWord 0 0))

/-! ## Pages (R264 to R266, R273, R275) -/

/-- A line lies in the physical page of an entry. -/
def Tlb.holds (e : Tlb) (line : Nat) : Bool := decide (e.pa ≤ 128 * line) && decide (128 * line < e.pa + e.span)

/-- A MEMC slot on the page that holds gA. -/
def memcOnPage (x d : BitVec 6) (need : Need) (act : Focus → Tlb → State → Dword × State) (s : State) : Res :=
  memcSlot s d (fun f t s =>
    let r := memcPage s (coreOf f.troupe) t.ctx (uniformVal f x).toNat need
    match r.1 with
    | .error e => (.error e, r.2)
    | .ok e =>
      let a := act f e r.2
      (.ok a.1, a.2))

/-- `flush` (R273, R275). -/
def execFlush (x : DaF) (s : State) : Res :=
  memcOnPage x.a x.d .both (fun _ e s =>
    (memcWord 0 0, { s with slices := s.slices.map (fun p =>
      (p.1, { p.2 with ways := p.2.ways.map (fun y => if e.holds y.line then { y with dirty := false } else y) })) })) s

/-- `inval` (R273, R275): the next access of the unit to the page reads its home. -/
def execInval (x : DaF) (s : State) : Res :=
  memcOnPage x.a x.d .read (fun f e s =>
    (memcWord 0 0, s.modUnit (unitOf f.troupe) (fun u => { u with l1 := { u.l1 with ways := u.l1.ways.filter (fun y => !e.holds y.line) } }))) s

/-- The regions of a schedule record; none when it breaks R271. -/
def scheduleOf (bs : List Byte) : Option (List Region) :=
  let n := leAt bs 0 2
  if 256 < n || !zeroAt bs 2 14 then none
  else
    let ok (i : Nat) : Bool :=
      leAt bs (16 * (i + 1)) 8 % 128 == 0 && decide (1 ≤ leAt bs (16 * (i + 1) + 8) 4) && decide (leAt bs (16 * (i + 1) + 12) 1 < 16) &&
      zeroAt bs (16 * (i + 1) + 13) 3
    if (upTo n).all ok then
      some ((upTo n).map (fun i =>
        { base := leAt bs (16 * (i + 1)) 8, lines := leAt bs (16 * (i + 1) + 8) 4, cls := leAt bs (16 * (i + 1) + 12) 1 }))
    else none

/-- Loads or removes the schedule of a TARGET (R271, R273). The guide die has no slices: TARGET 1 there changes nothing and is DONE (DESIGN
CHOICE, log 63). -/
def setSchedule (s : State) (u target : Nat) (sch : Option (BitVec 16 × List Region)) : State :=
  if target = 0 then s.modUnit u (fun y => { y with l1 := { y.l1 with sched := sch } })
  else if isGuide u then s
  else (upTo 48).foldl (fun s i => s.modSlice (48 * dieOf u + i) (fun c => { c with sched := sch })) s

/-- `evload` (R271, R273). A gA that is misaligned or not below 2^56 is BAD also when WAYS is 0 and no record is read (DESIGN CHOICE,
log 63). A record that is refused has changed no line and no count (R274). -/
def execEvload (x : DabF) (s : State) : Res :=
  atStalled s (fun f t =>
    if f.acted then s
    else if !privileged t.ctx then trapAll s f (openCause cPriv 1 f.issue)
    else afterAll s f t (fun s =>
      let a := (uniformVal f x.a).toNat
      let b := uniformVal f x.b
      let target := (b.extractLsb' 0 2).toNat
      let ways := b.extractLsb' 8 16
      let answer (st : Nat) (s : State) : State := holdAnswer (writeG s f x.d (memcWord st 0)) f []
      if b.extractLsb' 2 6 != 0 || b.extractLsb' 24 40 != 0 || 2 ≤ target || (target = 0 && ways.extractLsb' 8 8 != 0)
          || a % 16 ≠ 0 || 2 ^ 56 ≤ a then answer 5 s
      else if ways = 0 then answer 0 (setSchedule s (unitOf f.troupe) target none)
      else
        let s := flushRange s (unitOf f.troupe) a 4112
        let n := physNat s 0 a 2
        match memFault s a (16 * (min n 256 + 1)) with
        | some d => trapAll s f { cause := cDataUnc, detail := d, value := uniformVal f x.a }
        | none =>
          match scheduleOf (physList s 0 a (16 * (min n 256 + 1))) with
          | none => answer 5 s
          | some rs =>
            let s := homeReads s (unitOf f.troupe) (coreOf f.troupe) a 0 (16 * (min n 256 + 1)) false
            answer 0 (setSchedule s (unitOf f.troupe) target (some (ways, rs)))))

/-- The remote-read count of the region of a physical address, on the die of its home (R266). -/
def remoteCount (s : State) (pa : Nat) : Nat :=
  let die := homeDie (pa / 128)
  (((kget [] s.remote (64 * die + pa / 65536 % 64)).find? (fun x => x.1 == pa / 65536)).map (fun x => x.2)).getD 0

/-- Drops the replicas of a page, with the ways that they take (R265). -/
def dropReplicas (s : State) (e : Tlb) : State :=
  { s with
    replicas := s.replicas.filter (fun k => !e.holds (k / 2)),
    slices := s.slices.map (fun p => (p.1, { p.2 with
      ways := p.2.ways.filter (fun y => !(e.holds y.line && decide (p.1 < 96) && s.replicas.contains (2 * y.line + p.1 / 48))) })) }

/-- `pgmode` (R265, R266, R273). -/
def execPgmode (x : DabF) (s : State) : Res :=
  memcSlot s x.d (fun f t s =>
    let a := (uniformVal f x.a).toNat
    let b := uniformVal f x.b
    if 3 ≤ b.toNat then (.error (.status 5), s)
    else
      let r := memcPage s (coreOf f.troupe) t.ctx a .read
      match r.1 with
      | .error e => (.error e, r.2)
      | .ok e =>
        let pa := e.pa + a % e.span
        if b = 0 then (.ok (memcWord 0 0), dropReplicas r.2 e)
        else
          let clear (l : List (Nat × Nat)) : List (Nat × Nat) := l.map (fun p => if p.1 = pa / 65536 then (p.1, 0) else p)
          let s := if b = 2 then { r.2 with remote := kupd r.2.remote (64 * homeDie (pa / 128) + pa / 65536 % 64) clear } else r.2
          (.ok (memcWord 0 (remoteCount r.2 pa)), s))

end Sys2Proof.Machine
end

