-- ==== Sys2Proof/Machine/Admit.lean ====
section
/-! DEFINITION. Room on a unit and the placement of troupes (04_work R85, 01_resources R24), admission and its ranking
(18_schedule R391, R400, R401), retirement of ensembles and companies (04_work R87, R89), and segment frames (18_schedule R393). -/

namespace Sys2Proof.Machine

/-! ## Room on a unit (R24, R85, R105, R217) -/

/-- What an ensemble asks of its unit: its troupes' claims in `eix` order, granules, barriers, semaphores, accumulators, bound
banks, tracked tiles, and whether it is engaged. -/
structure Room where
  claims : List Nat
  scratch : Nat
  barriers : Nat
  sems : Nat
  accs : Nat
  banks : Nat
  tracked : Nat
  engaged : Bool
deriving DecidableEq, Repr

/-- The troupe slot and generation to which an event in flight answers. -/
def replyTo : Instr → Option (Nat × Nat)
  | .resultArrival a => some (a.troupe, a.gen)
  | .copyPerform c => some (c.troupe, c.gen)
  | .windowPush p => some ((windowTarget p.addr).1, p.gen % 16)
  | _ => none

/-- The troupe slot and the generation to which a push goes. -/
def pushTo (p : PushReq) : Nat × Nat := ((windowTarget p.addr).1, p.gen % 16)

/-- A troupe slot is free for admission: no troupe holds it, and no result and no push in flight bears its next generation
(R105). -/
def slotFree (s : State) (tk : Nat) : Bool :=
  let next := (s.genOf tk + 1) % 16
  (s.troupe tk).isNone && !s.agenda.any (fun p => replyTo p.2 == some (tk, next)) &&
  !(s.core (coreOf tk)).pushes.any (fun p => pushTo p == (tk, next)) && !s.waitQ.any (fun x => x.who.troupe == tk && x.who.gen % 16 == next)

/-- A core as placement sees it: its number, its free slots by rising lane, its free vector registers. -/
structure CoreRoom where
  core : Nat
  slots : List Nat
  vregs : Nat
deriving DecidableEq, Repr

/-- The cores of a unit, by rising `cix`. -/
def coreRooms (s : State) (u : Nat) : List CoreRoom :=
  (upTo 4).map (fun i => { core := 4 * u + i, slots := (upTo 32).filter (fun k => slotFree s (64 * (4 * u + i) + k)),
                           vregs := freeVregs s (4 * u + i) })

/-- The core that a troupe goes to (R85): its free registers cover the claim; most free slots, lowest `cix`. -/
def bestCore (claim : Nat) (cs : List CoreRoom) : Option CoreRoom :=
  leastBy (fun c => 32 - c.slots.length) (cs.filter (fun c => decide (claim ≤ c.vregs) && !c.slots.isEmpty))

/-- Places troupes in `eix` order; none when one finds no core (R85). -/
def placeTroupes : List CoreRoom → List Nat → Option (List Nat)
  | _, [] => some []
  | cs, v :: rest => match bestCore v cs with
    | none => none
    | some c => match c.slots with
      | [] => none
      | k :: ks =>
        (placeTroupes (cs.map (fun x => if x.core = c.core then { c with slots := ks, vregs := c.vregs - v } else x)) rest).map
          (fun l => (64 * c.core + k) :: l)

/-- The lowest run of n free granules among `size`, given the runs in use (R217). -/
def freeRun (size : Nat) (used : List (Nat × Nat)) (n : Nat) : Option Nat :=
  (upTo (size + 1)).find? (fun i => decide (i + n ≤ size) && used.all (fun r => decide (i + n ≤ r.1) || decide (r.1 + r.2 ≤ i)))

/-- The troupe slots and the first granule that an ensemble would take on a unit; none when it does not fit (R24). -/
def unitRoom (s : State) (u : Nat) (r : Room) : Option (List Nat × Nat) :=
  let es := (enssOn s u).map (fun p => p.2)
  let sum (g : Ensemble → Nat) : Nat := es.foldl (fun n e => n + g e) 0
  if isGuide u && (r.accs ≠ 0 || r.banks ≠ 0 || r.tracked ≠ 0) then none
  else if sum (fun e => e.desc.barriers) + r.barriers ≤ 32 && sum (fun e => e.desc.sems) + r.sems ≤ 256 &&
      sum (fun e => e.naccs) + r.accs ≤ 8 && sum (fun e => e.banks.length) + r.banks ≤ 2 &&
      (s.tile u).tracked.length + r.tracked ≤ 16 && !(r.engaged && es.any (fun e => e.engaged)) then
    match placeTroupes (coreRooms s u) r.claims, freeRun (granulesOf u) (es.map (fun e => (e.base, e.count))) r.scratch with
    | some l, some b => some (l, b)
    | _, _ => none
  else none

/-- The units of a row mask. -/
def unitsIn (rows : Nat) : List Nat := (upTo 300).filter (fun u => Nat.testBit rows (rowOfUnit u))

/-! ## Waiting ensembles (R400) -/

/-- An ensemble that waits for admission: a re-admission (its ensemble key) or the next ensemble of a company (the company),
its priority, its class (0 re-admission, 1 child, 2 root), its age, since when it waits, its rows, and what it asks. -/
structure Waiter where
  readmit : Bool
  key : Nat
  prio : Nat
  cls : Nat
  age : Nat
  since : Nat
  rows : Nat
  room : Room
deriving DecidableEq, Repr

/-- What a new ensemble of a descriptor asks (R389, R401). -/
def roomOf (d : Desc) : Room :=
  { claims := List.replicate d.troupes d.vregs, scratch := d.scratch, barriers := d.barriers, sems := d.sems, accs := d.accs,
    banks := 0, tracked := 0, engaged := d.mode == 2 }

/-- What a swapped-out ensemble asks: its claims as they stood at swap-out, its bound banks, its tracked tiles (R113, R189,
R258, R383). -/
def savedRoom (v : SavedEns) : Room :=
  { claims := v.troupes.map (fun p => p.2.vclaim), scratch := v.ens.count, barriers := v.ens.desc.barriers,
    sems := v.ens.desc.sems, accs := v.ens.naccs, banks := v.banks.length, tracked := v.tracked.length, engaged := v.ens.engaged }

/-- A company's next ensemble, when it has one to place and is not timetabled. -/
def companyWaiter (s : State) (id : Nat) (c : Company) : Option Waiter :=
  if c.next < c.total && c.tt.isNone then
    some { readmit := false, key := id, prio := c.desc.prio, cls := if c.parent.isSome then 1 else 2, age := c.order, since := c.since,
           rows := placeRows s c.part c.desc, room := roomOf c.desc }
  else none

/-- A swapped-out ensemble that is eligible, with the rows of the unit kind it left (R258). -/
def savedWaiter (s : State) (ek : Nat) (v : SavedEns) : Option Waiter :=
  match v.ready, s.comp v.ens.comp with
  | some r, some c =>
    some { readmit := true, key := ek, prio := c.desc.prio, cls := 0, age := v.since, since := r,
           rows := if isGuide v.ens.unit then 2 ^ 24 else rowsOf s c.part % 2 ^ 24, room := savedRoom v }
  | _, _ => none

/-- The partition of a company runs its context, and no swap of it has begun (R417). -/
def compRuns (s : State) (c : Company) : Bool :=
  match kfind s.parts c.part with | some p => p.running && p.ctx == c.ctx && p.incoming.isNone | none => false

/-- The waiting ensembles of a partition. -/
def waitersIn (s : State) (part : Nat) : List Waiter :=
  s.saved.filterMap (fun p => match s.comp p.2.ens.comp with
    | some c => if c.part = part && compRuns s c then savedWaiter s p.1 p.2 else none
    | none => none) ++
  s.comps.filterMap (fun p => if p.2.part = part && compRuns s p.2 then companyWaiter s p.1 p.2 else none)

/-- A waiter ranks before another: priority, then class, then age (R400). -/
def Waiter.before (a b : Waiter) : Bool :=
  decide (b.prio < a.prio) || (a.prio == b.prio && (decide (a.cls < b.cls) || (a.cls == b.cls && decide (a.age < b.age))))

/-- The rows closed to a waiter by higher-ranked ones that have waited 100 µs (R400). -/
def closedRows (s : State) (part : Nat) (w : Waiter) : Nat :=
  let hs := match kfind s.parts part with | some p => p.holds | none => []
  ((waitersIn s part).filter (fun x => hs.contains (x.readmit, x.key) && x.before w)).foldl (fun r x => r ||| x.rows) 0

/-- The units that a waiting timetabled company holds, while the frame counter runs (R397). -/
def unitsHeld (s : State) (c : Company) : List Nat :=
  match c.tt with
  | some tt => if tt.waiting && !tt.admitted && s.frame.en then (if tt.place.isEmpty then unitsIn (placeRows s c.part c.desc) else tt.place) else []
  | none => []

/-- A unit, slots and a granule for a waiter, among those where it fits; which of several is open (log 12). -/
def findRoom (s : State) (part : Nat) (w : Waiter) : Option (Nat × List Nat × Nat) :=
  let closed := closedRows s part w
  let held := s.comps.flatMap (fun p => unitsHeld s p.2)
  let l := (unitsIn (w.rows &&& rowsOf s part)).filterMap (fun u =>
    if Nat.testBit closed (rowOfUnit u) || held.contains u then none else (unitRoom s u w.room).map (fun r => (u, r.1, r.2)))
  l[Config.pick s.draws % max 1 l.length]?

/-! ## Admission (R72, R85, R88, R391) -/

/-- Removes the bytes of a run of granules: scratch that no ensemble holds, and scratch at admission, reads zero (R217). -/
def clearScratch (s : State) (u base count : Nat) : State :=
  let out (a : Nat) : Bool := decide (a < scrKey u (65536 * base)) || decide (scrKey u (65536 * (base + count)) ≤ a)
  { s with scratch := s.scratch.filter (fun c => out c.1), badScr := s.badScr.filter (fun w => out (8 * w)) }

/-- A troupe at admission (R72, R111). -/
def freshTroupe (s : State) (id : Nat) (c : Company) (ek linear eix : Nat) : Troupe :=
  { Troupe.init with
    ctx := c.ctx, comp := id, ens := ek, eix := eix, text := c.desc.text, segs := c.desc.segs, pc := c.desc.entry,
    g := [(0, c.desc.args), (1, BitVec.ofNat 64 linear), (2, BitVec.ofNat 64 id), (8, c.desc.args)], vclaim := c.desc.vregs,
    readyAt := s.now }

/-- Admits the ensemble of a company with a linear index to a unit, on the given slots and granules. The first bundles of a
child company follow an acquire (R88). -/
def admitAt (s : State) (id : Nat) (c : Company) (linear u : Nat) (slots : List Nat) (base : Nat) : State :=
  let ek := s.ids + 1
  let d := c.desc
  let e : Ensemble :=
    { ctx := c.ctx, comp := id, linear := linear, unit := u, base := base, count := d.scratch, size := d.troupes, troupes := slots,
      exited := 0, bars := [], sems := [], accs := [], naccs := d.accs, cur := 0, banks := [], joins := [], matExc := 0,
      latch := none, engaged := d.mode == 2, desc := d }
  let s := clearScratch { s with ids := s.ids + 2, enss := kset s.enss ek e } u base d.scratch
  let s := slots.zipIdx.foldl (fun (s : State) (p : Nat × Nat) =>
    (bumpGen s p.1).setTroupe p.1 (freshTroupe s id c ek linear p.2)) s
  match c.parent, slots with
  | some _, tk :: _ => acquire s tk c.ctx 3
  | _, _ => s

/-- A hold of R400 ends with the admission of its ensemble. -/
def endHold (s : State) (part : Nat) (readmit : Bool) (key : Nat) : State :=
  { s with parts := kupd s.parts part (fun p => { p with holds := p.holds.filter (fun h => h != (readmit, key)) }) }

/-- Room for the next ensemble of a company, when it may be admitted now. -/
def companyRoom (s : State) (id : Nat) : Option (Company × Nat × List Nat × Nat) :=
  match s.comp id with
  | none => none
  | some c => match companyWaiter s id c with
    | none => none
    | some w => if compRuns s c then (findRoom s c.part w).map (fun r => (c, r)) else none

/-- ENSEMBLE_ADMISSION (R85, R391): the next ensemble of a company is admitted. -/
def execEnsembleAdmission (comp : Nat) (s : State) : Res :=
  match companyRoom s comp with
  | none => .next s
  | some (c, u, slots, base) =>
    let s := admitAt { s with draws := s.draws + 1 } comp c c.next u slots base
    .next (endHold (s.modComp comp (fun c => { c with next := c.next + 1, since := s.now })) c.part false comp)

/-- A swapped-out troupe does not keep its ensemble from re-admission: it did not count as parked when it left, or a parked one has been
woken, or one in `cwait` has its answer (R258). -/
def savedWoken (s : State) (v : SavedEns) (p : Nat × Troupe) : Bool :=
  !v.counted.contains p.1 ||
  (match kfind v.holds p.1 with
   | some h => (match h.wait with
     | .cwait who _ => (cwaitStatus s p.2 who).isSome
     | _ => p.2.woken || p.2.parkedAt.isNone)
   | none => p.2.woken || p.2.parkedAt.isNone)

/-- A swapped-out ensemble becomes eligible for re-admission (R258). -/
def becomesReady (s : State) (v : SavedEns) : Bool := v.ready.isNone && v.troupes.all (savedWoken s v)

/-- The top-ranked waiting ensemble of a partition. -/
def topWaiter (s : State) (part : Nat) : Option Waiter :=
  match waitersIn s part with
  | [] => none
  | w :: rest => some (rest.foldl (fun b x => if x.before b then x else b) w)

/-- The top-ranked waiter has waited 100 µs and does not hold back the others yet (R400). -/
def holdDue (s : State) (part : Nat) : Option Waiter :=
  match topWaiter s part, kfind s.parts part with
  | some w, some p => if decide (w.since + 180000 ≤ s.now) && !p.holds.contains (w.readmit, w.key) then some w else none
  | _, _ => none

/-- ADMISSION_HOLD (R400): the top-ranked ensemble of a partition has waited 100 µs, and holds back the lower-ranked ones.
Swapped-out ensembles that have become eligible begin to wait (R258). -/
def execAdmissionHold (part : Nat) (s : State) : Res :=
  let s : State := { s with saved := s.saved.map (fun p => if becomesReady s p.2 then (p.1, { p.2 with ready := some s.now }) else p) }
  match holdDue s part with
  | none => .next s
  | some w => .next { s with parts := kupd s.parts part (fun p => { p with holds := p.holds ++ [(w.readmit, w.key)] }) }

/-! ## Retirement (R87, R89) -/

/-- A transfer of an ensemble has still to perform. -/
def copyOf (ek : Nat) : Instr → Bool
  | .copyPerform c => c.ens == ek
  | _ => false

/-- Every troupe has exited, and no access, transfer, push or engine command of the ensemble is still to perform (R87); its queued stores
perform with the retirement's release. -/
def retirable (s : State) (ek : Nat) (e : Ensemble) : Bool :=
  decide (e.size ≤ e.exited) && !s.agenda.any (fun p => copyOf ek p.2) && !s.waitQ.any (fun x => x.who.ens == ek) &&
  !s.cores.any (fun p => p.2.pushes.any (fun q => q.ens == some ek) || p.2.port.any (fun q => q.writes && q.ens == ek)) && !s.cores.any (fun p => p.2.engines.any (fun q => q.2.any (fun c => c.ens == ek)))

/-- Frees what an ensemble holds on its unit (R87, R186, R371). -/
def freeUnit (s : State) (ek : Nat) (e : Ensemble) : State :=
  let s := clearScratch s e.unit e.base e.count
  let s := e.banks.foldl (fun s p => setBank s e.unit p.2 Bank.init) s
  s.modUnit e.unit (fun u => { u with tracked := u.tracked.filter (fun p => p.2.ens != ek) })

/-- ENSEMBLE_RETIREMENT (R87): a release of everything its troupes performed; its unit's parts are freed. -/
def execEnsembleRetirement (ens : Nat) (s : State) : Res :=
  match s.ens ens with
  | none => .next s
  | some e =>
    if !retirable s ens e then .next s
    else
      let s := drainStores (flushPartials faddW bfaddW s e.unit (fun p => p.by_.any (fun c => c.ens == ens)))
      let s := freeUnit (cancelMat s e.unit ens) ens e
      .next ({ s with enss := kdel s.enss ens }.modComp e.comp (fun c => { c with retired := c.retired + 1 }))

/-- All ensembles of a company and all its children have retired (R89). -/
def companyDone (c : Company) : Bool := decide (c.total ≤ c.retired) && c.kids.all (fun k => k.status.isSome)

/-- COMPANY_RETIREMENT (R89): the status goes to the done word and to the parent. -/
def execCompanyRetirement (comp : Nat) (s : State) : Res :=
  match s.comp comp with
  | none => .next s
  | some c =>
    if !companyDone c then .next s
    else
      let status : Dword := BitVec.ofNat 64 (c.firstCause.getD 0)
      let s := tellParent (writeDone s c.ctx c.desc.done status) c.parent comp status
      .next { s with comps := kdel s.comps comp }

/-! ## Segment frames (R393) -/

/-- The segment in which a troupe's next bundle lies, as (context, TEXT, segment). -/
def segmentOf (t : Troupe) : Nat × Nat × Nat := (t.ctx, t.text, (t.pc - t.text) / 4096)

/-- The troupe is ready apart from its segment, which no frame of its core holds. -/
def needsSegment (s : State) (tk : Nat) (t : Troupe) : Bool :=
  mayIssue s t && !overrun s tk t && (s.frameOf tk t t.pc).isNone

/-- A frame is held while a troupe of the core that is ready, apart from this rule, has its program counter in it. -/
def frameHeld (s : State) (core : Nat) (r : Frame) : Bool :=
  s.troupes.any (fun p => coreOf p.1 == core && mayIssue s p.2 && segmentOf p.2 == (r.ctx, r.text, r.seg))

/-- The frames that stay when one more is expanded: all with room, else all but the least recently fetched that no troupe
holds; none when all are held. -/
def framesLeft (s : State) (core : Nat) : Option (List Frame) :=
  let l := (s.core core).frames.filter (fun r => !r.bad)
  if l.length < 16 then some l
  else (l.find? (fun r => !frameHeld s core r)).map (fun r => l.filter (fun x => x != r))

/-- Words up to the last that is not zero (R392). -/
def usedWords (l : List Word) : List Word := (l.reverse.dropWhile (fun w => w == 0)).reverse

/-- The cause that a failed read of a segment raises at its troupe (R392, R393, R458). -/
def segmentCause (t : Troupe) (e : VErr) : Cause :=
  if e.kind = 3 then { cause := cDataUnc, detail := e.detail, value := BitVec.ofNat 64 t.pc }
  else { cause := cPagePerm, detail := 7, value := BitVec.ofNat 64 t.pc }

/-- SEGMENT_EXPANSION (R393): the core reads the segment through the context's translation and the shared cache into a frame; a fault
in the read strikes the fetching troupes. -/
def execSegmentExpansion (core ctx text seg : Nat) (s : State) : Res :=
  match framesLeft s core with
  | none => .next s
  | some l =>
    let x := virtFetch s core ctx (text + 4096 * seg) 4096
    let s := x.2
    match x.1 with
    | .ok bs =>
      let r : Frame := { ctx := ctx, text := text, seg := seg, words := usedWords (wordsOf bs 1024) }
      .next (s.modCore core (fun c => { c with frames := l.filter (fun x => (x.ctx, x.text, x.seg) != (ctx, text, seg)) ++ [r] }))
    | .error e =>
      .next ((s.troupes.filter (fun p => coreOf p.1 == core && needsSegment s p.1 p.2 && segmentOf p.2 == (ctx, text, seg))).foldl
        (fun s p => trapFetch s p.1 p.2 (segmentCause p.2 e)) s)

end Sys2Proof.Machine
end

