-- ==== Sys2Proof/Machine/Swap.lean ====
section
/-! DEFINITION. Swap-out of an ensemble for faults, and its re-admission (11_translation R252 to R259; 09_matrix R189;
17_sketch R383; 19_traps R419, R420). -/

namespace Sys2Proof.Machine

/-! ## Stopping (R253, R417, R419) -/

/-- A wait in `osenter` is withdrawn: the troupe stands at the slot, which will issue again from its start (R341). -/
def withdrawEnter (s : State) (tk : Nat) : State :=
  match kfind s.holds tk with
  | some h => (match h.wait with
    | .osenter _ =>
      let f := h.focus
      regap { s.modTroupe tk (fun t => { splitAt f f.k f.pass f.run f.op t with wait := none, slotResume := BitVec.ofNat 4 f.k })
              with holds := kdel s.holds tk }
    | _ => s)
  | none => s

/-- A held push whose queue a stop has closed to it. -/
def pushStuck (s : State) (p : PushReq) : Bool :=
  let q := windowTarget p.addr
  match pushTroupe s p with
  | some t => t.stopped && decide (4 < ((t.thread q.2.1).queue q.2.2).length + p.words.length)
  | none => false

/-- A slot holds for an earlier access that cannot perform before the swap is over: a push at a queue that a stop has closed, or what
follows a joint pass that other troupes have still to join. Its troupe stops there. -/
def stuckBehind (s : State) (tk : Nat) (t : Troupe) : Bool :=
  match t.wait with
  | some (.order ..) =>
    s.cores.any (fun c => c.2.pushes.any (fun p => (match p.source with | some x => x.1 == tk | none => false) && pushStuck s p)) ||
    (let ps := match s.ens t.ens with | some e => unformed e | none => []
     ps.any (fun p => p.troupe == tk) ||
       (s.tile (unitOf tk)).rtab.any (fun o => o.troupe == tk && ps.any (fun p => o.fence.contains p.id)))
  | _ => false

/-- A troupe is to stop; where it stands its results drain into the snapshot buffer (R419). -/
def stopTroupe (force : Bool) (s : State) (k : Nat) : State :=
  match s.troupe k with
  | none => s
  | some t =>
    if t.stopped then s
    else if stands t || stuckBehind s k t || force then (withdrawEnter s k).modTroupe k (fun t => drainTroupe s.now { t with stopping := true, stopped := true })
    else s.modTroupe k (fun t => { t with stopping := true })

/-- Troupes are to stop. -/
def stopTroupes (s : State) (force : Bool) (ks : List Nat) : State := ks.foldl (stopTroupe force) s

/-- A stop that is not carried through: the troupes that were to stop go on (R254, R418). -/
def goOn (s : State) (ks : List Nat) : State :=
  ks.foldl (fun s k => match s.troupe k with
    | some t => if t.stopping || t.stopped then resumeLate (s.modTroupe k (fun t => { t with stopping := false, stopped := false })) k else s
    | none => s) s

/-- Queued stores and reductions of a unit's troupes perform before its state is saved. -/
def quiesce (s : State) (u : Nat) : State := drainStores (flushPartials faddW bfaddW s u (fun _ => true))

/-- Events in flight that a stop awaits (R253): results of the troupes that stop, their vector and plane operations, their
origins, and what reaches their scratch, queues, barriers and semaphores. -/
def awaited (s : State) (mine ours : Nat → Bool) : Instr → Bool
  | .resultArrival a => mine a.troupe
  | .copyPerform c => mine c.troupe || ours c.ens
  | .windowLoad w => mine w.troupe
  | .scratchWindowAccess w =>
    mine w.troupe || (match (windowScratch s w.ctx w.addr).bind (fun r => scratchHolder s w.ctx r.1 r.2) with | some ek => ours ek | none => false)
  | .windowPush p => mine (windowTarget p.addr).1
  | .vmemComplete t _ => mine t
  | .planeComplete t => mine t
  | .originArrival t => mine t
  | .forwardedArrival ek _ => ours ek
  | .barrierRelease ek _ => ours ek
  | .remoteArrival r => mine r.troupe || (s.ensAt r.comp r.linear).any (fun p => ours p.1)
  | _ => false

/-- An engine command that a stop awaits: one that reads or writes the scratch of the ensembles or their queues, or delivers to them
(R253, R354). One that holds only for pushes at a full queue is not awaited: the queue of a stopped troupe never empties. -/
def cmdAwaited (s : State) (ours : Nat → Bool) : Bool :=
  s.cores.any (fun p => p.2.engines.any (fun q => q.2.any (fun c => !(c.performed && pushesHeld s c) && (cmdHolders s q.1 c).any ours)))

/-- Work in flight that a stop of some troupes and ensembles of a unit awaits (R189, R253, R417). -/
def stopBusy (s : State) (u : Nat) (mine ours : Nat → Bool) : Bool :=
  s.troupes.any (fun p => mine p.1 && !p.2.stopped) || s.agenda.any (fun e => awaited s mine ours e.2) || cmdAwaited s ours ||
  (s.tile u).running.any (fun o => ours o.ens) ||
  s.cores.any (fun c => c.2.port.any (fun p => (p.writes || p.loads) && (mine p.troupe || ours p.ens))) ||
  s.cores.any (fun c => c.2.pushes.any (fun p => mine (windowTarget p.addr).1 && !pushStuck s p)) ||
  (s.waitQ.any (fun x => mine x.who.troupe) && !s.cores.any (fun c => c.2.pushes.any (pushStuck s)))

/-! ## The test (R252) -/

/-- PARKT of a context in cycles. -/
def parkCycles (s : State) (ctx : Nat) : Nat := 1800 * ((s.ctx ctx).ctxcfg.extractLsb' 8 16).toNat

/-- A troupe is parked (R242): an entry of its replay list awaits its page. A halted one is not (R421). -/
def isParked (t : Troupe) : Bool := !t.replay.isEmpty && t.parkedAt.isSome && t.halt != .halted

/-- A troupe has waited in `cwait` for more than PARKT (R94). -/
def longCwait (s : State) (tk : Nat) (t : Troupe) : Bool :=
  t.halt != .halted &&
  (match kfind s.holds tk with
   | some h => (match h.wait with | .cwait _ since => decide (since + parkCycles s t.ctx < s.now) | _ => false)
   | none => false)

/-- The troupes of an ensemble that are still there. -/
def troupesOf (s : State) (e : Ensemble) : List (Nat × Troupe) := e.troupes.filterMap (fun k => (s.troupe k).map (fun t => (k, t)))

/-- An ensemble is chosen for swap-out: a troupe has been parked for more than PARKT, or at least half of its troupes count as
parked. -/
def swapChosen (s : State) (e : Ensemble) : Bool :=
  let ts := troupesOf s e
  let long (t : Troupe) : Bool := match t.parkedAt with
    | some c => isParked t && parkCycles s e.ctx != 0 && decide (c + parkCycles s e.ctx < s.now)
    | none => false
  ts.any (fun p => long p.2) || decide (e.size ≤ 2 * (ts.filter (fun p => isParked p.2 || longCwait s p.1 p.2)).length)

/-- An ensemble is exempt: a troupe holds a section or an uncommitted sketch, or its company is timetabled. -/
def swapExempt (s : State) (ek : Nat) (e : Ensemble) : Bool :=
  (troupesOf s e).any (fun p => p.2.speculative || s.sections.any (heldByTroupe s p.1)) ||
  (s.tile e.unit).tracked.any (fun p => p.2.ens == ek && p.2.sketch.isSome) ||
  (match s.comp e.comp with | some c => c.tt.isSome | none => false)

/-- The troupes that parked in this cycle. -/
def parkedNow (s : State) : Nat := (s.troupes.filter (fun p => !p.2.replay.isEmpty && p.2.parkedAt == some s.now)).length

/-- The test of R252 is due: a troupe has parked since the last test, or a µs boundary has come. -/
def swapTestDue (s : State) : Bool :=
  if s.tested.1 = s.now + 1 then decide (s.tested.2 < parkedNow s)
  else decide (0 < parkedNow s) || (s.now % 1800 == 0 && !s.enss.isEmpty)

/-- SWAP_OUT_TEST (R252). -/
def execSwapOutTest (s : State) : Res :=
  let s : State := { s with tested := (s.now + 1, parkedNow s) }
  .next ((s.enss.filter (fun p => swapChosen s p.2 && !swapExempt s p.1 p.2 &&
      !s.agenda.any (fun e => e.2 == .ensembleSwapOut p.1))).foldl
    (fun s p => s.schedule s.now (.ensembleSwapOut p.1)) s)

/-! ## Swap-out (R253 to R255) -/

/-- The bytes that an ensemble needs in the save pool (R254). -/
def saveBytes (s : State) (e : Ensemble) : Nat :=
  let ts := troupesOf s e
  65536 * e.count + 8192 * ts.length + 384 * ts.foldl (fun n p => n + p.2.vclaim) 0 + 73728 * e.naccs +
    41472 * e.banks.length + 4096

/-- The lowest run of units of a context's save pool for an ensemble; the first unit holds the map (R254). -/
def saveRun (s : State) (ctx n : Nat) : Option Nat :=
  let used := s.saved.filterMap (fun p => if p.2.ens.ctx = ctx then some (p.2.first, p.2.units) else none)
  freeRun ((s.ctx ctx).swparea.extractLsb' 0 16).toNat ((0, 1) :: used) n

/-- The slice that homes the shell of a barrier (R255). -/
def shellSlice (u i : Nat) : Nat :=
  if isGuide u then (32 * (u - 288) + i) % 48 else 48 * dieOf u + (32 * u + i) % 48

/-- The shells of an ensemble's barriers; none when a slice has no room for one (R255). -/
def shellsFor (s : State) (e : Ensemble) : Option (List Shell) :=
  let l : List Shell := (upTo e.desc.barriers).map (fun i =>
    { slice := shellSlice e.unit i, ctx := e.ctx, comp := e.comp, linear := e.linear, idx := i, bar := e.bar i })
  if l.all (fun h => decide (((s.shells ++ l).filter (fun x => x.slice == h.slice)).length ≤ 2048)) then some l else none

/-- The scratch of a run of granules, by offset from its start. -/
def takeScratch (s : State) (u base count : Nat) : List Host.Cell :=
  (s.scratch.filter (fun c => decide (scrKey u (65536 * base) ≤ c.1) && decide (c.1 < scrKey u (65536 * (base + count))))).map
    (fun c => (c.1 - scrKey u (65536 * base), c.2))

/-- The uncorrectable words of a run of granules, by word from its start (R458). -/
def takeBad (s : State) (u base count : Nat) : List Nat :=
  (s.badScr.filter (fun w => decide (scrKey u (65536 * base) ≤ 8 * w) && decide (8 * w < scrKey u (65536 * (base + count))))).map
    (fun w => w - scrKey u (65536 * base) / 8)

/-- Puts saved scratch back at a key, with its uncorrectable words. -/
def putCells (s : State) (key : Nat) (l : List Host.Cell) (bad : List Nat) : State :=
  { s with scratch := l.foldl (fun m c => writeByte m (key + c.1) c.2) s.scratch, badScr := s.badScr ++ bad.map (fun w => key / 8 + w) }

/-- Saves tracked entries in their records: 64 bytes at HIST each, whose layout is open (R368; log 28). -/
def saveRecords (s : State) (u : Nat) (sel : Tracked → Bool) : State :=
  ((s.tile u).tracked.filter (fun p => sel p.2)).foldl (fun s p =>
    match entryOf s u p.1 with
    | none => s
    | some k =>
      let bs := (upTo 64).map (Config.entryRecord s.draws)
      setEntry (scrWriteList { s with draws := s.draws + 1 } u (entryBase s k + k.hist) bs) u p.1 k) s

/-- Takes a stopped ensemble off its unit, into the given units of its save pool. -/
def saveEnsemble (s : State) (ek : Nat) (e : Ensemble) (shells : List Shell) (first units : Nat) : State :=
  let s := saveRecords s e.unit (fun k => k.ens == ek)
  let tile := s.tile e.unit
  let v : SavedEns :=
    { ens := e, troupes := troupesOf s e, scratch := takeScratch s e.unit e.base e.count, badScr := takeBad s e.unit e.base e.count,
      banks := e.banks.map (fun p => (p.1, bankOf s e.unit p.2)), holds := s.holds.filter (fun p => e.troupes.contains p.1),
      ops := tile.rtab.filter (fun o => o.ens == ek), tracked := tile.tracked.filter (fun p => p.2.ens == ek), first := first,
      units := units, since := s.now, ready := none,
      counted := ((troupesOf s e).filter (fun p => isParked p.2 || longCwait s p.1 p.2)).map (fun p => p.1) }
  let s := s.modUnit e.unit (fun u => { u with rtab := u.rtab.filter (fun o => o.ens != ek) })
  let s := freeUnit s ek e
  { s with enss := kdel s.enss ek, saved := kset s.saved ek v, shells := s.shells ++ shells,
           troupes := s.troupes.filter (fun p => !e.troupes.contains p.1), holds := s.holds.filter (fun p => !e.troupes.contains p.1) }

/-- The device writes bytes of its own choice into physical memory (log 37). -/
def spoil (s : State) (pa n : Nat) : State :=
  (writeHome { s with draws := s.draws + 1 } noCore 4095 pa 0 ((upTo n).map (Config.poolByte s.draws))).2

/-- The first byte of a context's save pool; and its first unit takes the map of the units in use (R254). -/
def poolBase (s : State) (ctx : Nat) : Nat := (s.ctx ctx).swparea.toNat / 65536 % 2 ^ 40 * 65536
def writeMap (s : State) (ctx : Nat) : State := spoil s (poolBase s ctx) 65536

/-- The save pool of a context takes a saved ensemble in a run of units, and the map (R253, R254). What an ensemble's record holds
stands in State.saved. -/
def writePool (s : State) (ctx first units : Nat) : State :=
  writeMap (spoil s (poolBase s ctx + 65536 * first) (65536 * units)) ctx

/-- A push that is held at a queue of an ensemble that leaves could enter only under the generation of its re-admission: it is
discarded, and has performed (R104, R117; log 55). A command that waited only for it completes, and delivers while the ensemble is
there (R354). -/
def dropStuck (s : State) (mine : Nat → Bool) : State :=
  let s' : State := { s with cores := s.cores.map (fun c => (c.1, { c.2 with pushes := c.2.pushes.filter (fun p => !(mine (windowTarget p.addr).1 && pushStuck s p)) })) }
  s.cores.foldl (fun s' c => (upTo 2).foldl (fun s' e =>
    if (c.2.engine e).any (fun x => x.performed && pushesHeld s x && !pushesHeld s' x) then completeCmd c.1 e s' else s') s') s'

/-- ENSEMBLE_SWAP_OUT (R253): its troupes stop, and once nothing that the stop awaits is in flight it leaves. Not taken when the
ensemble is exempt, the pool has no run, or a shell has no place (R254). -/
def execEnsembleSwapOut (ens : Nat) (s : State) : Res :=
  match s.ens ens with
  | none => .next s
  | some e =>
    let n := (saveBytes s e + 65535) / 65536
    match saveRun s e.ctx n, shellsFor s e with
    | some first, some shells =>
      if swapExempt s ens e || e.troupes.isEmpty then .next (goOn s e.troupes)
      else
        let s := stopTroupes (quiesce s e.unit) false e.troupes
        if stopBusy s e.unit e.troupes.contains (fun k => k == ens) then .next (s.schedule (s.now + 1) (.ensembleSwapOut ens))
        else
          let s := dropStuck s e.troupes.contains
          match s.ens ens with
          | none => .next s
          | some e => .next (writePool (saveEnsemble s ens e shells first n) e.ctx first n)
    | _, _ => .next (goOn s e.troupes)

/-! ## Re-admission (R257 to R259) -/

/-- The new key of a troupe. -/
def newKey (r : List (Nat × Nat)) (k : Nat) : Nat := (kfind r k).getD k

/-- A replay entry under the troupe's new key and generation. Its scratch offset counts from the new base when it replays (R344). -/
def moveAct (s : State) (r : List (Nat × Nat)) : Act → Act
  | .copy c => .copy { c with troupe := newKey r c.troupe, gen := s.genOf (newKey r c.troupe) }
  | a => a

/-- A troupe as it returns: it replays at once, and its tagged positions fill at its first bundle (R259, R420); `tm` gives its tracked
tiles their new numbers. -/
def moveTroupe (s : State) (r tm : List (Nat × Nat)) (t : Troupe) : Troupe :=
  { t with replay := t.replay.map (fun x => { x with act := moveAct s r x.act }), woken := !t.replay.isEmpty, stopping := false, stopped := false,
           readyAt := s.now,
           spec := { t.spec with checkpoint := t.spec.checkpoint.map (fun c => { c with t := newKey tm c.t }) } }

/-- A hold under the troupe's new key. -/
def moveHold (r tm : List (Nat × Nat)) (h : Hold) : Hold :=
  { h with focus := { h.focus with troupe := newKey r h.focus.troupe },
           wait := (match h.wait with | .skwait n => .skwait (newKey tm n) | w => w) }

/-- Matrix work that is posted again (R189). -/
def movePiece (r : List (Nat × Nat)) (p : Piece) : Piece := { p with troupe := newKey r p.troupe }
def moveOp (s : State) (r : List (Nat × Nat)) (o : MatOp) : MatOp :=
  { o with troupe := newKey r o.troupe, posted := s.now, eligible := none, waited := 0, raised := false,
           kind := match o.kind with | .pass j ps => .pass j (ps.map (movePiece r)) | k => k }

/-- A command of the ensemble under its troupe's new key (R358). -/
def moveCmd (s : State) (ek : Nat) (r : List (Nat × Nat)) (c : Cmd) : Cmd :=
  if c.ens = ek then { c with troupe := newKey r c.troupe, gen := s.genOf (newKey r c.troupe) } else c

/-- Binds saved banks to the free physical banks of a unit. -/
def bindBanks (s : State) (u : Nat) (l : KV Bank) : List (Nat × Nat) × State :=
  let free := (upTo 2).filter (fun b => !(enssOn s u).any (fun p => p.2.banks.any (fun q => q.2 == b)))
  let m := List.zip l free
  (m.map (fun p => (p.1.1, p.2)), m.foldl (fun s p => setBank s u p.2 p.1.2) s)

/-- Tracked tiles take entries again: their own numbers where free, else the lowest free (R383); and the number that each has taken. -/
def placeTracked (s : State) (u : Nat) (l : List (Nat × Tracked)) : List (Nat × Nat) × State :=
  l.foldl (fun a p =>
    match (p.1 :: upTo 16).find? (fun i => (entryOf a.2 u i).isNone) with
    | some i => (a.1 ++ [(p.1, i)], setEntry a.2 u i p.2)
    | none => a) ([], s)

/-- The barriers of an ensemble, rebuilt from their shells (R257). -/
def barsFromShells (s : State) (e : Ensemble) : KV Bar :=
  s.shells.filterMap (fun h => if h.ctx = e.ctx && h.comp = e.comp && h.linear = e.linear then some (h.idx, h.bar) else none)

/-- The threads whose origins were resolved by a kill while their ensemble was absent are killed (R414, R415). -/
def killResolved (s : State) (tk : Nat) : State :=
  match s.troupe tk with
  | none => s
  | some t => (t.origins.filter (fun o => o.res == some .kill)).foldl (fun s o =>
      match s.troupe tk with
      | some u => if u.active.getLsbD o.thread then killThread s tk o.thread o.cause else s
      | none => s) s

/-- Puts a swapped-out ensemble on a unit, on the given slots and granules (R259). Its matrix entries are posted again, past the 32 of
the table when they find it full: the rule gives them no other place (R189, R190; DESIGN CHOICE, log 64). Resolutions made in its
absence take effect (R414), and its broken promises are raised (R358). -/
def restoreEnsemble (s : State) (ek : Nat) (v : SavedEns) (u : Nat) (slots : List Nat) (base : Nat) : State :=
  let r := List.zip (v.troupes.map (fun p => p.1)) slots
  let s := slots.foldl bumpGen s
  let s := putCells (clearScratch s u base v.ens.count) (scrKey u (65536 * base)) v.scratch v.badScr
  let b := bindBanks s u v.banks
  let e := { v.ens with unit := u, base := base, troupes := slots, banks := b.1, bars := barsFromShells s v.ens,
                        joins := v.ens.joins.map (fun p => (p.1, p.2.map (movePiece r))) }
  let k := placeTracked { b.2 with enss := kset b.2.enss ek e } u v.tracked
  let s := k.2.modUnit u (fun t => { t with rtab := t.rtab ++ v.ops.map (moveOp s r) })
  let s : State := { s with
    saved := kdel s.saved ek,
    shells := s.shells.filter (fun h => !(h.ctx == e.ctx && h.comp == e.comp && h.linear == e.linear)),
    troupes := s.troupes ++ v.troupes.map (fun p => (newKey r p.1, moveTroupe s r k.1 p.2)),
    holds := s.holds ++ v.holds.map (fun p => (newKey r p.1, moveHold r k.1 p.2)),
    cores := s.cores.map (fun p => (p.1, { p.2 with engines := p.2.engines.map (fun q => (q.1, q.2.map (moveCmd s ek r))) })) }
  slots.foldl (fun s k => resumeLate (killResolved s k) k) (writeMap s e.ctx)

/-- Room for a swapped-out ensemble that may be re-admitted now. -/
def savedPlace (s : State) (ek : Nat) : Option (SavedEns × Nat × Nat × List Nat × Nat) :=
  match kfind s.saved ek with
  | none => none
  | some v => match savedWaiter s ek v, s.comp v.ens.comp with
    | some w, some c => if compRuns s c then (findRoom s c.part w).map (fun r => (v, c.part, r)) else none
    | _, _ => none

/-- READMISSION (R258, R259). -/
def execReadmission (ens : Nat) (s : State) : Res :=
  match savedPlace s ens with
  | none => .next s
  | some (v, part, u, slots, base) =>
    .next (endHold (restoreEnsemble { s with draws := s.draws + 1 } ens v u slots base) part true ens)

end Sys2Proof.Machine
end

