-- ==== Sys2Proof/Machine/Sequencer.lean ====
section
/-! DEFINITION. The launch sequencer: partition records, queue state blocks and packets (18_schedule R384 to R388, R391; 21_frames
R453, R455), and the swap of a partition's contexts (19_traps R417, R418; 01_resources R20). -/

namespace Sys2Proof.Machine

/-! ## Partition records (R385) -/

/-- The physical address of a partition's record. -/
def partAddr (s : State) (part : Nat) : Nat := s.ptbase.toNat + 64 * part

/-- The bytes of a structure of the sequencer in physical memory, in key slot 0; none when they cannot be read. -/
def deviceBytes (s : State) (a n : Nat) : Option (List Byte) := if (memFault s a n).isSome then none else some (physList s 0 a n)

/-- The sequencer's reads go through the slices, from the guide die (R264, R266), and so do its writes. -/
def deviceTouch (s : State) (a n : Nat) : State := homeReads s noUnit noCore a 0 n false
def deviceWrite (s : State) (a n v : Nat) : State := homeWrites (physWrite s 0 a n v) noCore a 0 n

/-- A partition record: ROWS, CTX, EN, the other bits of byte 6, QHEAD, and whether its reserved bits are zero. -/
structure PartRec where
  rows : Nat
  ctx : Nat
  en : Bool
  flags : Nat
  qhead : Nat
  legal : Bool
deriving DecidableEq, Repr

/-- The fields of a record's bytes. -/
def partRec (bs : List Byte) : PartRec :=
  { rows := leAt bs 0 4, ctx := leAt bs 4 2 % 4096, en := leAt bs 6 1 % 2 == 1, flags := leAt bs 6 1, qhead := leAt bs 8 8,
    legal := decide (leAt bs 0 4 < 2 ^ 25) && decide (leAt bs 4 2 < 4096) && decide (leAt bs 6 1 < 8) && zeroAt bs 7 1 && zeroAt bs 16 48 }

/-- The record of a partition. -/
def readPart (s : State) (part : Nat) : Option PartRec := (deviceBytes s (partAddr s part) 64).map partRec

/-- Another enabled record names one of the rows. -/
def rowsClash (s : State) (part rows : Nat) : Bool :=
  (upTo 16).any (fun q => q != part && (match readPart s q with | some r => r.en && (r.rows &&& rows) != 0 | none => false))

/-- Every die whose rows a mask names is ready (R455). -/
def rowsReady (s : State) (rows : Nat) : Bool :=
  (rows % 4096 == 0 || s.mgmt.ready.getLsbD 8) && (rows / 4096 % 4096 == 0 || s.mgmt.ready.getLsbD 9) &&
  (rows / 2 ^ 24 == 0 || s.mgmt.ready.getLsbD 13)

/-- Writes the device's bits of a record: ERR is bit 1, RUNNING bit 2. -/
def writePartFlags (s : State) (part flags : Nat) : State := deviceWrite s (partAddr s part + 6) 1 flags
def setPartErr (s : State) (part : Nat) : State :=
  match readPart s part with | some r => writePartFlags s part (r.flags ||| 2) | none => s

/-! ## Queue state blocks (R386 to R388) -/

/-- A block's reserved bytes and bits are zero, and LOG is in 4 to 16. -/
def blockLegal (bs : List Byte) : Bool :=
  decide (4 ≤ leAt bs 8 1) && decide (leAt bs 8 1 ≤ 16) && decide (leAt bs 9 1 < 4) && decide (leAt bs 10 2 < 4096) && zeroAt bs 12 4 &&
  zeroAt bs 48 16

/-- TAIL of a block as the sequencer has seen it (R387): reported stores, or the first reading. -/
def seenTail (s : State) (a : Nat) (bs : List Byte) : Dword := (kfind s.tails a).getD (BitVec.ofNat 64 (leAt bs 24 8))

/-- A packet waits in a block and may be taken: a timetabled one not on a device that has joined and is not locked (R453). -/
def packetAt (s : State) (bs : List Byte) (head : Nat) : Option (Option (List Byte)) :=
  let p := deviceBytes s (leAt bs 0 8 + 64 * (head % 2 ^ leAt bs 8 1)) 64
  match p with
  | some d => if s.mgmt.joined && leAt d 51 1 == 1 then none else some (some d)
  | none => some none

/-- Takes at most one packet from an active block (R387, R388, R391). -/
def takePacket (s : State) (part ctx a : Nat) (bs : List Byte) : State :=
  let head := leAt bs 16 8
  let ahead := (seenTail s a bs - BitVec.ofNat 64 head).toNat
  if 2 ^ leAt bs 8 1 < ahead then setPartErr s part
  else if ahead = 0 || companyLimit s ctx then s
  else match packetAt s bs head with
    | none => s
    | some d =>
      let s := (submit (deviceTouch s (leAt bs 0 8 + 64 * (head % 2 ^ leAt bs 8 1)) 64) ctx part none 0 d).2
      deviceWrite s (a + 16) 8 ((head + 1) % 2 ^ 64)

/-- A block has been detached: software has cleared ACTIVE, and the device has set DETACHED. -/
def blockDetached (bs : List Byte) : Bool := leAt bs 9 1 / 2 % 2 == 1

/-- Visits one block: of a detached one only NEXT is read; of another PASSGEN and DETACHED are written, an illegal one sets ERR (R386),
and a packet is taken from an active one of the context. -/
def visitBlock (s : State) (part ctx a : Nat) (bs : List Byte) : State :=
  if blockDetached bs then deviceTouch s (a + 32) 8
  else
    let active := leAt bs 9 1 % 2 == 1
    let s : State := { deviceTouch s a 64 with tails := kset s.tails a (seenTail s a bs) }
    let s := deviceWrite s (a + 40) 8 s.passNo.toNat
    let s := if active then s else deviceWrite s (a + 9) 1 (leAt bs 9 1 + 2)
    if !blockLegal bs then setPartErr s part
    else if active && leAt bs 10 2 % 4096 == ctx then takePacket s part ctx a bs else s

/-- Walks a chain of blocks through NEXT, each block once. -/
def walkBlocks (part ctx : Nat) : Nat → List Nat → Nat → State → State
  | 0, _, _, s => s
  | n + 1, seen, a, s =>
    if a = 0 || seen.contains a then s
    else match deviceBytes s a 64 with
      | none => s
      | some bs => walkBlocks part ctx n (a :: seen) (leAt bs 32 8) (visitBlock s part ctx a bs)

/-! ## Partition swap (R417, R418) -/

/-- Every troupe of a unit is to stop, or, with `force`, stops where it stands (R417, step 2). -/
def stopUnit (force : Bool) (s : State) (u : Nat) : State :=
  stopTroupes (quiesce s u) force ((s.troupes.filter (fun p => unitOf p.1 == u)).map (fun p => p.1))

/-- Work is still in flight on a unit that stops (R417, step 3). -/
def unitBusy (s : State) (u : Nat) : Bool :=
  stopBusy s u (fun k => unitOf k == u) (fun k => match s.ens k with | some e => e.unit == u | none => false)

/-- The outstanding sketches of a unit are squashed, and its entries are kept in their records (R368, R383, R417). -/
def squashUnit (s : State) (u : Nat) : State := saveRecords (squashAll s u) u (fun _ => true)

/-- The place that an outgoing context takes on a unit: the incoming one's, else the lowest free one of the die, else the
overflow area; none when there is none (R418). -/
def placeOut (s : State) (new u : Nat) : Option (Option Nat) :=
  match (s.savedUnits.find? (fun x => x.ctx == new && x.unit == u)).bind (fun x => x.place) with
  | some p => some (some p)
  | none =>
    let used := s.savedUnits.filterMap (fun x => if dieOf x.unit = dieOf u then x.place else none)
    match (if isGuide u then none else (upTo 24).find? (fun i => !used.contains i)) with
    | some i => some (some i)
    | none =>
      if (s.savedUnits.filter (fun x => x.place.isNone)).length < (s.shovf.extractLsb' 0 16).toNat then some none else none

/-- A core's state as a context takes it along: its port has settled, and its conflicts are counted (R223). -/
def leaveCore (now : Nat) (k : Core) : Core := { k with conflicts := conflictsNow now k, port := [] }

/-- The reservation table as a context takes it along: no pass is an eligible head while the context is away (R191). -/
def leaveTable (now : Nat) (l : List MatOp) : List MatOp :=
  l.map (fun o => { o with eligible := none, waited := o.waited + (now - o.eligible.getD now) })

/-- A unit's outgoing context. -/
def savedUnitOf (s : State) (ctx u : Nat) (place : Option Nat) : SavedUnit :=
  { ctx := ctx, unit := u, place := place, since := s.now, state := { s.tile u with rtab := leaveTable s.now (s.tile u).rtab },
    cores := (upTo 4).map (fun i => (4 * u + i, leaveCore s.now (s.core (4 * u + i)))),
    waiting := s.waitQ.filter (fun x => unitOf x.who.troupe == u),
    troupes := s.troupes.filter (fun p => unitOf p.1 == u), holds := s.holds.filter (fun p => unitOf p.1 == u),
    enss := s.enss.filter (fun p => p.2.unit == u), scratch := takeScratch s u 0 (granulesOf u), badScr := takeBad s u 0 (granulesOf u) }

/-- A core with the incoming context's state: handler slots, collector, deque, `fmt`, slot generations, the pushes held at its
queues and its counts of conflicts and bypasses. Its TLB and engine queues stay, and no frame is kept. `d` is how long the context
was away. -/
def enterCtxCore (d : Nat) (k inc : Core) : Core :=
  let late (t : Ticket) : Ticket := { t with arrived := t.arrived + d }
  { k with fmt := inc.fmt, fmtNext := inc.fmtNext, deque := inc.deque, collector := inc.collector.map late,
           hslots := inc.hslots.map (fun p => (p.1, p.2.map late)), gens := inc.gens, frames := [], plane := none, planeQueue := [],
           conflicts := inc.conflicts, bypass := inc.bypass, port := [], pushes := inc.pushes }

/-- A unit with the incoming context's state. Its L1 lines are dropped, and its TLB and its triangle setups stay: they are part of no
context (R432). -/
def enterUnit (now : Nat) (k inc : TileUnit) : TileUnit :=
  { k with l1 := { inc.l1 with ways := [] }, partials := [], rtab := inc.rtab, running := [], arrayFree := now, banks := inc.banks,
           tracked := inc.tracked }

/-- A troupe of the incoming context: the clock of PARKT did not run, its replay starts, and it may issue (R247, R417). -/
def resumeOnUnit (now d : Nat) (t : Troupe) : Troupe :=
  { t with stopping := false, stopped := false, woken := !t.replay.isEmpty, parkedAt := t.parkedAt.map (fun c => c + d), readyAt := now }

/-- A hold of the incoming context. -/
def resumeHold (d : Nat) (h : Hold) : Hold :=
  { h with wait := (match h.wait with | .cwait c since => .cwait c (since + d) | w => w) }

/-- Puts the incoming context on a unit that has been cleared: what was saved, or a unit on which it has never run. -/
def enterContext (s : State) (u : Nat) (inc : Option SavedUnit) : State :=
  match inc with
  | none =>
    let s := (upTo 4).foldl (fun s i => s.modCore (4 * u + i) (fun k => enterCtxCore 0 k { Core.init with gens := k.gens })) s
    s.modUnit u (fun k => enterUnit s.now k TileUnit.init)
  | some x =>
    let d := s.now - x.since
    let s := x.cores.foldl (fun s p => s.modCore p.1 (fun k => enterCtxCore d k p.2)) s
    let s := s.modUnit u (fun k => enterUnit s.now k x.state)
    let s := putCells { s with
      troupes := s.troupes ++ x.troupes.map (fun p => (p.1, resumeOnUnit s.now d p.2)),
      holds := s.holds ++ x.holds.map (fun p => (p.1, resumeHold d p.2)), enss := s.enss ++ x.enss, waitQ := s.waitQ ++ x.waiting,
      savedUnits := s.savedUnits.filter (fun y => !(y.ctx == x.ctx && y.unit == x.unit)) } (scrKey u 0) x.scratch x.badScr
    x.troupes.foldl (fun s p => resumeLate s p.1) s

/-- The overflow area takes a context in a unit of 8 MiB whose number and layout are open (R418): the device may write any byte of the
area (log 37). -/
def spoilOverflow (s : State) : State :=
  spoil s (s.shovf.toNat / 2 ^ 23 % 2 ^ 33 * 2 ^ 23) (2 ^ 23 * (s.shovf.toNat % 2 ^ 16))

/-- Exchanges the contexts of one unit; none when the outgoing one has no place (R418). -/
def exchangeUnit (s : State) (old new u : Nat) : Option State :=
  (placeOut s new u).map (fun place =>
    let s := if place.isNone then spoilOverflow (squashUnit s u) else squashUnit s u
    let out := savedUnitOf s old u place
    let inc := s.savedUnits.find? (fun x => x.ctx == new && x.unit == u)
    let s := clearScratch s u 0 (granulesOf u)
    enterContext { s with
      troupes := s.troupes.filter (fun p => unitOf p.1 != u), holds := s.holds.filter (fun p => unitOf p.1 != u),
      waitQ := s.waitQ.filter (fun x => unitOf x.who.troupe != u), enss := s.enss.filter (fun p => p.2.unit != u), savedUnits := s.savedUnits ++ [out] } u inc)

/-- Exchanges the contexts of a list of units. -/
def exchangeUnits (old new : Nat) : List Nat → State → Option State
  | [], s => some s
  | u :: us, s => match exchangeUnit s old new u with
    | none => none
    | some s => exchangeUnits old new us s

/-- The clock of GAPT did not run for a context while it was away (R417). -/
def shiftGaps (s : State) (ctx d : Nat) : State :=
  { s with sections := s.sections.map (fun e => if e.ctx = ctx then { e with gapStart := e.gapStart.map (fun c => c + d) } else e) }

/-- How long a context has been away. -/
def awayFor (s : State) (ctx : Nat) : Nat :=
  match s.savedUnits.find? (fun x => x.ctx == ctx) with | some x => s.now - x.since | none => 0

/-! ## Contexts and rows -/

/-- The rows of a mask. -/
def rowList (rows : Nat) : List Nat := (upTo 25).filter (fun r => Nat.testBit rows r)

/-- A context has state on some row, or in a saved context. -/
def ctxPresent (s : State) (ctx : Nat) : Bool := s.rowCtx.any (fun p => p.2 == ctx) || s.savedUnits.any (fun x => x.ctx == ctx)

/-- A context starts (R282): its scope table is empty. One that has state somewhere goes on. -/
def startCtx (s : State) (ctx : Nat) : State := if ctxPresent s ctx then s else s.modCtx ctx (fun c => { c with scopes := [] })

/-- The units of a list of rows hold the state of a context. -/
def holdRows (s : State) (ctx : Nat) (l : List Nat) : State := { s with rowCtx := l.foldl (fun m r => kset m r ctx) s.rowCtx }

/-- Drops every pin of a context at both levels (R268). -/
def dropPins (s : State) (ctx : Nat) : State :=
  let off (c : Cache) : Cache := { c with pins := c.pins.filter (fun p => p.ctx != ctx) }
  { s with units := s.units.map (fun p => (p.1, { p.2 with l1 := off p.2.l1 })), slices := s.slices.map (fun p => (p.1, off p.2)) }

/-- The rows whose units hold the state of a context. -/
def rowsHeld (s : State) (ctx : Nat) : List Nat := (s.rowCtx.filter (fun p => p.2 == ctx)).map (fun p => p.1)

/-- A context ends when its partition is disabled and it has no live company (log 37): its pins are released (R268), its ordered-section
entries go (R321), and the units and cores of every row that held it hold nothing of it (R21, R78, R139). -/
def endCtx (s : State) (ctx : Nat) : State :=
  if s.comps.any (fun p => p.2.ctx == ctx) || s.savedUnits.any (fun x => x.ctx == ctx) then s
  else
    let us := (rowsHeld s ctx).flatMap (fun r => unitsIn (2 ^ r))
    let s := us.foldl (fun s u => enterContext (clearScratch s u 0 (granulesOf u)) u none) (dropPins s ctx)
    { s with rowCtx := s.rowCtx.filter (fun p => p.2 != ctx), sections := s.sections.filter (fun e => e.ctx != ctx) }

/-- Rows of a mask whose units hold the state of another context. -/
def foreignRows (s : State) (ctx rows : Nat) : List (Nat × Nat) :=
  (rowList rows).filterMap (fun r => match kfind s.rowCtx r with | some c => if c = ctx then none else some (r, c) | none => none)

/-- The units of rows that another context left when its partition was disabled are given to a context, and what they held is saved
(R21; log 37): whether they have been, and the state afterwards. ERR is set when it cannot be placed. -/
def claimRows (s : State) (part ctx rows : Nat) : Bool × State :=
  let l := foreignRows s ctx rows
  let us := l.flatMap (fun p => unitsIn (2 ^ p.1))
  let s := us.foldl (stopUnit true) s
  if us.any (unitBusy s) then (false, s)
  else match l.foldl (fun (a : Option State) p => a.bind (exchangeUnits p.2 ctx (unitsIn (2 ^ p.1)))) (some s) with
    | none => (false, setPartErr s part)
    | some s => (true, s)

/-- A context that was saved on units which no context holds now comes back to them. -/
def returnTo (s : State) (ctx rows : Nat) : State :=
  (((rowList rows).filter (fun r => (kfind s.rowCtx r).isNone)).flatMap (fun r => unitsIn (2 ^ r))).foldl (fun s u =>
    match s.savedUnits.find? (fun x => x.ctx == ctx && x.unit == u) with
    | some x => enterContext s u (some x)
    | none => s) s

/-- The rows on which a partition runs a context now. -/
def runningRows (s : State) (part ctx : Nat) : Nat :=
  match kfind s.parts part with | some p => if p.running && p.ctx = ctx then p.rows else 0 | none => 0

/-- Starts a partition on the rows and the context of its record; RUNNING is set, and no other partition has those rows (R21). On the
units where the context starts or resumes, the triangle setups become invalid (R432). -/
def startPart (s : State) (part : Nat) (r : PartRec) : State :=
  let old := runningRows s part r.ctx
  let c := claimRows (startCtx s r.ctx) part r.ctx r.rows
  if !c.1 then c.2
  else
    let s := holdRows (returnTo c.2 r.ctx r.rows) r.ctx (rowList r.rows)
    let us := ((rowList r.rows).filter (fun i => !Nat.testBit old i)).flatMap (fun i => unitsIn (2 ^ i))
    let s := (us.filter isGuide).foldl (fun s u => s.modUnit u invalidateSetups) s
    let others := s.parts.map (fun p => (p.1, { p.2 with rows := p.2.rows - (p.2.rows &&& r.rows) }))
    writePartFlags { s with parts := kset others part { running := true, ctx := r.ctx, rows := r.rows, refused := none, holds := [] } }
      part (r.flags ||| 4)

/-- PARTITION_SWAP (R417, R418): refused, with ERR, when an outgoing context cannot be placed. Every troupe of the partition is to stop,
and once nothing that this awaits is in flight the contexts are exchanged. A swap that has begun goes on to the context with which it
began. -/
def execPartitionSwap (part : Nat) (s : State) : Res :=
  match kfind s.parts part, readPart s part with
  | some p, some r =>
    let new := p.incoming.getD r.ctx
    let us := unitsIn p.rows
    let refuse (s : State) : State :=
      setPartErr { s with parts := kset s.parts part { p with refused := some new, incoming := none } } part
    let letGo (s : State) : State := goOn s ((s.troupes.filter (fun q => us.contains (unitOf q.1))).map (fun q => q.1))
    if p.ctx = new then .next s
    else if !p.running then .next (letGo { s with parts := kset s.parts part { p with incoming := none } })
    else if p.incoming.isNone && (exchangeUnits p.ctx new us s).isNone then .next (refuse s)
    else
      let s := us.foldl (stopUnit false) { s with parts := kset s.parts part { p with incoming := some new } }
      if us.any (unitBusy s) then .next (s.schedule (s.now + 1) (.partitionSwap part))
      else match exchangeUnits p.ctx new us (shiftGaps (startCtx s new) new (awayFor s new)) with
        | none => .next (refuse (letGo s))
        | some s => .next (startPart (holdRows s new (rowList p.rows)) part { r with ctx := new })
  | _, _ => .next s

/-! ## A pass (R385, R388) -/

/-- A partition whose record is no longer enabled stops, and its context ends when it has no live company. -/
def stopPart (s : State) (part : Nat) (r : PartRec) : State :=
  match kfind s.parts part with
  | some p => if p.running then
      writePartFlags (endCtx { s with parts := kset s.parts part { p with running := false } } p.ctx) part (r.flags % 8 - r.flags / 4 % 2 * 4)
    else s
  | none => s

/-- The device has been drained, and takes no partition (R453). -/
def isDrained (s : State) : Bool := s.mgmt.drained.contains s.mgmt.deviceNo.toNat

/-- Passes over one partition. -/
def passPart (s : State) (part : Nat) : State :=
  match readPart s part with
  | none => s
  | some r =>
    let s := deviceTouch s (partAddr s part) 64
    if !r.en then stopPart s part r
    else if !r.legal || rowsClash s part r.rows || !rowsReady s r.rows then setPartErr s part
    else
      match kfind s.parts part with
      | none => if isDrained s then s else walkBlocks part r.ctx (2 ^ 50) [] r.qhead (startPart s part r)
      | some p =>
        if p.incoming.isSome then s
        else if p.running && p.ctx ≠ r.ctx then (if p.refused = some r.ctx then s else s.schedule s.now (.partitionSwap part))
        else if !p.running && isDrained s then s
        else walkBlocks part r.ctx (2 ^ 50) [] r.qhead (if p.running && p.rows = r.rows then s else startPart s part r)

/-- SEQUENCER_PASS (R388): a pass over one partition; PASS counts when all sixteen have had theirs, and the walk goes on. -/
def execSequencerPass (part : Nat) (s : State) : Res :=
  if !s.seqEn then .next s
  else
    let s := passPart s part
    let s : State := if part = 15 then { s with passNo := s.passNo + 1 } else s
    let d := s.drawTime 1
    .next (d.2.schedule d.1 (.sequencerPass ((part + 1) % 16)))

/-- TAIL_REPORT (R387): the sequencer sees the TAIL of a block. -/
def execTailReport (block : Nat) (s : State) : Res :=
  match deviceBytes s block 64 with
  | none => .next s
  | some bs => .next { s with tails := kset s.tails block (BitVec.ofNat 64 (leAt bs 24 8)) }

end Sys2Proof.Machine
end

