-- ==== Sys2Proof/Machine/Frames.lean ====
section
/-! DEFINITION. Timetables as they run, the frame counter and frame lock, the governor and the presenter (18_schedule R397 to R399;
21_frames R444 to R452). -/

namespace Sys2Proof.Machine

/-! ## Timetables (R398) -/

/-- The tick of the frame that a timetable runs (R394). -/
def Timetable.tick (tt : Timetable) (now : Nat) : Nat := now - tt.start

/-- The ensembles of a company. -/
def enssOf (s : State) (comp : Nat) : List (Nat × Ensemble) := s.enss.filter (fun p => p.2.comp == comp)

/-- Every troupe of a company has exited, on its units or in a pre-empted context (R399). -/
def allExited (s : State) (comp : Nat) : Bool := ((keptEnss s).filter (fun p => p.2.comp == comp)).all (fun p => p.2.troupes.isEmpty)

/-- A timetable begins the current frame; `held` when the frame before overran (R398). -/
def beginFrame (s : State) (comp : Nat) (held : Bool) : State :=
  s.modTt comp (fun tt =>
    { tt with frame := s.frame.number, start := s.frame.start, step := 0, released := false, held := held, dropped := [],
              switched := [], done := [], finished := false, missed := false, overrun := false })

/-- The next step of a timetable is due for release. -/
def releaseDue (s : State) (comp : Nat) (c : Company) : Bool :=
  match c.tt with
  | none => false
  | some tt => tt.admitted && !tt.finished && !tt.released && s.frame.en && compRuns s c && !allExited s comp &&
    (match tt.steps[tt.step]? with | some x => decide (x.release ≤ tt.tick s.now) | none => false)

/-- The words of CUE for a step (R394). -/
def cueBytes (tt : Timetable) (x : TStep) : List Byte :=
  numBytes 2 tt.step ++ numBytes 2 0 ++ numBytes 4 tt.frame.toNat ++ numBytes 8 (if tt.switched.contains tt.step then x.alt.toNat else 0)

/-- STEP_RELEASE (R398): a late release makes a slip record; CUE is written, and then semaphore 0 of each ensemble counts. -/
def execStepRelease (comp : Nat) (s : State) : Res :=
  match s.comp comp with
  | none => .next s
  | some c => match c.tt with
    | none => .next s
    | some tt =>
      if !releaseDue s comp c then .next s
      else match tt.steps[tt.step]? with
        | none => .next s
        | some x =>
          let late := decide (x.release < tt.tick s.now) || (tt.held && tt.done.isEmpty)
          let s := if late then makeSlip s comp c tt.frame tt.step 0 else s
          let s := writeRecord s c (tt.addr + 48) (cueBytes tt x)
          let s := (enssOf s comp).foldl (fun s p => s.modEns p.1 (fun e =>
            e.setSem 0 { e.sem 0 with count := (e.sem 0).count + 1 })) s
          .next (s.modTt comp (fun tt => { tt with released := true, phases := (enssOf s comp).map (fun p => (p.1, (p.2.bar 0).phases)) }))

/-- The released step of a timetable has completed: barrier 0 of every ensemble has completed its phase. -/
def completionDue (s : State) (comp : Nat) (c : Company) : Bool :=
  match c.tt with
  | none => false
  | some tt => tt.released && compRuns s c && (enssOf s comp).all (fun p => kfind tt.phases p.1 != some (p.2.bar 0).phases)

/-- The sum of BUDGET over some steps. -/
def budgets (tt : Timetable) (l : List Nat) : Nat := l.foldl (fun n k => n + (match tt.steps[k]? with | some x => x.budget | none => 0)) 0

/-- The steps after the given one that have not been dropped. -/
def stepsAfter (tt : Timetable) (k : Nat) : List Nat := (upTo tt.steps.length).filter (fun i => decide (k < i) && !tt.dropped.contains i)

/-- The DROP rank of a step; the last step has none. -/
def dropRank (tt : Timetable) (k : Nat) : Nat :=
  if k + 1 = tt.steps.length then 0 else match tt.steps[k]? with | some x => x.drop | none => 0

/-- The governor's decision at a boundary, at tick t after the current step (R447, R448). -/
def govern (tt : Timetable) (t : Nat) : Timetable :=
  let rem := stepsAfter tt tt.step
  let bd := budgets tt (tt.done.map (fun p => p.2))
  if rem.isEmpty || t * (bd + budgets tt rem) ≤ (tt.deadline - tt.margin) * bd then tt
  else match leastBy (dropRank tt) (rem.filter (fun k => dropRank tt k != 0)) with
    | none => tt
    | some j =>
      let left := rem.filter (fun k => k != j)
      let alt := match (left.filter (fun k => decide (k < j))).getLast? with
        | some k => some k
        | none => left.head?
      { tt with dropped := tt.dropped ++ [j], switched := tt.switched ++ (match alt with | some k => [k] | none => []) }

/-- The frames that a held frame has skipped (R398). -/
def skippedFrames (s : State) (tt : Timetable) : List Word :=
  (upTo (s.frame.number - tt.frame - 1).toNat).map (fun i => tt.frame + 1 + BitVec.ofNat 32 i)

/-- STEP_COMPLETION (R398, R447): the governor decides; the last step of an overrun frame ends it, and the current frame
begins, held. -/
def execStepCompletion (comp : Nat) (s : State) : Res :=
  match s.comp comp with
  | none => .next s
  | some c => match c.tt with
    | none => .next s
    | some tt =>
      if !completionDue s comp c then .next s
      else
        let t := tt.tick s.now
        let tt := govern { tt with done := tt.done ++ [(t, tt.step)], released := false } t
        match (stepsAfter tt tt.step).head? with
        | some k => .next (s.modTt comp (fun _ => { tt with step := k }))
        | none =>
          let s := s.modTt comp (fun _ => { tt with finished := true })
          if tt.overrun then
            let s := (skippedFrames s tt).foldl (fun s n => makeSlip s comp c n 0 3) s
            .next (beginFrame s comp true)
          else .next s

/-- A timetable ends the cycle of tick DEADLINE with its last step not complete. -/
def deadlinePassed (s : State) (tt : Timetable) : Bool :=
  tt.admitted && !tt.finished && !tt.missed && s.frame.en && decide (tt.deadline ≤ tt.tick s.now)

/-- DEADLINE_MISS (R449): a fault of the frame on every output bound to the context at its scan-out. -/
def execDeadlineMiss (comp : Nat) (s : State) : Res :=
  match s.comp comp with
  | none => .next s
  | some c => match c.tt with
    | none => .next s
    | some tt =>
      if deadlinePassed s tt then .next (failFrame (s.modTt comp (fun tt => { tt with missed := true })) c.ctx tt.frame) else .next s

/-! ## Admission in lock step (R397) -/

/-- A company as a waiter, whatever its timetable. -/
def lockWaiter (s : State) (id : Nat) (c : Company) : Waiter :=
  { readmit := false, key := id, prio := c.desc.prio, cls := 2, age := c.order, since := c.since, rows := placeRows s c.part c.desc,
    room := roomOf c.desc }

/-- The units open to an ensemble of a timetabled company: its placed unit, or those of its rows; units that an older
waiting company holds, and rows closed by a hold of R400, are not. -/
def lockUnits (s : State) (id : Nat) (c : Company) (tt : Timetable) (linear : Nat) : List Nat :=
  let held := s.comps.flatMap (fun p => if p.2.order < c.order then unitsHeld s p.2 else [])
  let closed := closedRows s c.part (lockWaiter s id c)
  let l := if tt.place.isEmpty then unitsIn (placeRows s c.part c.desc) else [tt.place.getD linear 0]
  l.filter (fun u => !held.contains u && !Nat.testBit closed (rowOfUnit u))

/-- Admits ensembles of a timetabled company one after the other; none when one finds no room. -/
def admitLock (id : Nat) (c : Company) (tt : Timetable) : List Nat → State → Option State
  | [], s => some s
  | i :: rest, s =>
    let l := (lockUnits s id c tt i).filterMap (fun u => (unitRoom s u (roomOf c.desc)).map (fun r => (u, r.1, r.2)))
    match l[Config.pick s.draws % max 1 l.length]? with
    | none => none
    | some (u, slots, base) => admitLock id c tt rest (admitAt { s with draws := s.draws + 1 } id c i u slots base)

/-- A timetabled company at a frame start: every ensemble is admitted, or the company waits and holds its units (R397). -/
def admitCompany (s : State) (id : Nat) : State :=
  match s.comp id with
  | none => s
  | some c => match c.tt with
    | none => s
    | some tt =>
      if tt.admitted || !compRuns s c then s
      else match admitLock id c tt (upTo c.total) s with
        | none => s.modTt id (fun tt => { tt with waiting := true })
        | some s =>
          beginFrame ((s.modComp id (fun c => { c with next := c.total })).modTt id (fun tt => { tt with admitted := true, waiting := false, zero := s.now })) id false

/-! ## The presenter (R450 to R452) -/

/-- A finite f16 in units of 2^−24; none for an infinity or a NaN. -/
def f16Fixed (h : Nat) : Option Int :=
  let e := h / 1024 % 32
  let m := h % 1024
  if e = 31 then none
  else
    let v : Nat := if e = 0 then m else (1024 + m) * 2 ^ (e - 1)
    some (if h / 32768 % 2 = 1 then -(v : Int) else (v : Int))

/-- A number in units of 2^−24, rounded to the nearest integer, ties to even. -/
def roundFixed (v : Int) : Int :=
  let q := v / 16777216
  let r := v % 16777216
  if 8388608 < r || (r = 8388608 && q % 2 != 0) then q + 1 else q

/-- The coordinate from which a substituted pixel is read (R452). -/
def sourceAt (x n : Nat) (d : Int) : Nat := (max 0 (min (roundFixed ((x : Int) * 16777216 + d)) ((n : Int) - 1))).toNat

/-- The source of pixel (x, y) of a substituted frame, from its guide pixel of the motion buffer (R440, R452). -/
def sourcePixel (s : State) (mv w h x y : Nat) : Nat × Nat :=
  let a := mv + 16 * (y * w + x)
  let prim := physNat s 0 a 4
  let m := physNat s 0 (a + 12) 4
  match f16Fixed (m % 65536), f16Fixed (m / 65536) with
  | some dx, some dy => if prim = 0xFFFFFFFF then (x, y) else (sourceAt x w dx, sourceAt y h dy)
  | _, _ => (x, y)

/-- The last frame sent, reprojected (R452). -/
def reproject (s : State) (o : Output) (img : Image) : Image :=
  let w := (o.cfg.extractLsb' 0 13).toNat + 1
  let h := (o.cfg.extractLsb' 13 13).toNat + 1
  { width := w, height := h, format := (o.cfg.extractLsb' 26 3).toNat,
    pixels := (upTo (w * h)).map (fun i =>
      let p := sourcePixel s o.mv.toNat w h (i % w) (i / w)
      img.pixels.getD (p.2 * img.width + p.1) 0) }

/-- An image as it is sent: its red, green and blue, of 8 or 10 bits each, without alpha (R450). -/
def sentImage (img : Image) : Image :=
  { img with pixels := img.pixels.map (fun p => p &&& (if img.format = 0 then 0xFFFFFF else 0x3FFFFFFF)) }

/-- Scans out frame f on one output (R452). -/
def scanOutput (s : State) (f : Word) (o : Output) : Bool × Output :=
  let done : Output := { o with presents := o.presents.filter (fun p => p.1 != f) }
  let substitute : Bool × Output := (true, { done with last := o.last.map (reproject s o), substituted := o.substituted ++ [f] })
  if !o.cfg.getLsbD 32 then (false, done)
  else match o.presents.find? (fun p => p.1 == f) with
    | some p => if s.frame.failed.contains ((o.cfg.extractLsb' 48 12).toNat, f) then substitute
        else (false, { done with last := some (sentImage p.2) })
    | none => substitute

/-- Scans out frame f on every output; SUBST counts the substituted frames. -/
def scanOutAll (s : State) (f : Word) : State :=
  let l := s.outputs.map (fun p => (p.1, scanOutput s f p.2))
  { s with outputs := l.map (fun p => (p.1, p.2.2)),
           frame := { s.frame with subst := s.frame.subst + BitVec.ofNat 32 (l.filter (fun p => p.2.1)).length,
                                   failed := s.frame.failed.filter (fun x => x.2 != f) } }

/-! ## The frame counter (R444 to R446) -/

/-- The counter has reached the frame's length. -/
def frameDue (s : State) : Bool := s.frame.en && decide (s.frame.start + s.frame.length ≤ s.now)

/-- A skew as a magnitude. -/
def skewSize (k : Word) : Nat := k.toInt.natAbs

/-- The length of the frame that starts now: PERIOD; while the device seeks lock, up to PERIOD / 1,024 cycles more or less
towards the master (R446, log 12). -/
def nextLength (s : State) : Nat :=
  let p := s.frame.period
  if s.frame.lock && !s.frame.locked && s.frame.master != s.mgmt.deviceNo.toNat then
    let a := Config.pick s.draws % (min (skewSize s.frame.skew) (p / 1024) + 1)
    if s.frame.skew.toInt < 0 then p + a else p - a
  else p

/-- A running timetable at a frame start: a finished one begins the frame; an unfinished one overruns. Frames that start
while the partition runs another context are skipped (R398, R399). -/
def frameForTt (s : State) (id : Nat) : State :=
  match s.comp id with
  | none => s
  | some c => match c.tt with
    | none => s
    | some tt =>
      if !tt.admitted then s
      else if tt.finished || allExited s id then
        (if compRuns s c then beginFrame s id false else failFrame (makeSlip s id c s.frame.number 0 3) c.ctx s.frame.number)
      else s.modTt id (fun tt => { tt with overrun := true })

/-- Frames that a held timetable has skipped fail on its outputs at their scan-out (R398, R449). -/
def failSkipped (s : State) (f : Word) : State :=
  s.comps.foldl (fun s p => match p.2.tt with
    | some tt => if tt.admitted && tt.overrun && tt.frame != f then failFrame s p.2.ctx f else s
    | none => s) s

/-- The lock master, as far as the device knows the domain: the lowest-numbered of itself and of the others with EN and LOCK that have not
been removed (R446; log 38). -/
def lockMaster (s : State) : Nat :=
  let own := s.mgmt.deviceNo.toNat
  ((if s.mgmt.member then Config.lockPeers s.draws else []).filter (fun d => decide (d < 144) && !s.mgmt.drained.contains d)).foldl min own

/-- The master at a frame start: when it has left the domain, the next lowest-numbered device (R446). -/
def nextMaster (s : State) : Nat :=
  if s.frame.lock && s.mgmt.drained.contains s.frame.master then lockMaster s else s.frame.master

/-- FRAME_START (R445): the frame that ends is scanned out, NUMBER advances, and timetables begin their frame or are
admitted. -/
def execFrameStart (s : State) : Res :=
  if !s.frame.en then .next s
  else
    let f := s.frame.number
    let s := scanOutAll (failSkipped s f) f
    let s : State := { s with frame := { s.frame with master := nextMaster s } }
    let own := s.frame.lock && s.frame.master == s.mgmt.deviceNo.toNat
    let s := { s with draws := s.draws + 1,
                      frame := { s.frame with number := f + 1, start := s.now, length := nextLength s,
                                              locked := s.frame.locked || own, skew := if own then 0 else s.frame.skew,
                                              lastMeasure := if own then s.now else s.frame.lastMeasure },
                      mgmt := { s.mgmt with joined := s.mgmt.joined && !own } }
    let ids := s.comps.map (fun p => p.1)
    .next (ids.foldl admitCompany (ids.foldl frameForTt s))

/-- LOCK_MEASUREMENT (R446): the device learns its master and its offset from it. A device that runs and takes part is master itself
when its number is lower than that of the device that measured. -/
def execLockMeasurement (master : Nat) (skew : BitVec 32) (s : State) : Res :=
  if !s.frame.lock || (s.frame.en && decide (s.mgmt.deviceNo.toNat < master)) then .next s
  else
    let k := skewSize skew
    let locked := if 180 < k then false else s.frame.locked || decide (k ≤ 90)
    .next { s with frame := { s.frame with master := master, skew := skew, lastMeasure := s.now, locked := locked,
                                           lost := s.frame.lost || decide (180 < k) },
                   mgmt := { s.mgmt with joined := s.mgmt.joined && !locked } }

/-- No measurement for 1 ms, on a device that is not the master. -/
def lockOverdue (s : State) : Bool :=
  s.frame.lock && s.frame.en && s.frame.master != s.mgmt.deviceNo.toNat && decide (s.frame.lastMeasure + 1800000 ≤ s.now)

/-- LOCK_LOSS (R446). -/
def execLockLoss (s : State) : Res :=
  if lockOverdue s then .next { s with frame := { s.frame with locked := false, lost := true, lastMeasure := s.now } } else .next s

end Sys2Proof.Machine
end

