-- ==== Sys2Proof/Machine/Services.lean ====
section
/-! DEFINITION. Device services (21_frames R443, R453 to R457): power, readiness, boot, SPDM, key slots, drain and join, reset; and
writes of the device's register blocks (00_scope R6; 18_schedule R384; 19_traps R418, R422, R423; 21_frames R445, R450). -/

namespace Sys2Proof.Machine

/-! ## Power and readiness (R454, R455) -/

/-- POWER_THROTTLE (R454): grants of matrix passes, or acceptance of vector operations, are held until a cycle; THROTTLE counts
the held cycles. -/
def execPowerThrottle (vec : Bool) (until_ : Nat) (s : State) : Res :=
  let from_ := max s.now (max s.mgmt.matHold s.mgmt.vecHold)
  let m := { s.mgmt with throttle := s.mgmt.throttle + BitVec.ofNat 32 (until_ - from_) }
  .next { s with mgmt := if vec then { m with vecHold := max m.vecHold until_ } else { m with matHold := max m.matHold until_ } }

/-- FUNCTION_READY (R455): a function that its boot stage has brought up sets its bit; the management port is there in recovery too
(R456). FLOCK and KEYS follow LOCKED and key slot 0. -/
def execFunctionReady (bit : Nat) (s : State) : Res :=
  if 33 ≤ bit || (bit ≠ 32 && (s.mgmt.recovery || s.mgmt.bootNext ≤ Config.stageOf bit)) then .next s
  else .next { s with mgmt := { s.mgmt with ready := s.mgmt.ready ||| BitVec.ofNat 35 (2 ^ bit) } }

/-! ## Boot (R456) -/

/-- The image passes the checks of its stage: both signatures verify under keys whose digests are fused, and its version is at least the
fused one; the boot ROM is the root and is not checked. -/
def imagePasses (index : Nat) (x : BootImage) : Bool :=
  index == 0 || (x.rsaOk && x.slhOk && decide (Config.fusedVersion index ≤ x.version))

/-- BOOT_STAGE (R456): the next stage is verified, measured and run, or the controller stays in recovery. The first stage
loads key slot 0 (R240). An image that an update has put in place is the one that boots. -/
def execBootStage (index : Nat) (image : BootImage) (s : State) : Res :=
  let m := s.mgmt
  let x := (kfind m.firmware index).getD image
  if m.recovery || index ≠ m.bootNext || 5 < index then .next s
  else if imagePasses index x then
    let s := if index = 0 then { s with keys := kset s.keys 0 { loaded := true, key := Config.bootKey s.draws }, draws := s.draws + 1 } else s
    let digest := if index = 0 then Config.fusedDigest else x.digest
    let m := { m with measurements := kset m.measurements index (Config.extend (kget 0 m.measurements index) digest) }
    .next { s with mgmt := { m with bootNext := index + 1, log := m.log ++ [(index, digest)] } }
  else .next { s with mgmt := { m with recovery := true } }

/-- FIRMWARE_UPDATE (R456): available in recovery; the image stands at the next boot. The boot ROM is no firmware. -/
def execFirmwareUpdate (index : Nat) (image : BootImage) (s : State) : Res :=
  if s.mgmt.recovery && index ≠ 0 then .next { s with mgmt := { s.mgmt with firmware := kset s.mgmt.firmware index image } } else .next s

/-- DEVICE_RESET (R443): `clk64` starts from 0 and boot begins; only updated images outlast it. -/
def execDeviceReset (s : State) : Res :=
  .next { State.reset with draws := s.draws, mgmt := { Mgmt.init with firmware := s.mgmt.firmware } }

/-! ## SPDM (R457)

The response codes and the bodies are those of DMTF SPDM 1.3 (log 13): a body that the manual does not give is free. -/

/-- A response: its code, then a body of 384 bits. -/
def respond (s : State) (code : Nat) (body : BitVec 384) : State :=
  { s with mgmt := { s.mgmt with response := BitVec.ofNat 64 code :: (upTo 6).map (fun i => body.extractLsb' (64 * i) 64) } }

/-- An ERROR response. -/
def spdmError (s : State) : State := respond s 0x7F 0

/-- A response whose body SPDM gives. -/
def spdmAnswer (s : State) (code operand : Nat) : State := respond s code (Config.spdmBody code operand)

/-- A response of which the manual gives a part: the first 64 bits of its body (R457; the numbers are those of SPDM, log 13). -/
def spdmGiven (s : State) (code : Nat) (low : BitVec 64) : State :=
  respond s code ((Config.spdmBody code 0 >>> 64 <<< 64) ||| low.setWidth 384)

/-- The version served, SPDM 1.3; and the signing algorithm, RSASSA-PSS 3072 in bits [31:0] with SHA-384 in bits [63:32], each as SPDM's
selection bit. -/
def spdmVersionEntry : BitVec 64 := 0x1300
def spdmAlgorithm : BitVec 64 := 2 ^ 32 * 2 + 8

/-- A request that needs the algorithms to be negotiated. -/
def spdmReady (s : State) (k : State) : Res := .next (if s.mgmt.spdmAlgs then k else spdmError s)

/-- GET_VERSION: the exchange begins anew. -/
def execGetVersion (s : State) : Res :=
  .next (spdmGiven { s with mgmt := { s.mgmt with spdmVersion := true, spdmCaps := false, spdmAlgs := false, handshake := none,
                                                  session := none } } 0x04 spdmVersionEntry)
/-- GET_CAPABILITIES. -/
def execGetCapabilities (s : State) : Res :=
  .next (if s.mgmt.spdmVersion then spdmAnswer { s with mgmt := { s.mgmt with spdmCaps := true } } 0x61 0 else spdmError s)
/-- NEGOTIATE_ALGORITHMS. -/
def execNegotiateAlgorithms (s : State) : Res :=
  .next (if s.mgmt.spdmCaps then spdmGiven { s with mgmt := { s.mgmt with spdmAlgs := true } } 0x63 spdmAlgorithm else spdmError s)
/-- GET_DIGESTS. -/
def execGetDigests (s : State) : Res := spdmReady s (spdmAnswer s 0x01 0)
/-- GET_CERTIFICATE. -/
def execGetCertificate (slot : Nat) (s : State) : Res := spdmReady s (spdmAnswer s 0x02 slot)
/-- CHALLENGE. -/
def execChallenge (nonce : BitVec 256) (s : State) : Res := spdmReady s (spdmAnswer s 0x03 nonce.toNat)
/-- GET_MEASUREMENTS: blocks 0 to 5 are the measurements of the boot stages. -/
def execGetMeasurements (block : Nat) (s : State) : Res :=
  spdmReady s (if block ≤ 5 then respond s 0x60 (kget 0 s.mgmt.measurements block) else spdmError s)
/-- KEY_EXCHANGE. -/
def execKeyExchange (session : BitVec 32) (s : State) : Res :=
  spdmReady s (spdmAnswer { s with mgmt := { s.mgmt with handshake := some session } } 0x64 session.toNat)
/-- FINISH: the session of the handshake is established. -/
def execFinish (session : BitVec 32) (s : State) : Res :=
  .next (if s.mgmt.handshake = some session then
      spdmAnswer { s with mgmt := { s.mgmt with handshake := none, session := some session } } 0x65 session.toNat
    else spdmError s)
/-- END_SESSION. -/
def execEndSession (session : BitVec 32) (s : State) : Res :=
  .next (if s.mgmt.session = some session then spdmAnswer { s with mgmt := { s.mgmt with session := none } } 0x6C session.toNat
    else spdmError s)

/-! ## Key slots (R240, R457) -/

/-- Every slice line tagged with a key slot is written back and dropped. -/
def dropSlot (s : State) (slot : Nat) : State :=
  let sl := s.slices.map (fun p => (p.1, { p.2 with ways := p.2.ways.filter (fun w => w.key != slot) }))
  { s with slices := sl, replicas := liveReplicas sl s.replicas }

/-- Changes the key of a slot 1 to 255 inside the established session; any other command is refused. -/
def changeKey (s : State) (session : BitVec 32) (slot : Nat) (k : KeySlot) : State :=
  if s.mgmt.session = some session && 1 ≤ slot && slot ≤ 255 then { dropSlot s slot with keys := kset s.keys slot k }
  else spdmError s

/-- KEY_SLOT_LOAD (R457). -/
def execKeySlotLoad (session : BitVec 32) (load : KeyLoad) (s : State) : Res :=
  .next (changeKey s session load.slot { loaded := true, key := load.key })
/-- KEY_SLOT_CLEAR (R457). -/
def execKeySlotClear (session : BitVec 32) (slot : Nat) (s : State) : Res := .next (changeKey s session slot { loaded := false, key := 0 })

/-! ## Replacing a device (R453) -/

/-- DEVICE_DRAIN (R453): a device leaves the domain; the collectives of the domain that wait for it complete with STATUS 4. -/
def execDeviceDrain (device : Nat) (s : State) : Res :=
  let waits (p : Nat × Core) : Bool := match headCmd s p.1 3 with | some c => awaitsPeers s 3 c.words | none => false
  let s' : State := { s with mgmt := { s.mgmt with drained := s.mgmt.drained ++ (if s.mgmt.drained.contains device then [] else [device]) } }
  .next ((s.cores.filter waits).foldl (fun s p => startHead s p.1 3) s')

/-- DEVICE_JOIN (R453): a device joins with a number. It is this one when this one is in no domain or has been drained. -/
def execDeviceJoin (device : Nat) (s : State) : Res :=
  let left := s.mgmt.drained.filter (fun d => d != device)
  if !s.mgmt.member || isDrained s then
    .next { s with mgmt := { s.mgmt with
      drained := left.filter (fun d => d != s.mgmt.deviceNo.toNat), member := true, joined := !s.frame.locked,
      deviceNo := BitVec.ofNat 8 device } }
  else .next { s with mgmt := { s.mgmt with drained := left } }

/-! ## Register blocks -/

/-- The sequencer's first register (R384): setting EN starts the walk. -/
def writePtbase (s : State) (v : Dword) : State :=
  let on := v.getLsbD 0
  let keep := s.agenda.filter (fun p => match p.2 with | .sequencerPass _ => false | _ => true)
  let s' : State := { s with ptbase := v &&& 0xFFFFFFFFFFFC00, seqEn := on }
  if on && !s.seqEn then { s' with agenda := keep }.schedule s.now (.sequencerPass 0) else s'

/-- The events of the debug commands (R423). -/
def debugEvent : Nat → Option Instr
  | 1 => some .debugHalt
  | 2 => some .resume
  | 3 => some .stepDbg
  | 4 => some .qread
  | 5 => some .qwrite
  | 6 => some .gread
  | 7 => some .debugGwrite
  | 8 => some .sread
  | 9 => some .swrite
  | _ => none

/-- A write of DBGCMD (R422, R423): the command runs, busy until it has; other values set ERR 2, or 3 for KIND 3. -/
def writeDbgcmd (s : State) (cmd : Nat) : State :=
  match debugEvent cmd with
  | some i => ({ s with dbg := { s.dbg with busy := true } }).schedule s.now i
  | none => debugEnd s (if (debugKey s).isNone then 3 else 2)

/-- While the frame counter does not run, no timetabled company waits for a frame start (R397). -/
def unwait (s : State) : State :=
  { s with comps := s.comps.map (fun p => (p.1, { p.2 with tt := p.2.tt.map (fun tt => { tt with waiting := false }) })) }

/-- The frame block's first register (R445): NUMBER and TICK hold at 0 while EN is 0, and start when it is set. A device that comes to
run and take part knows its master (R446). -/
def writePeriod (s : State) (v : Dword) : State :=
  let p := max 1800 (v.extractLsb' 0 32).toNat
  let en := v.getLsbD 32
  let f := { s.frame with period := p, en := en, lock := v.getLsbD 33,
                          lastMeasure := if v.getLsbD 33 && !s.frame.lock then s.now else s.frame.lastMeasure }
  let joins := en && v.getLsbD 33 && !(s.frame.en && s.frame.lock)
  let f := if joins then { f with master := lockMaster s } else f
  let s := if joins then { s with draws := s.draws + 1 } else s
  if !en then unwait { s with frame := { f with number := 0, start := s.now, length := p } }
  else { s with frame := if s.frame.en then f else { f with number := 0, start := s.now, length := p } }

/-- An output's registers (R450): FORMAT 2 to 7 store as 0. -/
def writeOutput (s : State) (o : Nat) (second : Bool) (v : Dword) : State :=
  let x := kget Output.init s.outputs o
  let cfg := v &&& 0x0FFF00011FFFFFFF
  let cfg := if 1 < (cfg.extractLsb' 26 3).toNat then cfg &&& 0x0FFF000103FFFFFF else cfg
  { s with outputs := kset s.outputs o (if second then { x with mv := v &&& 0xFFFFFFFFFFFFF0 } else { x with cfg := cfg }) }

/-- A write of a 64-bit register of the blocks; read-only fields and unassigned offsets ignore it (R6, R7). -/
def writeBlock (s : State) (pa : Nat) (v : Dword) : State :=
  match pa - 0xFFFFFE00000000 with
  | 0x0000 => writePtbase s v
  | 0x0010 => { s with shovf := v &&& 0xFFFFFFFF80FFFF }
  | 0x1000 => { s with dbg := { s.dbg with en := v.getLsbD 12, ctx := (v.extractLsb' 0 12).toNat } }
  | 0x1008 => { s with dbg := { s.dbg with sel := v &&& 0x1FFFFFFF } }
  | 0x1010 => writeDbgcmd s (v.extractLsb' 0 4).toNat
  | 0x1018 => { s with dbg := { s.dbg with data := v } }
  | 0x2000 => writePeriod s v
  | 0x2008 => { s with frame := { s.frame with lost := s.frame.lost && !v.getLsbD 33 } }
  | off =>
    if 0x2100 ≤ off && off < 0x2180 && off % 8 = 0 then writeOutput s ((off - 0x2100) / 16) (off % 16 == 8) v else s

/-- The register value that a write of n bytes at an address makes: its other bytes stay as they are, and those of a register
whose bits are cleared by writing 1 are 0 (R6). -/
def mergeReg (s : State) (pa n : Nat) (v : Dword) : Dword :=
  let a := pa / 8 * 8
  let k := 8 * (pa % 8)
  let mask : Dword := BitVec.ofNat 64 ((2 ^ (8 * n) - 1) * 2 ^ k)
  ((if a = 0xFFFFFE00002008 then 0 else blockRead s a) &&& ~~~mask) ||| (BitVec.ofNat 64 (v.toNat * 2 ^ k) &&& mask)

/-- REGISTER_WRITE (R6): n bytes of a register. A narrow write that leaves the byte of CMD out gives no command. -/
def execRegisterWrite (pa : Nat) (data : RegData) (s : State) : Res :=
  if inBlocks pa then
    if data.n = 8 then .next (writeBlock s pa data.v)
    else if pa / 8 * 8 = 0xFFFFFE00001010 && pa % 8 ≠ 0 then .next s
    else .next (writeBlock s (pa / 8 * 8) (mergeReg s pa data.n data.v))
  else .next s

end Sys2Proof.Machine
end

