-- ==== Sys2Proof/Machine/Clock.lean ====
section
/-! DEFINITION. What happens next: the end of waits (04_work R69, R92), the turns of lanes (04_work R67, R70, R95; 08_vector
R167; 09_matrix R205; 19_traps R412), re-entry of bundles, and the search for the event that is due. -/

namespace Sys2Proof.Machine

/-! ## Waits (R69, R92) -/

/-- The running partition of a troupe's unit runs its context (R21). -/
def unitRuns (s : State) (tk : Nat) (t : Troupe) : Bool := unitServes s (unitOf tk) t.ctx

/-- A waiting item is an access to a global address. -/
def WaitItem.global (x : WaitItem) : Bool := match x.what with | .access _ (.global ..) => true | _ => false

/-- What a slot holds for is there: room (R39, R190, R345), earlier accesses that have performed (R275, R280), accesses made before
a `tlbinv` (R260), or the end of speculation (R375). -/
def roomOver (s : State) (tk : Nat) (t : Troupe) : Wait → Bool
  | .header mask => t.flagsClear mask
  | .room flag tag table =>
    (decide (12 ≤ flag) || decide (t.flagCount flag < 63)) && (match tag with | some (n, ths) => !tagFull t n ths | none => true) &&
    (!table || decide (tableCount s (unitOf tk) < 32))
  | .order ths k => !orderPending s tk t ths k
  | .dropped unit scope before cmds =>
    !s.waitQ.any (fun x => decide (x.id < before) && inScope unit scope (unitOf x.who.troupe) && x.global) &&
    !s.cores.any (fun c => c.2.engines.any (fun q => q.2.any (fun x => cmds.contains x.id)))
  | .commit => !t.speculative
  | _ => false

/-- The wait of a held slot is over. -/
def waitOver (s : State) (t : Troupe) (h : Hold) : Bool :=
  let f := h.focus
  match h.wait with
  | .until c => decide (c ≤ s.now)
  | .sem i v => (match s.ens t.ens with | some e => (e.sem i).ovf || (e.sem i).count != v | none => true)
  | .bar n => !barWaits s t n
  | .cwait who _ => (cwaitStatus s t who).isSome
  | .sleepto a => sleepOver (BitVec.ofNat 32 s.now) a
  | .waittag n => tagsDone t f.run n
  | .osenter ws => ws.any (waiterWakes s t.ctx)
  | .skwait n => (match entryOf s (unitOf f.troupe) n with
      | some k => k.ens != t.ens || (k.sketch.isNone && !newestSpec s k)
      | none => true)
  | .mwait ids => matDone s (unitOf f.troupe) ids
  | .mengage => otherEngaged s (unitOf f.troupe) t.ens || planesGone s (unitOf f.troupe) t.ens
  | .launch => !companyLimit s t.ctx
  | .drain => queuesSettled s t
  | w => roomOver s f.troupe t w

/-- A waiting troupe can go on: a clause header's flags are clear, what its slot holds for is there, or the condition of its own
instruction holds. A halted or stopped troupe stays. -/
def waitEnds (s : State) (tk : Nat) (t : Troupe) : Bool :=
  t.halt != .halted && !t.stopped && unitRuns s tk t &&
  (match t.wait, kfind s.holds tk with
   | none, _ => false
   | some w, none => roomOver s tk t w
   | some _, some h => waitOver s t h)

/-- A held slot that steals: it reaches its victim's deque at the end of the cycle (R83). -/
def stealHold (s : State) (tk : Nat) : Bool :=
  match kfind s.holds tk with
  | some h => classOf h.focus.word == 13 && fnOf h.focus.word == 2 && h.focus.acted
  | none => false

/-- WAIT_END (R69, R92): a header's wait ends and its bundle may issue, a slot that has not acted may be re-entered in its troupe's
next turn, and a slot that has acted completes. -/
def execWaitEnd (troupe : Nat) (s : State) : Res :=
  match s.troupe troupe with
  | none => .next s
  | some t =>
    if !waitEnds s troupe t then .next s
    else
      let s := s.modTroupe troupe (fun t => { t with wait := none })
      match kfind s.holds troupe with
      | some h => .next { s with holds := kdel s.holds troupe, focus := some { h.focus with resuming := true } }
      | none => .next s

/-! ## Issue -/

/-- The frame of a fetch becomes the most recently fetched of its core (R393). -/
def touchFrame (s : State) (tk : Nat) (t : Troupe) : State :=
  match s.frameOf tk t t.pc with
  | some r => s.modCore (coreOf tk) (fun c => { c with frames := c.frames.filter (fun x => x != r) ++ [r] })
  | none => s

/-- BUNDLE_REENTRY (R69): a troupe issues: it enters its next bundle, or re-enters the one that was held or split. A handler
troupe with nothing left to settle ends instead (R413). -/
def execBundleReentry (troupe : Nat) (s : State) : Res :=
  match s.troupe troupe with
  | none => .next s
  | some t =>
    if t.handler && !handlerOpen s t then .next (closeHandler s troupe)
    else .next (latchControl (issueTroupe (touchFrame s troupe t) troupe))

/-! ## Turns (R67, R70, R95, R412) -/

/-- A troupe is ready to issue. -/
def troupeReady (s : State) (tk : Nat) : Bool :=
  match s.troupe tk with | some t => isReady s tk t && unitRuns s tk t | none => false

/-- A troupe awaits the resolution of an origin, and keeps its place in the alternation (R412). -/
def awaitsOrigin (s : State) (tk : Nat) : Bool :=
  match s.troupe tk with
  | some t => !originsSettled t && t.halt != .halted && !atStop t && decide (t.readyAt ≤ s.now) && unitRuns s tk t
  | none => false

/-- A troupe has yielded its next turn (R95). -/
def hasYielded (s : State) (tk : Nat) : Bool := match s.troupe tk with | some t => t.yielded | none => false

/-- The troupes of a lane that may take its turn, in the order in which they would: the one that did not issue last first (the
lower slot where none has issued; log 6); a yielding one after the other when that is ready. -/
def laneOrder (s : State) (core lane : Nat) : List Nat :=
  let a := 64 * core + 2 * lane
  let b := a + 1
  let may (k : Nat) : Bool := troupeReady s k || awaitsOrigin s k
  let last := kget (0, 0) (s.core core).lanes lane
  if may a && may b then
    if hasYielded s a && troupeReady s b then [b, a]
    else if hasYielded s b && troupeReady s a then [a, b]
    else if last.2 ≠ 0 && last.1 = a then [b, a] else [a, b]
  else if may a then [a] else if may b then [b] else []

/-- The classes of the slots of a troupe's next bundle. -/
def bundleClasses (s : State) (tk : Nat) : List Nat :=
  match s.troupe tk with
  | none => []
  | some t => match scanBundle (wordAt s tk t t.pc) 8 0 with
    | some (l, _) => l.map (fun p => classOf p.2)
    | none => []

/-- The handler troupe that takes the turn of a troupe: it holds one of its origins, is ready and is not refused (R412). -/
def handlerFor (s : State) (core tk : Nat) (refused : Nat → Bool) : Option Nat :=
  match s.troupe tk with
  | none => none
  | some t => [64 * core + 32, 64 * core + 33].find? (fun k => troupeReady s k && !refused k && (match s.troupe k with
      | some h => h.tickets.any (fun x => t.origins.any (fun o => o.id == x.id && o.res.isNone))
      | none => false))

/-- What a turn does: the troupe whose turn it is, and the one that issues in it, if any. A refused troupe is not ready. -/
def turnOf (s : State) (core : Nat) (refused : Nat → Bool) : List Nat → Option (Nat × Option Nat)
  | [] => none
  | k :: rest =>
    if troupeReady s k then (if refused k then turnOf s core refused rest else some (k, some k))
    else some (k, handlerFor s core k refused)

/-- The troupe that a lane would issue has a slot of a class (R167, R205). -/
def lanePresents (s : State) (core lane cls : Nat) (refused : Nat → Bool) : Bool :=
  match turnOf s core refused (laneOrder s core lane) with
  | some (_, some k) => (bundleClasses s k).contains cls
  | _ => false

/-- The lanes that wait for the plane unit and still present a slot for it, in the order of their first refusal (R205). -/
def planeWaiters (s : State) (core : Nat) : List Nat :=
  (s.core core).planeQueue.filter (fun l => lanePresents s core l 26 (fun _ => false))

/-- The plane unit refuses a lane: it is busy, or an earlier refused lane comes first. -/
def planeRefuses (s : State) (core lane : Nat) : Bool :=
  (s.core core).plane.isSome || (match planeWaiters s core with | l :: _ => l != lane | [] => false)

/-- A troupe is refused by the plane unit, or the power manager holds its VEC slot: it is not ready, and presents nothing to the
vector paths (R167, R205, R454). -/
def heldOff (s : State) (core lane tk : Nat) : Bool :=
  let cs := bundleClasses s tk
  (cs.contains 26 && planeRefuses s core lane) || (cs.contains 23 && decide (s.now < s.mgmt.vecHold))

/-- The state that an event leaves. -/
def after (r : Res) (s : State) : State := match r with | .next t => t | _ => s

/-- What an event of the agenda does that may make a troupe ready: a result, an operation, a command or a message arrives or ends. -/
def foreseen (s : State) : Instr → State
  | .resultArrival a => after (execResultArrival a s) s
  | .vmemComplete k op => after (execVmemComplete k op s) s
  | .planeComplete k => after (execPlaneComplete k s) s
  | .matrixOpComplete u op => after (execMatrixOpComplete u op s) s
  | .copyPerform c => after (execCopyPerform c s) s
  | .windowLoad w => after (execWindowLoad w s) s
  | .commandCompletion c e => after (execCommandCompletion c e s) s
  | .barrierRelease e b => after (execBarrierRelease e b s) s
  | .forwardedArrival e b => after (execForwardedArrival e b s) s
  | .promiseBroken c e x => after (execPromiseBroken c e x s) s
  | _ => s

/-- A troupe whose wait is then over: its slot, when it has acted, commits. -/
def aheadTroupe (s : State) (tk : Nat) : State :=
  match s.troupe tk with
  | none => s
  | some t =>
    if !waitEnds s tk t then s
    else s.modTroupe tk (fun t => match kfind s.holds tk with
      | none => { t with wait := none }
      | some h =>
        let n := if !h.focus.last then (t.pc, t.fell) else match h.focus.target with | some a => (a, false) | none => h.focus.next s t
        { t with wait := none, pc := n.1, fell := n.2 })

/-- The state in which a lane is offered the next cycle, as far as the agenda tells (log 6): what is due by then has come, and the waits
that it ends are over. -/
def aheadOf (s : State) (core lane : Nat) : State :=
  let s := (s.agenda.filter (fun e => decide (e.1 ≤ s.now + 1))).foldl (fun s e => foreseen s e.2) { s with now := s.now + 1 }
  aheadTroupe (aheadTroupe s (64 * core + 2 * lane)) (64 * core + 2 * lane + 1)

/-- A vector path (VEC 23, VMEM 24) refuses a lane in this cycle (R167): it has accepted one in this pair of cycles, or the other
lane of the pair has priority and will present one. -/
def pathRefuses (s : State) (core lane cls : Nat) : Bool :=
  let took := kget 0 (s.core core).paths (cls - 23)
  let prior := s.now / 16 % 2 == lane % 2
  (lane % 2 == 1 && took == s.now) ||
  (!prior && lane % 2 == 0 &&
    (let n := aheadOf s core (lane + 1)
     lanePresents n core (lane + 1) cls (heldOff n core (lane + 1))))

/-- A ready troupe is refused in this cycle. -/
def isRefused (s : State) (core lane tk : Nat) : Bool :=
  let cs := bundleClasses s tk
  heldOff s core lane tk || (cs.contains 23 && pathRefuses s core lane 23) || (cs.contains 24 && pathRefuses s core lane 24)

/-- The turn of a lane that has not had one in this cycle. -/
def laneTurn (s : State) (core : Nat) : Option (Nat × Option Nat) :=
  let lane := s.now % 16
  if (kget (0, 0) (s.core core).lanes lane).2 = s.now + 1 then none
  else turnOf s core (isRefused s core lane) (laneOrder s core lane)

/-- Records a turn: the lane's last troupe, the vector paths and the plane unit's queue; yields end. -/
def takeTurn (s : State) (core holder : Nat) (run : Option Nat) : State :=
  let lane := s.now % 16
  let cs := match run with | some k => bundleClasses s k | none => []
  let mark (n : Nat) (l : KV Nat) : KV Nat := if cs.contains (23 + n) then kset l n (s.now + 1) else l
  let s := s.modCore core (fun c =>
    { c with lanes := kset c.lanes lane (holder, s.now + 1), paths := mark 0 (mark 1 c.paths),
             planeQueue := if cs.contains 26 then c.planeQueue.filter (fun l => l != lane) else c.planeQueue })
  (s.modTroupe (64 * core + 2 * lane) (fun t => { t with yielded := false })).modTroupe (64 * core + 2 * lane + 1)
    (fun t => { t with yielded := false })

/-- A lane that the plane unit refuses for the first time joins its queue. -/
def planeJoins (s : State) (core : Nat) : Bool :=
  let lane := s.now % 16
  lanePresents s core lane 26 (fun _ => false) && planeRefuses s core lane && !(s.core core).planeQueue.contains lane

/-- Puts a number into a rising list that does not hold it yet. -/
def insertCore (n : Nat) : List Nat → List Nat
  | [] => [n]
  | x :: xs => if n < x then n :: x :: xs else if n = x then x :: xs else x :: insertCore n xs

/-- The cores that hold troupes, rising: slots of one cycle act by `cix` (R190, R299, R308). -/
def busyCores (s : State) : List Nat := s.troupes.foldl (fun l p => insertCore (coreOf p.1) l) []

/-- The event with which a troupe uses its turn: a pending asynchronous trap comes before a new bundle (R407). -/
def issueEvent (s : State) (tk : Nat) : Instr :=
  match s.troupe tk with
  | some t => if t.asyncDue then .asynchronousTrap tk else .bundleReentry tk
  | none => .bundleReentry tk

/-- What the lanes do in this cycle, one at a time: the state with the turn recorded, and the event that uses it. -/
def laneStep (s : State) : Option (State × Option Instr) :=
  match (busyCores s).find? (planeJoins s) with
  | some c => some (s.modCore c (fun k => { k with planeQueue := k.planeQueue ++ [s.now % 16] }), none)
  | none =>
    match (busyCores s).findSome? (fun c => (laneTurn s c).map (fun x => (c, x))) with
    | some (c, h, run) => some (takeTurn s c h run, run.map (issueEvent s))
    | none => none

/-! ## Events that the state brings about -/

/-- A troupe has its events: it is neither halted nor at its stop, and its unit runs it. -/
def troupeRuns (s : State) (tk : Nat) (t : Troupe) : Bool := !atStop t && t.halt != .halted && unitRuns s tk t

/-- A replay entry of a troupe is to perform; `kind` says whether it is a deque operation, and a steal. -/
def replayDue (s : State) (p : Nat × Troupe) (kind : Option Bool) : Bool :=
  !p.2.replay.isEmpty && dequeHead p.2.replay == kind && troupeRuns s p.1 p.2 && !replayBlocked s p.1 p.2

/-- The deque operation that replays next: the owner's in lane order, before or from the lane whose turn it is, whose own slot comes
between them; or a steal (R83). -/
def dequeReplay (s : State) (steal : Bool) (sel : Nat → Bool) : Option Instr :=
  (leastBy (fun p => laneOf p.1) (s.troupes.filter (fun p => sel (laneOf p.1) && replayDue s p (some steal)))).map (fun p => .replay p.1)

/-- Events of troupes: waits that end, replays, restarts, handlers with nothing left, segments to expand. A halted troupe, and one at
its stop, has none but the end of its own slot's hold (R253, R421). -/
def troupeEvent (s : State) (p : Nat × Troupe) : Option Instr :=
  let t := p.2
  if waitEnds s p.1 t && !stealHold s p.1 then some (.waitEnd p.1)
  else if !troupeRuns s p.1 t then none
  else if replayDue s p none then some (.replay p.1)
  else if restartReady s p.1 then some (.squashRestart p.1)
  else if t.handler && !handlerOpen s t && t.replay.isEmpty then some (.bundleReentry p.1)
  else if needsSegment s p.1 t && (framesLeft s (coreOf p.1)).isSome then
    (let g := segmentOf t
     some (.segmentExpansion (coreOf p.1) g.1 g.2.1 g.2.2))
  else none

/-- Events of cores and units. -/
def unitEvent (s : State) : Option Instr :=
  match (s.units.find? (fun p => (matrixNext s p.1).isSome)) with
  | some p => some (.matrixGrant p.1)
  | none => (s.cores.find? (fun p => handlerDue s p.1)).map (fun p => .handlerLaunch p.1)

/-- Accesses that are to perform now: a store at a scratch port, one that waited for earlier ones, or the head of the store queue. -/
def performsNow (s : State) : Bool :=
  (portReady s).isSome || (readyItem s).isSome || headDue s

/-- Events of timetables and retirements. -/
def companyEvent (s : State) : Option Instr :=
  match s.comps.find? (fun p => completionDue s p.1 p.2) with
  | some p => some (.stepCompletion p.1)
  | none => match s.comps.find? (fun p => releaseDue s p.1 p.2) with
    | some p => some (.stepRelease p.1)
    | none => match s.enss.find? (fun p => retirable s p.1 p.2) with
      | some p => some (.ensembleRetirement p.1)
      | none => (s.comps.find? (fun p => companyDone p.2)).map (fun p => .companyRetirement p.1)

/-- The waiters of a partition from the highest rank to the lowest. -/
def ranked : Nat → List Waiter → List Waiter
  | 0, _ => []
  | _, [] => []
  | n + 1, w :: rest =>
    let b := rest.foldl (fun b x => if x.before b then x else b) w
    b :: ranked n ((w :: rest).filter (fun x => x != b))

/-- Events of admission: a hold, or the highest-ranked waiter of a partition that fits (R400). -/
def admissionEvent (s : State) (part : Nat) : Option Instr :=
  if (holdDue s part).isSome || s.saved.any (fun p => becomesReady s p.2) then some (.admissionHold part)
  else
    let ws := waitersIn s part
    ((ranked ws.length ws).find? (fun w => (findRoom s part w).isSome)).map
      (fun w => if w.readmit then .readmission w.key else .ensembleAdmission w.key)

/-- The event that the state itself brings about now, before any lane has its turn. -/
def ownEvent (s : State) : Option Instr :=
  if frameDue s then some .frameStart
  else if lockOverdue s then some .lockLoss
  else if swapTestDue s then some .swapOutTest
  else if s.now % 1800 = 0 && s.sections.any (gapExpired s) then some .gapTimeout
  else if performsNow s then some .storePerform
  else (dequeReplay s false (fun l => decide (l < s.now % 16))).orElse (fun _ => (s.troupes.findSome? (troupeEvent s)).orElse (fun _ => (unitEvent s).orElse (fun _ => (companyEvent s).orElse (fun _ =>
    s.parts.findSome? (fun p => admissionEvent s p.1)))))

/-! ## The order of a cycle (R83, R118, R299, R308) -/

/-- The place of an event among those of its cycle: deliveries of a bridge and releases of a home barrier come before deliveries of
engines and forwarded arrivals (R299, R308). -/
def eventRank : Instr → Nat
  | .bridgeStream _ => 0
  | .commandCompletion _ e => if e = 2 then 0 else 1
  | .barrierRelease .. => 0
  | _ => 1

/-- An event that comes after the slots of its cycle: a remote arrival (R308). -/
def comesLast : Instr → Bool
  | .remoteArrival _ => true
  | _ => false

/-- The earliest event of the agenda whose cycle has come, but for those that come last, and the state without it. -/
def dueEvent (s : State) : Option (Instr × State) :=
  match leastBy (fun p => 2 * p.1 + eventRank p.2) (s.agenda.filter (fun p => decide (p.1 ≤ s.now) && !comesLast p.2)) with
  | some e => some (e.2, { s with agenda := s.agenda.erase e })
  | none => none

/-- A steal that reaches its deque in this cycle (R83). -/
def stealEvent (s : State) : Option Instr :=
  match s.holds.find? (fun p => stealHold s p.1 && (match s.troupe p.1 with | some t => waitEnds s p.1 t | none => false)) with
  | some p => some (.waitEnd p.1)
  | none => dequeReplay s true (fun _ => true)

/-- What comes after the slots of a cycle: remote arrivals in their order (R308), the owner's replayed deque operations of later lanes,
then steals (R83), loads that a scratch port takes in this cycle (R221), and pushes that have room (R118). -/
def endEvent (s : State) : Option (Instr × State) :=
  match s.agenda.find? (fun p => decide (p.1 ≤ s.now) && comesLast p.2) with
  | some e => some (e.2, { s with agenda := s.agenda.erase e })
  | none => match (dequeReplay s false (fun _ => true)).orElse (fun _ => stealEvent s) with
    | some i => some (i, s)
    | none =>
      if (portTaken s).isSome then some (.storePerform, s)
      else (s.cores.find? (fun p => pushReady s p.1)).map (fun p => (.heldPushEntry p.1, s))

/-- The event at the end of a cycle: a deadline has passed. -/
def lateEvent (s : State) : Option Instr :=
  (s.comps.find? (fun p => match p.2.tt with | some tt => deadlinePassed s tt | none => false)).map (fun p => .deadlineMiss p.1)

/-- The next cycle of `clk` (R443). -/
def tickClock (s : State) : State := { s with now := s.now + 1 }

/-! ## What the outside may bring about -/

/-- Events that agents outside the device's cores bring to it. -/
def external : Instr → Bool
  | .lockMeasurement .. => true
  | .deviceReset => true
  | .powerThrottle .. => true
  | .bootStage .. => true
  | .functionReady _ => true
  | .firmwareUpdate .. => true
  | .getVersion => true
  | .getCapabilities => true
  | .negotiateAlgorithms => true
  | .getDigests => true
  | .getCertificate _ => true
  | .challenge _ => true
  | .getMeasurements _ => true
  | .keyExchange _ => true
  | .finish _ => true
  | .endSession _ => true
  | .keySlotLoad .. => true
  | .keySlotClear .. => true
  | .deviceDrain _ => true
  | .deviceJoin _ => true
  | .registerWrite .. => true
  | .windowPush _ => true
  | .remoteArrival _ => true
  | .allReduce .. => true
  | .broadcast .. => true
  | .allGather .. => true
  | .reduceScatter .. => true
  | _ => false

/-! ## A slot -/

/-- A slot that its core does not have, or whose fields are not well formed, is no instruction (R7, R49). -/
def slotRuns (f : Focus) (w : Word) (i : Instr) : Bool := wellFormed i && coreHas f.troupe (classOf w)

end Sys2Proof.Machine
end

