-- ==== Sys2Proof/Machine/Control.lean ====
section
/-! DEFINITION. Header and guard slots (02_words R36, R37, R41), the BR class (04_work R73 to R76) and `nop` (R52). -/

namespace Sys2Proof.Machine

/-- `.clause`: waits for the flags of WAIT, then loads the clause state (R36, R37). -/
def execClause (x : HdrF) (s : State) : Res :=
  atSlot s (fun f t =>
    if t.flagsClear x.wait then
      s.modTroupe f.troupe (fun t => { t with clause := { setx := x.setx.toNat, sety := x.sety.toNat, len := x.len.toNat } })
    else holdHeader s f x.wait)

/-- A guard: the bundle's later slots run for the active threads that pass it. It is not evaluated again at a re-entry
(R41, R406). -/
def execGuard (x : GrdF) (s : State) : Res :=
  atSlot s (fun f _ =>
    if f.first then
      let m := passing f.latch f.pass x.pred (x.neg == 1)
      { s with focus := some { f with pass := m, run := m } }
    else s)

/-- A B-form target (R74): a sum of 64-bit addresses, so that one below 0 lies outside every kernel. -/
def targetOf (base : Nat) (off : BitVec 18) : Nat := (BitVec.ofInt 64 ((base : Int) + 4 * off.toInt)).toNat

/-- c(t) of the threads that pass the guard: pP XOR NEG (R73). -/
def condMask (f : Focus) (p : BitVec 3) (neg : BitVec 1) : BitVec 16 := passing f.latch f.pass p (neg == 1)

/-- `br` (R74). -/
def execBr (x : JumpF) (s : State) : Res := atUniform s (fun f _ => branchTo s f (targetOf f.base x.off))

/-- `bpa`: branches if c(t) holds for every active thread that passes the guard (R74, R42). -/
def execBpa (x : CondF) (s : State) : Res :=
  atUniform s (fun f _ => if condMask f x.pred x.neg = f.pass then branchTo s f (targetOf f.base x.off) else s)

/-- `bpn`: branches if c(t) holds for no active thread that passes the guard (R74, R42). -/
def execBpn (x : CondF) (s : State) : Res :=
  atUniform s (fun f _ => if condMask f x.pred x.neg = 0 then branchTo s f (targetOf f.base x.off) else s)

/-- `bif` (R73). -/
def execBif (x : CondF) (s : State) : Res :=
  atUniform s (fun f t =>
    if 16 ≤ t.maskStack.length then trapAll s f (openCause cQueueOver 2 f.issue)
    else
      let c := condMask f x.pred x.neg
      let e := t.active &&& ~~~c
      if c = 0 then
        branchTo (s.modTroupe f.troupe (fun t => { t with maskStack := (t.active, 0) :: t.maskStack, active := e })) f
          (targetOf f.base x.off)
      else s.modTroupe f.troupe (fun t => { t with maskStack := (t.active, e) :: t.maskStack, active := c }))

/-- `belse` (R73). -/
def execBelse (x : JumpF) (s : State) : Res :=
  atUniform s (fun f t => match t.maskStack with
    | [] => trapAll s f (openCause cQueueUnder 2 f.issue)
    | (m, e) :: rest =>
      if e = 0 then branchTo s f (targetOf f.base x.off)
      else s.modTroupe f.troupe (fun t => { t with maskStack := (m, 0) :: rest, active := e }))

/-- `bjoin` (R73). -/
def execBjoin (_ : StopF) (s : State) : Res :=
  atUniform s (fun f t => match t.maskStack with
    | [] => trapAll s f (openCause cQueueUnder 2 f.issue)
    | (m, _) :: rest => s.modTroupe f.troupe (fun t => { t with maskStack := rest, active := m }))

/-- `call`: pushes the address of the bundle that follows (R75): after the last bundle of a segment's used text that is the start
of the next segment (R66, R392). After the last bundle of the kernel no bundle follows, and the address past it is pushed: the
model's choice, as is what a return there meets, which a branch to that address meets (log 50). -/
def execCall (x : JumpF) (s : State) : Res :=
  atUniform s (fun f t =>
    if 16 ≤ t.retStack.length then trapAll s f (openCause cQueueOver 1 f.issue)
    else branchTo (s.modTroupe f.troupe (fun t => { t with retStack := (f.next s t).1 :: t.retStack })) f (targetOf f.base x.off))

/-- `ret` (R75). -/
def execRet (_ : StopF) (s : State) : Res :=
  atUniform s (fun f t => match t.retStack with
    | [] => trapAll s f (openCause cQueueUnder 1 f.issue)
    | a :: rest => branchTo (s.modTroupe f.troupe (fun t => { t with retStack := rest })) f a)

/-- `brx`: ALIGN when bits [1:0] of the target are nonzero (R75). -/
def execBrx (x : SrcF) (s : State) : Res :=
  atUniform s (fun f _ =>
    let a := uniformVal f x.a
    if a.toNat % 4 ≠ 0 then trapAll s f { cause := cAlign, detail := 0, value := a } else branchTo s f a.toNat)

/-- `loop`: decrements g(8 + P) modulo 2^64 and branches while it is nonzero (R76). -/
def execLoop (x : LoopF) (s : State) : Res :=
  atUniform s (fun f _ =>
    let n := f.latch.gread (8 + x.ctr.toNat) - 1
    let s := s.modTroupe f.troupe (fun t => t.gwrite (8 + x.ctr.toNat) n)
    if n = 0 then s else branchTo s f (targetOf f.base x.off))

/-- `nop` (R52). -/
def execNop (_ : StopF) (s : State) : Res := atUniform s (fun _ _ => s)

end Sys2Proof.Machine
end

