-- ==== Sys2Proof/Machine/Dispatch.lean ====
section
/-! DEFINITION. One arm for each instruction of the opcode table: a direct call of its meaning. -/

namespace Sys2Proof.Machine

def exec (i : Instr) (s : State) : Host.Outcome State Fault Refusal :=
  match i with
  | .bundleReentry troupe => Sys2Proof.Machine.execBundleReentry troupe s
  | .waitEnd troupe => Sys2Proof.Machine.execWaitEnd troupe s
  | .resultArrival a => Sys2Proof.Machine.execResultArrival a s
  | .pageWalkComplete core ctx va => Sys2Proof.Machine.execPageWalkComplete core ctx va s
  | .replay troupe => Sys2Proof.Machine.execReplay troupe s
  | .ensembleSwapOut ens => Sys2Proof.Machine.execEnsembleSwapOut ens s
  | .readmission ens => Sys2Proof.Machine.execReadmission ens s
  | .shellArrival ens bar => Sys2Proof.Machine.execShellArrival ens bar s
  | .forwardedArrival ens bar => Sys2Proof.Machine.execForwardedArrival ens bar s
  | .barrierRelease ens bar => Sys2Proof.Machine.execBarrierRelease ens bar s
  | .remoteArrival r => Sys2Proof.Machine.execRemoteArrival r s
  | .windowPush p => Sys2Proof.Machine.execWindowPush p s
  | .heldPushEntry core => Sys2Proof.Machine.execHeldPushEntry core s
  | .windowLoad w => Sys2Proof.Machine.execWindowLoad w s
  | .scratchWindowAccess w => Sys2Proof.Machine.execScratchWindowAccess w s
  | .partialFlush unit => Sys2Proof.Machine.execPartialFlush unit s
  | .copyPerform c => Sys2Proof.Machine.execCopyPerform c s
  | .vmemComplete troupe op => Sys2Proof.Machine.execVmemComplete troupe op s
  | .planeComplete troupe => Sys2Proof.Machine.execPlaneComplete troupe s
  | .matrixGrant unit => Sys2Proof.Machine.execMatrixGrant unit s
  | .grantPriorityRise unit op => Sys2Proof.Machine.execGrantPriorityRise unit op s
  | .matrixOpComplete unit op => Sys2Proof.Machine.execMatrixOpComplete unit op s
  | .tileCopy core => Sys2Proof.Machine.execTileCopy core s
  | .dieCopy core => Sys2Proof.Machine.execDieCopy core s
  | .bridgeStream core => Sys2Proof.Machine.execBridgeStream core s
  | .allReduce core peers => Sys2Proof.Machine.execAllReduce core peers s
  | .broadcast core peers => Sys2Proof.Machine.execBroadcast core peers s
  | .allGather core peers => Sys2Proof.Machine.execAllGather core peers s
  | .reduceScatter core peers => Sys2Proof.Machine.execReduceScatter core peers s
  | .compare core => Sys2Proof.Machine.execCompare core s
  | .squashRestart troupe => Sys2Proof.Machine.execSquashRestart troupe s
  | .present core => Sys2Proof.Machine.execPresent core s
  | .commandCompletion core engine => Sys2Proof.Machine.execCommandCompletion core engine s
  | .promiseBroken core engine cmd => Sys2Proof.Machine.execPromiseBroken core engine cmd s
  | .asynchronousTrap troupe => Sys2Proof.Machine.execAsynchronousTrap troupe s
  | .originArrival troupe => Sys2Proof.Machine.execOriginArrival troupe s
  | .handlerLaunch core => Sys2Proof.Machine.execHandlerLaunch core s
  | .ensembleAdmission comp => Sys2Proof.Machine.execEnsembleAdmission comp s
  | .admissionHold part => Sys2Proof.Machine.execAdmissionHold part s
  | .segmentExpansion core ctx text seg => Sys2Proof.Machine.execSegmentExpansion core ctx text seg s
  | .ensembleRetirement ens => Sys2Proof.Machine.execEnsembleRetirement ens s
  | .companyRetirement comp => Sys2Proof.Machine.execCompanyRetirement comp s
  | .sequencerPass part => Sys2Proof.Machine.execSequencerPass part s
  | .tailReport block => Sys2Proof.Machine.execTailReport block s
  | .partitionSwap part => Sys2Proof.Machine.execPartitionSwap part s
  | .lockMeasurement master skew => Sys2Proof.Machine.execLockMeasurement master skew s
  | .stepRelease comp => Sys2Proof.Machine.execStepRelease comp s
  | .stepCompletion comp => Sys2Proof.Machine.execStepCompletion comp s
  | .deadlineMiss comp => Sys2Proof.Machine.execDeadlineMiss comp s
  | .powerThrottle vec until_ => Sys2Proof.Machine.execPowerThrottle vec until_ s
  | .bootStage index image => Sys2Proof.Machine.execBootStage index image s
  | .functionReady bit => Sys2Proof.Machine.execFunctionReady bit s
  | .getCertificate slot => Sys2Proof.Machine.execGetCertificate slot s
  | .challenge nonce => Sys2Proof.Machine.execChallenge nonce s
  | .getMeasurements block => Sys2Proof.Machine.execGetMeasurements block s
  | .keyExchange session => Sys2Proof.Machine.execKeyExchange session s
  | .finish session => Sys2Proof.Machine.execFinish session s
  | .endSession session => Sys2Proof.Machine.execEndSession session s
  | .keySlotLoad session load => Sys2Proof.Machine.execKeySlotLoad session load s
  | .keySlotClear session slot => Sys2Proof.Machine.execKeySlotClear session slot s
  | .deviceDrain device => Sys2Proof.Machine.execDeviceDrain device s
  | .deviceJoin device => Sys2Proof.Machine.execDeviceJoin device s
  | .pfringWrite ctx v => Sys2Proof.Machine.execPfringWrite ctx v s
  | .pfheadWrite ctx v => Sys2Proof.Machine.execPfheadWrite ctx v s
  | .scopeTableWrite ctx entry word v => Sys2Proof.Machine.execScopeTableWrite ctx entry word v s
  | .registerWrite pa data => Sys2Proof.Machine.execRegisterWrite pa data s
  | .firmwareUpdate index image => Sys2Proof.Machine.execFirmwareUpdate index image s
  | .clause x => Sys2Proof.Machine.execClause x s
  | .guard x => Sys2Proof.Machine.execGuard x s
  | .add x => Sys2Proof.Machine.execAdd x s
  | .sub x => Sys2Proof.Machine.execSub x s
  | .andB x => Sys2Proof.Machine.execAnd x s
  | .orB x => Sys2Proof.Machine.execOr x s
  | .xorB x => Sys2Proof.Machine.execXor x s
  | .andn x => Sys2Proof.Machine.execAndn x s
  | .shl x => Sys2Proof.Machine.execShl x s
  | .shr x => Sys2Proof.Machine.execShr x s
  | .sar x => Sys2Proof.Machine.execSar x s
  | .minI32 x => Sys2Proof.Machine.execMinI32 x s
  | .maxI32 x => Sys2Proof.Machine.execMaxI32 x s
  | .minN32 x => Sys2Proof.Machine.execMinN32 x s
  | .maxN32 x => Sys2Proof.Machine.execMaxN32 x s
  | .absI32 x => Sys2Proof.Machine.execAbsI32 x s
  | .mad x => Sys2Proof.Machine.execMad x s
  | .mul x => Sys2Proof.Machine.execMul x s
  | .mulhI32 x => Sys2Proof.Machine.execMulhI32 x s
  | .mulhN32 x => Sys2Proof.Machine.execMulhN32 x s
  | .divI32 x => Sys2Proof.Machine.execDivI32 x s
  | .divN32 x => Sys2Proof.Machine.execDivN32 x s
  | .remI32 x => Sys2Proof.Machine.execRemI32 x s
  | .remN32 x => Sys2Proof.Machine.execRemN32 x s
  | .popc x => Sys2Proof.Machine.execPopc x s
  | .clz x => Sys2Proof.Machine.execClz x s
  | .brev x => Sys2Proof.Machine.execBrev x s
  | .bfeN32 x => Sys2Proof.Machine.execBfeN32 x s
  | .bfeI32 x => Sys2Proof.Machine.execBfeI32 x s
  | .bfi x => Sys2Proof.Machine.execBfi x s
  | .addsatI32 x => Sys2Proof.Machine.execAddsatI32 x s
  | .subsatI32 x => Sys2Proof.Machine.execSubsatI32 x s
  | .addi x => Sys2Proof.Machine.execAddi x s
  | .andi x => Sys2Proof.Machine.execAndi x s
  | .ori x => Sys2Proof.Machine.execOri x s
  | .xori x => Sys2Proof.Machine.execXori x s
  | .shli x => Sys2Proof.Machine.execShli x s
  | .shri x => Sys2Proof.Machine.execShri x s
  | .sari x => Sys2Proof.Machine.execSari x s
  | .muli x => Sys2Proof.Machine.execMuli x s
  | .movi x => Sys2Proof.Machine.execMovi x s
  | .movh x => Sys2Proof.Machine.execMovh x s
  | .mov x => Sys2Proof.Machine.execMov x s
  | .movPair x => Sys2Proof.Machine.execMovPair x s
  | .drop x => Sys2Proof.Machine.execDrop x s
  | .dup x => Sys2Proof.Machine.execDup x s
  | .qcnt x => Sys2Proof.Machine.execQcnt x s
  | .qclr x => Sys2Proof.Machine.execQclr x s
  | .eq x => Sys2Proof.Machine.execEq x s
  | .ne x => Sys2Proof.Machine.execNe x s
  | .ltI32 x => Sys2Proof.Machine.execLtI32 x s
  | .leI32 x => Sys2Proof.Machine.execLeI32 x s
  | .ltN32 x => Sys2Proof.Machine.execLtN32 x s
  | .leN32 x => Sys2Proof.Machine.execLeN32 x s
  | .feq x => Sys2Proof.Machine.execFeq x s
  | .flt x => Sys2Proof.Machine.execFlt x s
  | .fle x => Sys2Proof.Machine.execFle x s
  | .funF x => Sys2Proof.Machine.execFun x s
  | .pand x => Sys2Proof.Machine.execPand x s
  | .por x => Sys2Proof.Machine.execPor x s
  | .pxor x => Sys2Proof.Machine.execPxor x s
  | .pnot x => Sys2Proof.Machine.execPnot x s
  | .pset x => Sys2Proof.Machine.execPset x s
  | .pvote x => Sys2Proof.Machine.execPvote x s
  | .fadd x => Sys2Proof.Machine.execFadd x s
  | .fsub x => Sys2Proof.Machine.execFsub x s
  | .fmul x => Sys2Proof.Machine.execFmul x s
  | .ffma x => Sys2Proof.Machine.execFfma x s
  | .fmin x => Sys2Proof.Machine.execFmin x s
  | .fmax x => Sys2Proof.Machine.execFmax x s
  | .fabs x => Sys2Proof.Machine.execFabs x s
  | .fneg x => Sys2Proof.Machine.execFneg x s
  | .fcopysign x => Sys2Proof.Machine.execFcopysign x s
  | .ffloor x => Sys2Proof.Machine.execFfloor x s
  | .fceil x => Sys2Proof.Machine.execFceil x s
  | .ftrunc x => Sys2Proof.Machine.execFtrunc x s
  | .frint x => Sys2Proof.Machine.execFrint x s
  | .fsat x => Sys2Proof.Machine.execFsat x s
  | .haddF16x2 x => Sys2Proof.Machine.execHaddF16x2 x s
  | .hmulF16x2 x => Sys2Proof.Machine.execHmulF16x2 x s
  | .hfmaF16x2 x => Sys2Proof.Machine.execHfmaF16x2 x s
  | .hminF16x2 x => Sys2Proof.Machine.execHminF16x2 x s
  | .hmaxF16x2 x => Sys2Proof.Machine.execHmaxF16x2 x s
  | .haddBf16x2 x => Sys2Proof.Machine.execHaddBf16x2 x s
  | .hmulBf16x2 x => Sys2Proof.Machine.execHmulBf16x2 x s
  | .hfmaBf16x2 x => Sys2Proof.Machine.execHfmaBf16x2 x s
  | .hminBf16x2 x => Sys2Proof.Machine.execHminBf16x2 x s
  | .hmaxBf16x2 x => Sys2Proof.Machine.execHmaxBf16x2 x s
  | .cvtF32I32 x => Sys2Proof.Machine.execCvtF32I32 x s
  | .cvtF32N32 x => Sys2Proof.Machine.execCvtF32N32 x s
  | .cvtI32F32 x => Sys2Proof.Machine.execCvtI32F32 x s
  | .cvtN32F32 x => Sys2Proof.Machine.execCvtN32F32 x s
  | .cvtI32F32Rz x => Sys2Proof.Machine.execCvtI32F32Rz x s
  | .cvtF16x2F32 x => Sys2Proof.Machine.execCvtF16x2F32 x s
  | .cvtBf16x2F32 x => Sys2Proof.Machine.execCvtBf16x2F32 x s
  | .cvtF32F16 x => Sys2Proof.Machine.execCvtF32F16 x s
  | .cvtF32F16h x => Sys2Proof.Machine.execCvtF32F16h x s
  | .cvtF32Bf16 x => Sys2Proof.Machine.execCvtF32Bf16 x s
  | .cvtF32Bf16h x => Sys2Proof.Machine.execCvtF32Bf16h x s
  | .cvtF32E4m3 x => Sys2Proof.Machine.execCvtF32E4m3 x s
  | .cvtF32E5m2 x => Sys2Proof.Machine.execCvtF32E5m2 x s
  | .cvtF32E2m1 x => Sys2Proof.Machine.execCvtF32E2m1 x s
  | .cvtE4m3F32 x => Sys2Proof.Machine.execCvtE4m3F32 x s
  | .cvtE5m2F32 x => Sys2Proof.Machine.execCvtE5m2F32 x s
  | .rcp x => Sys2Proof.Machine.execRcp x s
  | .rsqrt x => Sys2Proof.Machine.execRsqrt x s
  | .sqrt x => Sys2Proof.Machine.execSqrt x s
  | .exp2 x => Sys2Proof.Machine.execExp2 x s
  | .log2 x => Sys2Proof.Machine.execLog2 x s
  | .sin x => Sys2Proof.Machine.execSin x s
  | .cos x => Sys2Proof.Machine.execCos x s
  | .tanh x => Sys2Proof.Machine.execTanh x s
  | .sigm x => Sys2Proof.Machine.execSigm x s
  | .divF32 x => Sys2Proof.Machine.execDivF32 x s
  | .br x => Sys2Proof.Machine.execBr x s
  | .bpa x => Sys2Proof.Machine.execBpa x s
  | .bpn x => Sys2Proof.Machine.execBpn x s
  | .bif x => Sys2Proof.Machine.execBif x s
  | .belse x => Sys2Proof.Machine.execBelse x s
  | .bjoin x => Sys2Proof.Machine.execBjoin x s
  | .call x => Sys2Proof.Machine.execCall x s
  | .ret x => Sys2Proof.Machine.execRet x s
  | .brx x => Sys2Proof.Machine.execBrx x s
  | .loopG x => Sys2Proof.Machine.execLoop x s
  | .fork x => Sys2Proof.Machine.execFork x s
  | .takeT x => Sys2Proof.Machine.execTake x s
  | .steal x => Sys2Proof.Machine.execSteal x s
  | .dqconf x => Sys2Proof.Machine.execDqconf x s
  | .dqcount x => Sys2Proof.Machine.execDqcount x s
  | .launch x => Sys2Proof.Machine.execLaunch x s
  | .cwait x => Sys2Proof.Machine.execCwait x s
  | .exitT x => Sys2Proof.Machine.execExit x s
  | .yield x => Sys2Proof.Machine.execYield x s
  | .vclaim x => Sys2Proof.Machine.execVclaim x s
  | .vgive x => Sys2Proof.Machine.execVgive x s
  | .role x => Sys2Proof.Machine.execRole x s
  | .barArrive x => Sys2Proof.Machine.execBarArrive x s
  | .barWait x => Sys2Proof.Machine.execBarWait x s
  | .barSync x => Sys2Proof.Machine.execBarSync x s
  | .barLink x => Sys2Proof.Machine.execBarLink x s
  | .fenceAcq x => Sys2Proof.Machine.execFenceAcq x s
  | .fenceRel x => Sys2Proof.Machine.execFenceRel x s
  | .fenceAr x => Sys2Proof.Machine.execFenceAr x s
  | .mark x => Sys2Proof.Machine.execMark x s
  | .scope x => Sys2Proof.Machine.execScope x s
  | .barCount x => Sys2Proof.Machine.execBarCount x s
  | .ldS x => Sys2Proof.Machine.execLdS x s
  | .ldG x => Sys2Proof.Machine.execLdG x s
  | .ldGAcq x => Sys2Proof.Machine.execLdGAcq x s
  | .ldGNc x => Sys2Proof.Machine.execLdGNc x s
  | .ldW x => Sys2Proof.Machine.execLdW x s
  | .stS x => Sys2Proof.Machine.execStS x s
  | .stG x => Sys2Proof.Machine.execStG x s
  | .stGRel x => Sys2Proof.Machine.execStGRel x s
  | .stGNc x => Sys2Proof.Machine.execStGNc x s
  | .stW x => Sys2Proof.Machine.execStW x s
  | .atomAdd x => Sys2Proof.Machine.execAtomAdd x s
  | .atomMinI32 x => Sys2Proof.Machine.execAtomMinI32 x s
  | .atomMaxI32 x => Sys2Proof.Machine.execAtomMaxI32 x s
  | .atomMinN32 x => Sys2Proof.Machine.execAtomMinN32 x s
  | .atomMaxN32 x => Sys2Proof.Machine.execAtomMaxN32 x s
  | .atomAnd x => Sys2Proof.Machine.execAtomAnd x s
  | .atomOr x => Sys2Proof.Machine.execAtomOr x s
  | .atomXor x => Sys2Proof.Machine.execAtomXor x s
  | .atomXchg x => Sys2Proof.Machine.execAtomXchg x s
  | .atomCas x => Sys2Proof.Machine.execAtomCas x s
  | .atomFaddF32 x => Sys2Proof.Machine.execAtomFaddF32 x s
  | .atomIncw x => Sys2Proof.Machine.execAtomIncw x s
  | .redAdd x => Sys2Proof.Machine.execRedAdd x s
  | .redMinI32 x => Sys2Proof.Machine.execRedMinI32 x s
  | .redMaxI32 x => Sys2Proof.Machine.execRedMaxI32 x s
  | .redMinN32 x => Sys2Proof.Machine.execRedMinN32 x s
  | .redMaxN32 x => Sys2Proof.Machine.execRedMaxN32 x s
  | .redAnd x => Sys2Proof.Machine.execRedAnd x s
  | .redOr x => Sys2Proof.Machine.execRedOr x s
  | .redXor x => Sys2Proof.Machine.execRedXor x s
  | .redFaddF32 x => Sys2Proof.Machine.execRedFaddF32 x s
  | .redFaddBf16x2 x => Sys2Proof.Machine.execRedFaddBf16x2 x s
  | .osinit x => Sys2Proof.Machine.execOsinit x s
  | .osenter x => Sys2Proof.Machine.execOsenter x s
  | .ostry x => Sys2Proof.Machine.execOstry x s
  | .osleave x => Sys2Proof.Machine.execOsleave x s
  | .osquery x => Sys2Proof.Machine.execOsquery x s
  | .osdrop x => Sys2Proof.Machine.execOsdrop x s
  | .cpyG2s4 x => Sys2Proof.Machine.execCpyG2s4 x s
  | .cpyG2s8 x => Sys2Proof.Machine.execCpyG2s8 x s
  | .cpyG2s16 x => Sys2Proof.Machine.execCpyG2s16 x s
  | .cpyG2s32 x => Sys2Proof.Machine.execCpyG2s32 x s
  | .cpyS2g4 x => Sys2Proof.Machine.execCpyS2g4 x s
  | .cpyS2g8 x => Sys2Proof.Machine.execCpyS2g8 x s
  | .cpyS2g16 x => Sys2Proof.Machine.execCpyS2g16 x s
  | .cpyS2g32 x => Sys2Proof.Machine.execCpyS2g32 x s
  | .waittag x => Sys2Proof.Machine.execWaittag x s
  | .tagcnt x => Sys2Proof.Machine.execTagcnt x s
  | .enq x => Sys2Proof.Machine.execEnq x s
  | .sleepto x => Sys2Proof.Machine.execSleepto x s
  | .enqstat x => Sys2Proof.Machine.execEnqstat x s
  | .seminit x => Sys2Proof.Machine.execSeminit x s
  | .semarm x => Sys2Proof.Machine.execSemarm x s
  | .semexp x => Sys2Proof.Machine.execSemexp x s
  | .semarr x => Sys2Proof.Machine.execSemarr x s
  | .semwait x => Sys2Proof.Machine.execSemwait x s
  | .semtest x => Sys2Proof.Machine.execSemtest x s
  | .vadd x => Sys2Proof.Machine.execVadd x s
  | .vsub x => Sys2Proof.Machine.execVsub x s
  | .vmul x => Sys2Proof.Machine.execVmul x s
  | .vfma x => Sys2Proof.Machine.execVfma x s
  | .vmax x => Sys2Proof.Machine.execVmax x s
  | .vmin x => Sys2Proof.Machine.execVmin x s
  | .vexp2 x => Sys2Proof.Machine.execVexp2 x s
  | .vrcp x => Sys2Proof.Machine.execVrcp x s
  | .vrsq x => Sys2Proof.Machine.execVrsq x s
  | .vtanh x => Sys2Proof.Machine.execVtanh x s
  | .vcvt x => Sys2Proof.Machine.execVcvt x s
  | .vred x => Sys2Proof.Machine.execVred x s
  | .vbcast x => Sys2Proof.Machine.execVbcast x s
  | .vbcastElement x => Sys2Proof.Machine.execVbcastElement x s
  | .vsel x => Sys2Proof.Machine.execVsel x s
  | .vperm x => Sys2Proof.Machine.execVperm x s
  | .vscan x => Sys2Proof.Machine.execVscan x s
  | .vld x => Sys2Proof.Machine.execVld x s
  | .vst x => Sys2Proof.Machine.execVst x s
  | .vldStr x => Sys2Proof.Machine.execVldStr x s
  | .vstStr x => Sys2Proof.Machine.execVstStr x s
  | .vgath x => Sys2Proof.Machine.execVgath x s
  | .vscat x => Sys2Proof.Machine.execVscat x s
  | .mload x => Sys2Proof.Machine.execMload x s
  | .mpass x => Sys2Proof.Machine.execMpass x s
  | .mjoin x => Sys2Proof.Machine.execMjoin x s
  | .mdrain x => Sys2Proof.Machine.execMdrain x s
  | .mzero x => Sys2Proof.Machine.execMzero x s
  | .mswap x => Sys2Proof.Machine.execMswap x s
  | .mengage x => Sys2Proof.Machine.execMengage x s
  | .mfree x => Sys2Proof.Machine.execMfree x s
  | .mfence x => Sys2Proof.Machine.execMfence x s
  | .mwait x => Sys2Proof.Machine.execMwait x s
  | .tplane x => Sys2Proof.Machine.execTplane x s
  | .tunplane x => Sys2Proof.Machine.execTunplane x s
  | .trot x => Sys2Proof.Machine.execTrot x s
  | .tquant x => Sys2Proof.Machine.execTquant x s
  | .tdequant x => Sys2Proof.Machine.execTdequant x s
  | .twin x => Sys2Proof.Machine.execTwin x s
  | .ttrans x => Sys2Proof.Machine.execTtrans x s
  | .xfmt x => Sys2Proof.Machine.execXfmt x s
  | .sktrack x => Sys2Proof.Machine.execSktrack x s
  | .skread x => Sys2Proof.Machine.execSkread x s
  | .skwait x => Sys2Proof.Machine.execSkwait x s
  | .skabort x => Sys2Proof.Machine.execSkabort x s
  | .skstat x => Sys2Proof.Machine.execSkstat x s
  | .skpost x => Sys2Proof.Machine.execSkpost x s
  | .tsetup x => Sys2Proof.Machine.execTsetup x s
  | .rstep x => Sys2Proof.Machine.execRstep x s
  | .bxtest x => Sys2Proof.Machine.execBxtest x s
  | .txf x => Sys2Proof.Machine.execTxf x s
  | .fgrid x => Sys2Proof.Machine.execFgrid x s
  | .tritest x => Sys2Proof.Machine.execTritest x s
  | .gwrite x => Sys2Proof.Machine.execGwrite x s
  | .nop x => Sys2Proof.Machine.execNop x s
  | .trap x => Sys2Proof.Machine.execTrap x s
  | .eret x => Sys2Proof.Machine.execEret x s
  | .resolve x => Sys2Proof.Machine.execResolve x s
  | .xrd x => Sys2Proof.Machine.execXrd x s
  | .xwr x => Sys2Proof.Machine.execXwr x s
  | .halt x => Sys2Proof.Machine.execHalt x s
  | .brk x => Sys2Proof.Machine.execBrk x s
  | .tlbinv x => Sys2Proof.Machine.execTlbinv x s
  | .pin x => Sys2Proof.Machine.execPin x s
  | .unpin x => Sys2Proof.Machine.execUnpin x s
  | .pfch x => Sys2Proof.Machine.execPfch x s
  | .flush x => Sys2Proof.Machine.execFlush x s
  | .inval x => Sys2Proof.Machine.execInval x s
  | .evload x => Sys2Proof.Machine.execEvload x s
  | .pgmode x => Sys2Proof.Machine.execPgmode x s
  | .storePerform => Sys2Proof.Machine.execStorePerform s
  | .swapOutTest => Sys2Proof.Machine.execSwapOutTest s
  | .gapTimeout => Sys2Proof.Machine.execGapTimeout s
  | .frameStart => Sys2Proof.Machine.execFrameStart s
  | .lockLoss => Sys2Proof.Machine.execLockLoss s
  | .deviceReset => Sys2Proof.Machine.execDeviceReset s
  | .getVersion => Sys2Proof.Machine.execGetVersion s
  | .getCapabilities => Sys2Proof.Machine.execGetCapabilities s
  | .negotiateAlgorithms => Sys2Proof.Machine.execNegotiateAlgorithms s
  | .getDigests => Sys2Proof.Machine.execGetDigests s
  | .debugHalt => Sys2Proof.Machine.execDebugHalt s
  | .resume => Sys2Proof.Machine.execResume s
  | .stepDbg => Sys2Proof.Machine.execStep s
  | .qread => Sys2Proof.Machine.execQread s
  | .qwrite => Sys2Proof.Machine.execQwrite s
  | .gread => Sys2Proof.Machine.execGread s
  | .debugGwrite => Sys2Proof.Machine.execDebugGwrite s
  | .sread => Sys2Proof.Machine.execSread s
  | .swrite => Sys2Proof.Machine.execSwrite s

end Sys2Proof.Machine
end

