-- ==== Sys2Proof/Machine/Step.lean ====
section
/-! DEFINITION. One step of the device: the slot at which a troupe stands, or the next event, turn or cycle (log 3); and the
placing of one instruction where the next step fetches it. -/

namespace Sys2Proof.Machine

/-- Runs an instruction and then does what the result says; a stop stays a stop. -/
noncomputable def thenState (i : Instr) (s : State) (k : State → State) : Host.Outcome State Fault Refusal :=
  match exec i s with
  | .next t => .next (k t)
  | .fault e => .fault e
  | .refused r => .refused r

/-- The slot of the focus: its word is fetched and decoded. A word that is no instruction, or one that its core does not have,
raises ILLEGAL_SLOT (R49). -/
noncomputable def stepSlot (s : State) (f : Focus) : Host.Outcome State Fault Refusal :=
  let r := readSlot s f
  let s := { s with focus := some r.1 }
  match decodeWord r.2 with
  | .ok i => if slotRuns r.1 r.2 i then thenState i s (fun t => advance t f.troupe) else .next (illegalSlot s r.1)
  | .reject _ => .next (illegalSlot s r.1)

/-- An event from outside: what arrives from another device takes its place among the events of this cycle (R308). -/
noncomputable def stepOutside (s : State) (i : Instr) : Host.Outcome State Fault Refusal :=
  if !external i then .next s else if comesLast i then .next (s.schedule s.now i) else exec i s

/-- A step: the slot at the focus; else a due event of the agenda; else an event from outside; else an event that the state
brings about; else a turn of a lane; else what comes after the slots of the cycle; else the end of the cycle. -/
noncomputable def step (s : State) : Host.Outcome State Fault Refusal :=
  match s.focus with
  | some f => stepSlot s f
  | none => match dueEvent s with
    | some e => exec e.1 e.2
    | none => match s.inbox with
      | i :: rest => stepOutside { s with inbox := rest } i
      | [] => match ownEvent s with
        | some i => exec i s
        | none => match laneStep s with
          | some (s, some i) => exec i s
          | some (s, none) => .next s
          | none => match endEvent s with
            | some e => exec e.1 e.2
            | none => match lateEvent s with
              | some i => exec i s
              | none => .next (tickClock s)

/-- The unit on which an instruction is placed: a guide cluster for the GFX class, tile 0 otherwise. -/
def fetchUnit (w : Word) : Nat := if classOf w = 28 then 288 else 0

/-- The descriptor of a company of one troupe that holds its whole unit (log 3). -/
def fetchDesc (u : Nat) : Desc :=
  { Desc.init with vregs := 32, barriers := 32, sems := 256, accs := if isGuide u then 0 else 8, scratch := granulesOf u }

/-- The state with one troupe of one ensemble on a unit, about to run the first slot of its kernel. -/
def placeProgram (s : State) (u : Nat) (w : Word) : State :=
  let tk := 256 * u
  let id := companyId s
  let d := fetchDesc u
  let c : Company :=
    { ctx := 0, part := 0, parent := none, depth := 0, desc := d, next := 1, total := 1, since := s.now, retired := 0, kids := [],
      firstCause := none, order := s.ids, tt := none }
  let s : State := { s with ids := s.ids + 2, comps := kset s.comps id c, rowCtx := (upTo 25).map (fun r => (r, 0)),
                            parts := kset s.parts 0 { running := true, ctx := 0, rows := 2 ^ 25 - 1, refused := none, holds := [] } }
  let s := admitAt s id c 0 u [tk] 0
  let s := s.modCore (coreOf tk) (fun k => { k with frames := [{ ctx := 0, text := 0, seg := 0, words := [w] }] })
  match s.troupe tk with
  | some t => { s with focus := some (newFocus s tk t 0 t.active t.active none) }
  | none => s

/-- The instruction word stored where the next step fetches: at the slot of the focus, or as a program loaded from outside
when no troupe is at a slot (log 3). -/
def State.withFetchWord (s : State) (nbits w : Nat) : State :=
  let x : Word := BitVec.ofNat 32 (w % 2 ^ nbits)
  match s.focus with
  | none => placeProgram s (fetchUnit x) x
  | some f => s.modCore (coreOf f.troupe) (fun k =>
    { k with frames := k.frames.map (fun r =>
        let i := (f.base - f.latch.text) % 4096 / 4 + f.k
        if r.ctx == f.latch.ctx && r.text == f.latch.text && r.seg == (f.base - f.latch.text) / 4096 then
          { r with words := lset (r.words ++ List.replicate (i + 1 - r.words.length) 0) i x }
        else r) })

end Sys2Proof.Machine
end

