-- ==== Sys2Proof/Safety.lean ====
section
/-! DEFINITION. What a safe run is, in the terms the statements use: both memories keep their canonical form, and a step
answers a next state. -/

namespace Sys2Proof.Machine

/-- Physical memory and scratch are in canonical form. -/
def State.memOk (s : State) : Bool := Memory.wf s.mem && Memory.wf s.scratch

/-- A step of the state answers a next state: it neither faults nor refuses. -/
def runs (s : State) : Prop := ∃ t, step s = .next t

/-- The next `n` steps from a state answer next states, and every state on the way has canonical memories. -/
def safeFor : Nat → State → Prop
  | 0, s => s.memOk = true
  | n + 1, s => s.memOk = true ∧ ∃ t, step s = .next t ∧ safeFor n t

end Sys2Proof.Machine
end

