-- ==== Sys2Proof/Certificates/Slice0/Obligations.lean ====
section
/-! DEFINITION. The statements for the provers, and the words in which they are said: where a slot stands, what its sources give,
what a step leaves unchanged. -/

namespace Sys2Proof.Claims

open Sys2Proof.Machine

/-! ## Words of the statements -/

/-- The machine stands at a slot: its focus is `f`, the troupe there is `t` with its sixteen threads (R9). -/
structure At (s : State) (f : Focus) (t : Troupe) : Prop where
  focus : s.focus = some f
  troupe : s.troupe f.troupe = some t
  threads : t.threads.length = 16

/-- Troupe `tk` stands as `t'` in `s'`, and nothing else of the state differs: every other troupe, every byte of memory and
scratch, every core, unit, ensemble, context and device register, and the slot at which the machine stands. -/
structure OnlyTroupe (s s' : State) (tk : Nat) (t' : Troupe) : Prop where
  this : s'.troupe tk = some t'
  others : ∀ k, k ≠ tk → s'.troupe k = s.troupe k
  rest : { s' with troupes := s.troupes } = s

/-- Thread i of the troupe runs the slot. -/
def Runs (f : Focus) (i : Nat) : Prop := i < 16 ∧ f.run.getLsbD i = true

/-- Reading source A in every thread that runs the slot gives `va`, and leaves the thread as in `th` (R32, R98). -/
def Reads1 (f : Focus) (t : Troupe) (a : BitVec 6) (ka : BitVec 1) (va : Nat → Operand) (th : Nat → Thread) : Prop :=
  ∀ i, Runs f i → readSrc f (f.issue + i) i (t.thread i) a (ka == 1) = .ok (va i, th i)

/-- Reading A and then B gives `va` and `vb` (R29). -/
def Reads2 (f : Focus) (t : Troupe) (a b : BitVec 6) (ka kb : BitVec 1) (va vb : Nat → Operand) (th : Nat → Thread) : Prop :=
  ∃ m : Nat → Thread, Reads1 f t a ka va m ∧
    ∀ i, Runs f i → readSrc f (f.issue + i) i (m i) b (kb == 1) = .ok (vb i, th i)

/-- Reading A, B and then D, which is always popped when it is a queue (R101). -/
def Reads3 (f : Focus) (t : Troupe) (a b d : BitVec 6) (ka kb : BitVec 1) (va vb vd : Nat → Operand) (th : Nat → Thread) : Prop :=
  ∃ m : Nat → Thread, Reads2 f t a b ka kb va vb m ∧
    ∀ i, Runs f i → readSrc f (f.issue + i) i (m i) d false = .ok (vd i, th i)

/-- The threads `th` have room for `n` more entries in queue d, when d is a queue (R99). -/
def HasRoom (f : Focus) (d : BitVec 6) (n : Nat) (th : Nat → Thread) : Prop :=
  ∀ i, Runs f i → d.toNat < 32 → ((th i).queue d.toNat).length + n ≤ 4

/-- The threads after a slot that pushes bits [31:0] of `v` into queue d in the threads that run it, and nothing when d is
no queue (R97, R109). -/
def pushed (f : Focus) (t : Troupe) (d : BitVec 6) (th : Nat → Thread) (v : Nat → Dword) : List Thread :=
  t.threads.mapIdx (fun i x =>
    if f.run.getLsbD i then
      (if d.toNat < 32 then
        (th i).setQueue d.toNat ((th i).queue d.toNat ++ [{ pos := .filled ((v i).setWidth 32) false, fresh := true }])
       else th i)
    else x)

/-- The highest-indexed thread of a mask. -/
def highest (m : BitVec 16) : Nat := (threadsOf m).getLastD 0

/-- A thread of PASS with a higher index does not run the slot now: it has committed it before (R405). -/
def overtaken (f : Focus) (i : Nat) : Bool :=
  (List.range 16).any (fun j => decide (i < j) && f.pass.getLsbD j && !f.run.getLsbD j)

/-- The g registers after a slot whose D is a g register, committed in the threads of `ran`: the value of the highest-indexed
thread stays, one that committed the slot before included (R106). -/
def gWritten (f : Focus) (t : Troupe) (d : BitVec 6) (v : Nat → Dword) (ran : BitVec 16 := f.run) : KV Dword :=
  if 32 ≤ d.toNat ∧ d.toNat < 48 ∧ ran ≠ 0 ∧ overtaken f (highest ran) = false then kset t.g (d.toNat - 32) (v (highest ran))
  else t.g

/-- The slot answers a next state that differs in the troupe alone: write(D, v) in every thread that runs it, after the
threads' reads, with the IEEE signals ORed into FPFLAGS and SAT set when `sat` (R109, R158). -/
def Writes (i : Instr) (s : State) (f : Focus) (t : Troupe) (d : BitVec 6) (th : Nat → Thread) (v : Nat → Dword)
    (fp : BitVec 5 := 0) (sat : Bool := false) : Prop :=
  ∃ s', exec i s = .next s' ∧ OnlyTroupe s s' f.troupe
    { t with threads := pushed f t d th v, g := gWritten f t d v, fpFlags := t.fpFlags ||| fp, sat := if sat then 1 else t.sat }

/-- The same for predicate d; p7 discards the write (R107). -/
def WritesPred (i : Instr) (s : State) (f : Focus) (t : Troupe) (d : BitVec 3) (th : Nat → Thread) (v : Nat → Bool)
    (fp : BitVec 5 := 0) : Prop :=
  ∃ s', exec i s = .next s' ∧ OnlyTroupe s s' f.troupe
    { t with threads := t.threads.mapIdx (fun i x => if f.run.getLsbD i then (th i).setPred d.toNat (v i) else x),
             fpFlags := t.fpFlags ||| fp }

/-- A result at the width of R146: 64 bits when D is a g register, else 32 bits, zero-extended. -/
def atW (d : BitVec 6) (op : (n : Nat) → BitVec n → BitVec n → BitVec n) (a b : Operand) : Dword :=
  if 32 ≤ d.toNat ∧ d.toNat < 48 then op 64 a.hi b.hi else (op 32 a.lo b.lo).setWidth 64

/-- A shift at the width of R146 by the whole low word of B, never masked (R149). -/
def shiftW (d : BitVec 6) (op : (n : Nat) → BitVec n → Nat → BitVec n) (a b : Operand) : Dword :=
  if 32 ≤ d.toNat ∧ d.toNat < 48 then op 64 a.hi b.lo.toNat else (op 32 a.lo b.lo.toNat).setWidth 64

/-- The shifts of R149 as arithmetic: a × 2^c, a / 2^c and the floor of the signed a / 2^c, each modulo 2^n. -/
def shlN (n : Nat) (a : BitVec n) (c : Nat) : BitVec n := BitVec.ofNat n (a.toNat * 2 ^ c)
def shrN (n : Nat) (a : BitVec n) (c : Nat) : BitVec n := BitVec.ofNat n (a.toNat / 2 ^ c)
def sarN (n : Nat) (a : BitVec n) (c : Nat) : BitVec n := BitVec.ofInt n (a.toInt / 2 ^ c)

/-- A 32-bit result, zero-extended. -/
def word (v : Word) : Dword := v.setWidth 64

/-- The immediate of R153 as a source. -/
def immSource (imm : BitVec 9) : Operand := .narrow (imm.signExtend 32)

/-- A value clamped to the signed 32-bit range. -/
def clamped (v : Int) : Word := BitVec.ofInt 32 (max (-2147483648) (min 2147483647 v))

/-- Pos and length of a bit field (R152). -/
def fieldPos (b : Word) : Nat := b.toNat % 256
def fieldLen (b : Word) : Nat := min (b.toNat / 256 % 256) 32

/-- Whether some thread that runs the slot has property p. -/
def someRuns (f : Focus) (p : Nat → Bool) : Bool := (threadsOf f.run).any p

/-- The OR of the signals of the threads that run the slot. -/
def orSignals (f : Focus) (fl : Nat → BitVec 5) : BitVec 5 := (threadsOf f.run).foldl (fun m i => m ||| fl i) 0

end Sys2Proof.Claims

open Sys2Proof Sys2Proof.Machine Sys2Proof.Claims

/-! ## The integer group -/

/-- R148, R149, R150: `add`, `sub`, `and`, `or`, `xor`, `andn`, `shl`, `shr`, `sar` and `mul` compute at the width of R146 and
write D; nothing else changes. -/
def Obligations.WidthArithmeticWritesResult : Prop :=
  ∀ s f t (x : RegF) va vb th, At s f t → Reads2 f t x.a x.b x.ka x.kb va vb th → HasRoom f x.d 1 th →
    Writes (.add x) s f t x.d th (fun i => atW x.d (fun _ a b => a + b) (va i) (vb i)) ∧
    Writes (.sub x) s f t x.d th (fun i => atW x.d (fun _ a b => a - b) (va i) (vb i)) ∧
    Writes (.andB x) s f t x.d th (fun i => atW x.d (fun _ a b => a &&& b) (va i) (vb i)) ∧
    Writes (.orB x) s f t x.d th (fun i => atW x.d (fun _ a b => a ||| b) (va i) (vb i)) ∧
    Writes (.xorB x) s f t x.d th (fun i => atW x.d (fun _ a b => a ^^^ b) (va i) (vb i)) ∧
    Writes (.andn x) s f t x.d th (fun i => atW x.d (fun _ a b => a &&& ~~~b) (va i) (vb i)) ∧
    Writes (.shl x) s f t x.d th (fun i => shiftW x.d shlN (va i) (vb i)) ∧
    Writes (.shr x) s f t x.d th (fun i => shiftW x.d shrN (va i) (vb i)) ∧
    Writes (.sar x) s f t x.d th (fun i => shiftW x.d sarN (va i) (vb i)) ∧
    Writes (.mul x) s f t x.d th (fun i => atW x.d (fun _ a b => a * b) (va i) (vb i))

/-- R109, R153: the immediate forms compute as the register forms with the sign-extended immediate as B; `movi`, `movh`, `mov` and the
pair form write D. -/
def Obligations.ImmediatesAndMovesWriteResult : Prop :=
  (∀ s f t (x : ImmF) va th, At s f t → Reads1 f t x.a x.ka va th → HasRoom f x.d 1 th →
     Writes (.addi x) s f t x.d th (fun i => atW x.d (fun _ a b => a + b) (va i) (immSource x.imm)) ∧
     Writes (.andi x) s f t x.d th (fun i => atW x.d (fun _ a b => a &&& b) (va i) (immSource x.imm)) ∧
     Writes (.ori x) s f t x.d th (fun i => atW x.d (fun _ a b => a ||| b) (va i) (immSource x.imm)) ∧
     Writes (.xori x) s f t x.d th (fun i => atW x.d (fun _ a b => a ^^^ b) (va i) (immSource x.imm)) ∧
     Writes (.muli x) s f t x.d th (fun i => atW x.d (fun _ a b => a * b) (va i) (immSource x.imm)) ∧
     (x.imm.toNat < 64 →
       Writes (.shli x) s f t x.d th (fun i => shiftW x.d shlN (va i) (.narrow (BitVec.ofNat 32 x.imm.toNat))) ∧
       Writes (.shri x) s f t x.d th (fun i => shiftW x.d shrN (va i) (.narrow (BitVec.ofNat 32 x.imm.toNat))) ∧
       Writes (.sari x) s f t x.d th (fun i => shiftW x.d sarN (va i) (.narrow (BitVec.ofNat 32 x.imm.toNat))))) ∧
  (∀ s f t (x : LongF), At s f t → HasRoom f x.d 1 t.thread →
    Writes (.movi x) s f t x.d t.thread (fun _ => x.imm.signExtend 64) ∧
    Writes (.movh x) s f t x.d t.thread (fun _ => BitVec.ofNat 64 (x.imm.toNat * 65536))) ∧
  (∀ s f t (x : UnF) va th, At s f t → Reads1 f t x.a x.ka va th → HasRoom f x.d 1 th →
    Writes (.mov x) s f t x.d th (fun i => (va i).val)) ∧
  (∀ s f t (x : RegF) va vb th, At s f t → Reads2 f t x.a x.b x.ka x.kb va vb th → HasRoom f x.d 1 th →
    Writes (.movPair x) s f t x.d th (fun i => BitVec.ofNat 64 ((vb i).lo.toNat * 2 ^ 32 + (va i).lo.toNat)))

/-- R148, R150: the 32-bit functions of two sources and of one, as numbers: minima and maxima in both orders, the high words of
both products; absolute value modulo 2^32, number of one bits, number of leading zero bits, reversed
bits. -/
def Obligations.WordFunctionsWriteResult : Prop :=
  (∀ s f t (x : RegF) va vb th, At s f t → Reads2 f t x.a x.b x.ka x.kb va vb th → HasRoom f x.d 1 th →
     Writes (.minI32 x) s f t x.d th (fun i => word (BitVec.ofInt 32 (min (va i).lo.toInt (vb i).lo.toInt))) ∧
     Writes (.maxI32 x) s f t x.d th (fun i => word (BitVec.ofInt 32 (max (va i).lo.toInt (vb i).lo.toInt))) ∧
     Writes (.minN32 x) s f t x.d th (fun i => word (BitVec.ofNat 32 (min (va i).lo.toNat (vb i).lo.toNat))) ∧
     Writes (.maxN32 x) s f t x.d th (fun i => word (BitVec.ofNat 32 (max (va i).lo.toNat (vb i).lo.toNat))) ∧
     Writes (.mulhI32 x) s f t x.d th (fun i => word (BitVec.ofInt 32 ((va i).lo.toInt * (vb i).lo.toInt / 2 ^ 32))) ∧
     Writes (.mulhN32 x) s f t x.d th (fun i => word (BitVec.ofNat 32 ((va i).lo.toNat * (vb i).lo.toNat / 2 ^ 32)))) ∧
  (∀ s f t (x : UnF) va th, At s f t → Reads1 f t x.a x.ka va th → HasRoom f x.d 1 th →
     Writes (.absI32 x) s f t x.d th (fun i => word (BitVec.ofNat 32 (va i).lo.toInt.natAbs)) ∧
     Writes (.popc x) s f t x.d th (fun i =>
       word (BitVec.ofNat 32 ((List.range 32).countP (fun k => (va i).lo.toNat / 2 ^ k % 2 == 1)))) ∧
     Writes (.clz x) s f t x.d th (fun i =>
       word (BitVec.ofNat 32 (if (va i).lo = 0 then 32 else 31 - Nat.log2 (va i).lo.toNat))) ∧
     Writes (.brev x) s f t x.d th (fun i => word ((va i).lo.reverse)))

/-- R152 (with R101, R148): `bfe` extracts its field as a number, zero or sign extended; `bfi` and `mad` read D after A and B and
write it, `bfi` with the field inserted bit by bit. -/
def Obligations.FieldAndAccumulatingFormsWriteResult : Prop :=
  (∀ s f t (x : RegF) va vb th, At s f t → Reads2 f t x.a x.b x.ka x.kb va vb th → HasRoom f x.d 1 th →
    Writes (.bfeN32 x) s f t x.d th (fun i =>
      word (BitVec.ofNat 32 ((va i).lo.toNat / 2 ^ fieldPos (vb i).lo % 2 ^ fieldLen (vb i).lo))) ∧
    Writes (.bfeI32 x) s f t x.d th (fun i =>
      word (BitVec.ofInt 32 (Int.bmod ((va i).lo.toInt / 2 ^ fieldPos (vb i).lo) (2 ^ fieldLen (vb i).lo))))) ∧
  (∀ s f t (x : RegF) va vb vd th, At s f t → Reads3 f t x.a x.b x.d x.ka x.kb va vb vd th → HasRoom f x.d 1 th →
    Writes (.mad x) s f t x.d th (fun i =>
      if 32 ≤ x.d.toNat ∧ x.d.toNat < 48 then (va i).hi * (vb i).hi + (vd i).hi
      else word ((va i).lo * (vb i).lo + (vd i).lo)) ∧
    ∀ v : Nat → Word,
      (∀ i, Runs f i → ∀ k, k < 32 → (v i).getLsbD k =
        (if fieldPos (vb i).lo ≤ k ∧ k < fieldPos (vb i).lo + fieldLen (vb i).lo then (va i).lo.getLsbD (k - fieldPos (vb i).lo)
         else (vd i).lo.getLsbD k)) →
      (∀ i, ¬ Runs f i → v i = 0) →
      Writes (.bfi x) s f t x.d th (fun i => word (v i)))

/-- R150: `addsat.i32` and `subsat.i32` clamp to the signed range, and set SAT when some thread clamps. -/
def Obligations.SaturatingFormsClampAndSetSat : Prop :=
  ∀ s f t (x : RegF) va vb th, At s f t → Reads2 f t x.a x.b x.ka x.kb va vb th → HasRoom f x.d 1 th →
    Writes (.addsatI32 x) s f t x.d th (fun i => word (clamped ((va i).lo.toInt + (vb i).lo.toInt))) 0
      (someRuns f (fun i => (clamped ((va i).lo.toInt + (vb i).lo.toInt)).toInt != (va i).lo.toInt + (vb i).lo.toInt)) ∧
    Writes (.subsatI32 x) s f t x.d th (fun i => word (clamped ((va i).lo.toInt - (vb i).lo.toInt))) 0
      (someRuns f (fun i => (clamped ((va i).lo.toInt - (vb i).lo.toInt)).toInt != (va i).lo.toInt - (vb i).lo.toInt))

/-- R109: `drop` pops, `dup` pushes its source twice, `qcnt` writes the counts of a queue and reads no entry, `qclr` empties
queues. -/
def Obligations.QueueMovesChangeQueues : Prop :=
  (∀ s f t (x : SrcF) va th, At s f t → Reads1 f t x.a 0 va th →
    ∃ s', exec (.drop x) s = .next s' ∧
      OnlyTroupe s s' f.troupe { t with threads := t.threads.mapIdx (fun i y => if f.run.getLsbD i then th i else y) }) ∧
  (∀ s f t (x : UnF) va th, At s f t → Reads1 f t x.a x.ka va th → HasRoom f x.d 2 th → x.d.toNat < 32 →
    ∃ s', exec (.dup x) s = .next s' ∧
      OnlyTroupe s s' f.troupe { t with threads := t.threads.mapIdx (fun i y =>
        if f.run.getLsbD i then
          (th i).setQueue x.d.toNat ((th i).queue x.d.toNat ++
            [{ pos := .filled (va i).lo false, fresh := true }, { pos := .filled (va i).lo false, fresh := true }])
        else y) }) ∧
  (∀ s f t (x : DaF), At s f t → HasRoom f x.d 1 t.thread →
    (∀ i, Runs f i → ((t.thread i).queue x.a.toNat).length ≤ 4) →
    Writes (.qcnt x) s f t x.d t.thread (fun i =>
      BitVec.ofNat 64 (16 * (4 - ((t.thread i).queue x.a.toNat).length) +
        ((t.thread i).queue x.a.toNat).countP (fun e => !e.fresh && (e.pos.value (f.issue + i)).isSome)))) ∧
  (∀ s f t (x : SrcF), At s f t → x.a.toNat < 48 →
    ∃ s' u, exec (.qclr x) s = .next s' ∧ OnlyTroupe s s' f.troupe { t with threads := u } ∧ u.length = 16 ∧
      ∀ i, i < 16 → ∀ th', u[i]? = some th' →
        th'.preds = (t.thread i).preds ∧ th'.tags = (t.thread i).tags ∧
        ∀ q, q < 32 → th'.queue q =
          (if f.run.getLsbD i ∧ (if x.a.toNat < 32 then q = x.a.toNat
              else ((f.latch.gread (x.a.toNat - 32)).setWidth 32 : Word).getLsbD q = true) then []
           else (t.thread i).queue q))

/-! ## Predicates -/

/-- R154 to R156: the integer compares write their predicate from the order of the two words; the predicate functions read the
predicates as they stood at issue; `pvote` gives every thread the OR over the threads that pass the guard; the f32 compares, with no
enabled exception signalled, give equality of numbers, order and unordered, and any signal goes to FPFLAGS. -/
def Obligations.ComparesAndPredicatesWritePredicate : Prop :=
  (∀ s f t (x : CmpF) va vb th, At s f t → Reads2 f t x.a x.b x.ka x.kb va vb th →
     WritesPred (.eq x) s f t x.d th (fun i => decide ((va i).lo = (vb i).lo)) ∧
     WritesPred (.ne x) s f t x.d th (fun i => decide ((va i).lo ≠ (vb i).lo)) ∧
     WritesPred (.ltI32 x) s f t x.d th (fun i => decide ((va i).lo.toInt < (vb i).lo.toInt)) ∧
     WritesPred (.leI32 x) s f t x.d th (fun i => decide ((va i).lo.toInt ≤ (vb i).lo.toInt)) ∧
     WritesPred (.ltN32 x) s f t x.d th (fun i => decide ((va i).lo.toNat < (vb i).lo.toNat)) ∧
     WritesPred (.leN32 x) s f t x.d th (fun i => decide ((va i).lo.toNat ≤ (vb i).lo.toNat))) ∧
  (∀ s f t (x : Pred3F), At s f t →
    WritesPred (.pand x) s f t x.d t.thread (fun i => (f.latch.thread i).pred x.a.toNat && (f.latch.thread i).pred x.b.toNat) ∧
    WritesPred (.por x) s f t x.d t.thread (fun i => (f.latch.thread i).pred x.a.toNat || (f.latch.thread i).pred x.b.toNat) ∧
    WritesPred (.pxor x) s f t x.d t.thread (fun i => (f.latch.thread i).pred x.a.toNat != (f.latch.thread i).pred x.b.toNat)) ∧
  (∀ s f t (x : Pred2F), At s f t →
    WritesPred (.pnot x) s f t x.d t.thread (fun i => !(f.latch.thread i).pred x.a.toNat) ∧
    WritesPred (.pvote x) s f t x.d t.thread (fun _ =>
      (List.range 16).any (fun j => f.pass.getLsbD j && (f.latch.thread j).pred x.a.toNat))) ∧
  (∀ s f t (x : PsetF) va th, At s f t → Reads1 f t x.a x.ka va th →
    WritesPred (.pset x) s f t x.d th (fun i => decide ((va i).lo ≠ 0))) ∧
  (∀ s f t (x : CmpF) va vb th, At s f t → Reads2 f t x.a x.b x.ka x.kb va vb th →
     let a (i : Nat) : FVal := ffDecode f32 (va i).lo.toNat
     let b (i : Nat) : FVal := ffDecode f32 (vb i).lo.toNat
     let quiet (i : Nat) : BitVec 5 := nvOf (a i) ||| nvOf (b i)
     let loud (i : Nat) : BitVec 5 := if fvUnordered (a i) (b i) then fpNV else 0
     ((∀ i, Runs f i → quiet i &&& t.fpEnable = 0) →
       WritesPred (.feq x) s f t x.d th (fun i => fvEq (a i) (b i)) (orSignals f quiet) ∧
       WritesPred (.funF x) s f t x.d th (fun i => fvUnordered (a i) (b i)) (orSignals f quiet)) ∧
     ((∀ i, Runs f i → loud i &&& t.fpEnable = 0) →
       WritesPred (.flt x) s f t x.d th (fun i => fvLt (a i) (b i)) (orSignals f loud) ∧
       WritesPred (.fle x) s f t x.d th (fun i => fvLt (a i) (b i) || fvEq (a i) (b i)) (orSignals f loud)))

/-! ## Floating point -/

/-- R158, R159, R160: with no enabled exception signalled, the FP functions write their result and OR their signals into
FPFLAGS. -/
def Obligations.FloatFunctionsWriteResult : Prop :=
  (∀ s f t (x : RegF) va vb th, At s f t → Reads2 f t x.a x.b x.ka x.kb va vb th → HasRoom f x.d 1 th →
    (∀ (i : RegF → Instr) (op : Nat → Nat → Nat × BitVec 5),
      (i, op) ∈ ([(.fadd, ffAdd f32), (.fsub, ffSub f32), (.fmul, ffMul f32), (.fmin, ffMinMax f32 false),
        (.fmax, ffMinMax f32 true)] : List ((RegF → Instr) × (Nat → Nat → Nat × BitVec 5))) →
      (∀ k, Runs f k → (op (va k).lo.toNat (vb k).lo.toNat).2 &&& t.fpEnable = 0) →
      Writes (i x) s f t x.d th (fun k => word (BitVec.ofNat 32 (op (va k).lo.toNat (vb k).lo.toNat).1))
        (orSignals f (fun k => (op (va k).lo.toNat (vb k).lo.toNat).2))) ∧
    Writes (.fcopysign x) s f t x.d th (fun k =>
      BitVec.ofNat 64 ((va k).lo.toNat % 2 ^ 31 + (vb k).lo.toNat / 2 ^ 31 * 2 ^ 31))) ∧
  (∀ s f t (x : UnF) va th, At s f t → Reads1 f t x.a x.ka va th → HasRoom f x.d 1 th →
    (∀ (i : UnF → Instr) (op : Nat → Nat × BitVec 5),
      (i, op) ∈ ([(.ffloor, ffIntegral f32 .floor), (.fceil, ffIntegral f32 .ceil), (.ftrunc, ffIntegral f32 .trunc),
        (.frint, ffIntegral f32 .nearest), (.fsat, ffSat01 f32)] : List ((UnF → Instr) × (Nat → Nat × BitVec 5))) →
      (∀ k, Runs f k → (op (va k).lo.toNat).2 &&& t.fpEnable = 0) →
      Writes (i x) s f t x.d th (fun k => word (BitVec.ofNat 32 (op (va k).lo.toNat).1))
        (orSignals f (fun k => (op (va k).lo.toNat).2))) ∧
    Writes (.fabs x) s f t x.d th (fun k => BitVec.ofNat 64 ((va k).lo.toNat % 2 ^ 31)) ∧
    Writes (.fneg x) s f t x.d th (fun k => word ((va k).lo + 0x80000000))) ∧
  (∀ s f t (x : RegF) va vb vd th, At s f t → Reads3 f t x.a x.b x.d x.ka x.kb va vb vd th → HasRoom f x.d 1 th →
    (∀ k, Runs f k → (ffFma f32 (va k).lo.toNat (vb k).lo.toNat (vd k).lo.toNat).2 &&& t.fpEnable = 0) →
    Writes (.ffma x) s f t x.d th
      (fun k => word (BitVec.ofNat 32 (ffFma f32 (va k).lo.toNat (vb k).lo.toNat (vd k).lo.toNat).1))
      (orSignals f (fun k => (ffFma f32 (va k).lo.toNat (vb k).lo.toNat (vd k).lo.toNat).2)))

/-- R161: with no enabled exception signalled, the packed functions compute each half in its format, pack the halves and OR
their signals. -/
def Obligations.PackedFunctionsWriteResult : Prop :=
  (∀ s f t (x : RegF) va vb th, At s f t → Reads2 f t x.a x.b x.ka x.kb va vb th → HasRoom f x.d 1 th →
    ∀ (i : RegF → Instr) (op : Nat → Nat → Nat × BitVec 5),
      (i, op) ∈ ([(.haddF16x2, ffAdd f16), (.hmulF16x2, ffMul f16), (.hminF16x2, ffMinMax f16 false),
        (.hmaxF16x2, ffMinMax f16 true), (.haddBf16x2, ffAdd bf16), (.hmulBf16x2, ffMul bf16),
        (.hminBf16x2, ffMinMax bf16 false), (.hmaxBf16x2, ffMinMax bf16 true)] :
          List ((RegF → Instr) × (Nat → Nat → Nat × BitVec 5))) →
      let low (k : Nat) : Nat × BitVec 5 := op ((va k).lo.toNat % 65536) ((vb k).lo.toNat % 65536)
      let high (k : Nat) : Nat × BitVec 5 := op ((va k).lo.toNat / 65536) ((vb k).lo.toNat / 65536)
      (∀ k, Runs f k → ((low k).2 ||| (high k).2) &&& t.fpEnable = 0) →
      Writes (i x) s f t x.d th (fun k => word (BitVec.ofNat 32 ((low k).1 % 65536 + 65536 * (high k).1)))
        (orSignals f (fun k => (low k).2 ||| (high k).2))) ∧
  (∀ s f t (x : RegF) va vb vd th, At s f t → Reads3 f t x.a x.b x.d x.ka x.kb va vb vd th → HasRoom f x.d 1 th →
    ∀ (i : RegF → Instr) (F : FFmt), (i, F) ∈ ([(.hfmaF16x2, f16), (.hfmaBf16x2, bf16)] : List ((RegF → Instr) × FFmt)) →
      let low (k : Nat) : Nat × BitVec 5 :=
        ffFma F ((va k).lo.toNat % 65536) ((vb k).lo.toNat % 65536) ((vd k).lo.toNat % 65536)
      let high (k : Nat) : Nat × BitVec 5 :=
        ffFma F ((va k).lo.toNat / 65536) ((vb k).lo.toNat / 65536) ((vd k).lo.toNat / 65536)
      (∀ k, Runs f k → ((low k).2 ||| (high k).2) &&& t.fpEnable = 0) →
      Writes (i x) s f t x.d th (fun k => word (BitVec.ofNat 32 ((low k).1 % 65536 + 65536 * (high k).1)))
        (orSignals f (fun k => (low k).2 ||| (high k).2)))

/-- R142, R143, R144: a conversion writes the converted word, ORs its signals and sets SAT where it clamps, and never traps on
a signal. -/
def Obligations.ConversionsWriteResult : Prop :=
  let done (i : Instr) (s : State) (f : Focus) (t : Troupe) (d : BitVec 6) (th : Nat → Thread) (c : Nat → Cvt) : Prop :=
    Writes i s f t d th (fun k => word (c k).1) (orSignals f (fun k => (c k).2.1)) (someRuns f (fun k => (c k).2.2))
  (∀ s f t (x : UnF) va th, At s f t → Reads1 f t x.a x.ka va th → HasRoom f x.d 1 th →
    done (.cvtF32I32 x) s f t x.d th (fun k => cvtFromInt (va k).lo.toInt) ∧
    done (.cvtF32N32 x) s f t x.d th (fun k => cvtFromInt (va k).lo.toNat) ∧
    done (.cvtI32F32 x) s f t x.d th (fun k => cvtToInt .nearest (-2 ^ 31) (2 ^ 31 - 1) (va k).lo) ∧
    done (.cvtN32F32 x) s f t x.d th (fun k => cvtToInt .nearest 0 (2 ^ 32 - 1) (va k).lo) ∧
    done (.cvtI32F32Rz x) s f t x.d th (fun k => cvtToInt .trunc (-2 ^ 31) (2 ^ 31 - 1) (va k).lo) ∧
    done (.cvtF32F16 x) s f t x.d th (fun k => cvtHalf f16 ((va k).lo.toNat % 65536)) ∧
    done (.cvtF32F16h x) s f t x.d th (fun k => cvtHalf f16 ((va k).lo.toNat / 65536)) ∧
    done (.cvtF32Bf16 x) s f t x.d th (fun k => cvtHalf bf16 ((va k).lo.toNat % 65536)) ∧
    done (.cvtF32Bf16h x) s f t x.d th (fun k => cvtHalf bf16 ((va k).lo.toNat / 65536)) ∧
    done (.cvtE4m3F32 x) s f t x.d th (fun k => cvtToElement 3 (va k).lo) ∧
    done (.cvtE5m2F32 x) s f t x.d th (fun k => cvtToElement 4 (va k).lo)) ∧
  (∀ s f t (x : RegF) va vb th, At s f t → Reads2 f t x.a x.b x.ka x.kb va vb th → HasRoom f x.d 1 th →
    done (.cvtF16x2F32 x) s f t x.d th (fun k => cvtPair f16 (va k).lo (vb k).lo) ∧
    done (.cvtBf16x2F32 x) s f t x.d th (fun k => cvtPair bf16 (va k).lo (vb k).lo)) ∧
  (∀ s f t (x : Byte4F) va th, At s f t → Reads1 f t x.a x.ka va th → HasRoom f x.d 1 th →
    done (.cvtF32E4m3 x) s f t x.d th (fun k => cvtElement 3 ((va k).lo.extractLsb' (8 * x.idx.toNat) 8).toNat) ∧
    done (.cvtF32E5m2 x) s f t x.d th (fun k => cvtElement 4 ((va k).lo.extractLsb' (8 * x.idx.toNat) 8).toNat)) ∧
  (∀ s f t (x : Nib8F) va th, At s f t → Reads1 f t x.a x.ka va th → HasRoom f x.d 1 th →
    done (.cvtF32E2m1 x) s f t x.d th (fun k => cvtElement 5 ((va k).lo.extractLsb' (4 * x.idx.toNat) 4).toNat))

/-- R71, R162, R165: an SFU slot whose D is a queue reserves a position in every thread that runs it, whose value comes 20
cycles after the thread's cycle; the slot opens one operation on the flag that KB selects, with a part for each thread, and
no other state changes. -/
def Obligations.SpecialFunctionsDeliverAfterTwentyCycles : Prop :=
  let done (i : Instr) (s : State) (f : Focus) (t : Troupe) (y : Bool) (d : BitVec 6) (th : Nat → Thread)
      (v : Nat → Word) : Prop :=
    ∃ s' t', exec i s = .next s' ∧ s'.troupe f.troupe = some t' ∧
      (∀ k, k ≠ f.troupe → s'.troupe k = s.troupe k) ∧
      { s' with troupes := s.troupes, ids := s.ids, agenda := s.agenda } = s ∧
      { op := s.ids, flag := if y then t.clause.sety else t.clause.setx, pend := (threadsOf f.run).length } ∈ t'.outs ∧
      (∀ o, o ∈ t.outs → o.op ≠ s.ids → o ∈ t'.outs) ∧
      ∀ k, k < 16 →
        (Runs f k → ∃ id, t'.thread k = (th k).setQueue d.toNat ((th k).queue d.toNat ++
            [{ pos := .timed id (f.issue + k + 20) (.word (v k)), fresh := true }]) ∧
          ∃ a, (f.issue + k + 20, Instr.resultArrival a) ∈ s'.agenda ∧ a.troupe = f.troupe ∧
            a.fills = [{ thread := k, queue := d.toNat, id := id, val := .word (v k) }]) ∧
        (¬ Runs f k → t'.thread k = t.thread k)
  (∀ s f t (x : SfuF) va th, At s f t → Reads1 f t x.a x.ka va th → HasRoom f x.d 1 th → x.d.toNat < 32 → f.run ≠ 0 →
    f.op = none → (∀ c, c < 12 → t.flagCount c < 63) →
    ∀ (i : SfuF → Instr) (fn : Nat),
      (i, fn) ∈ ([(.rcp, 0), (.rsqrt, 1), (.sqrt, 2), (.exp2, 3), (.log2, 4), (.sin, 5), (.cos, 6), (.tanh, 7), (.sigm, 8)] :
        List ((SfuF → Instr) × Nat)) →
      (∀ k, Runs f k → (sfuUnary fn (va k).lo).2 &&& 0x18 &&& t.fpEnable = 0) →
      done (i x) s f t (x.kb == 1) x.d th (fun k => BitVec.ofNat 32 (sfuUnary fn (va k).lo).1)) ∧
  (∀ s f t (x : RegF) va vb th, At s f t → Reads2 f t x.a x.b x.ka x.kb va vb th → HasRoom f x.d 1 th → x.d.toNat < 32 →
    f.run ≠ 0 → f.op = none → (∀ c, c < 12 → t.flagCount c < 63) →
    let q (k : Nat) : Nat × BitVec 5 := fvDiv f32 (ffDecode f32 (va k).lo.toNat) (ffDecode f32 (vb k).lo.toNat)
    (∀ k, Runs f k → (q k).2 &&& 0x18 &&& t.fpEnable = 0) →
    done (.divF32 x) s f t (x.kb == 1 && decide (32 ≤ x.b.toNat)) x.d th (fun k => BitVec.ofNat 32 (q k).1))

/-! ## Control -/

/-- The target of a B-form branch: the bundle's address plus 4 × OFF18, modulo 2^64 (R31, R74). -/
def Sys2Proof.Claims.branchTarget (f : Focus) (off : BitVec 18) : Nat := (((f.base : Int) + 4 * off.toInt) % 2 ^ 64).toNat

/-- The address of the bundle that follows the focus's: after the last bundle of a segment's used text the start of the next
segment (R66, R75, R392). What follows the last bundle of the last segment is the model's choice (log 50). -/
def Sys2Proof.Claims.bundleAfter (s : State) (f : Focus) (t : Troupe) : Nat :=
  match s.frameOf f.troupe t f.base with
  | some r =>
    if t.text + 4096 * r.seg + 4 * r.words.length ≤ f.base + 4 * (f.k + f.width) ∧ r.seg + 1 < t.segs then
      t.text + 4096 * r.seg + 4096
    else f.base + 4 * (f.k + f.width)
  | none => f.cont.1

/-- The state with the open bundle's branch target set. -/
def Sys2Proof.Claims.withTarget (s : State) (f : Focus) (a : Nat) : State := { s with focus := some { f with target := some a } }

/-- c(t) of R73: predicate p XOR neg, as it stood at issue, in a thread that passes the guard. -/
def Sys2Proof.Claims.condAt (f : Focus) (p : BitVec 3) (neg : BitVec 1) (i : Nat) : Bool :=
  f.pass.getLsbD i && ((f.latch.thread i).pred p.toNat != (neg == 1))

/-- R36, R37, R41, R52: a header whose flags are clear loads the clause state; a guard keeps the threads whose predicate, XOR NEG, is
true; `nop` changes nothing. R74 to R76: where a branch goes. `bpa` needs c(t) in every thread that passes the guard, `bpn` in
none; `call` pushes the address of the bundle after its own, `ret` pops it; `brx` takes the value of a g register or the literal; `loop`
branches while its decremented counter is nonzero. -/
def Obligations.HeadersGuardsAndBranchesAct : Prop :=
  (∀ s f t (x : HdrF), At s f t → (∀ i, i < 12 → x.wait.getLsbD i = true → t.flagCount i = 0) →
    ∃ s', exec (.clause x) s = .next s' ∧
      OnlyTroupe s s' f.troupe { t with clause := { setx := x.setx.toNat, sety := x.sety.toNat, len := x.len.toNat } }) ∧
  (∀ s f t (x : GrdF), At s f t → f.first = true →
    ∃ m : BitVec 16, (∀ i, i < 16 → m.getLsbD i = condAt f x.pred x.neg i) ∧
      exec (.guard x) s = .next { s with focus := some { f with pass := m, run := m } }) ∧
  (∀ s f t (x : StopF), At s f t → exec (.nop x) s = .next s) ∧
  (∀ s f t, At s f t → f.run ≠ 0 →
     (∀ x : JumpF, exec (.br x) s = .next (withTarget s f (branchTarget f x.off))) ∧
     (∀ x : CondF, exec (.bpa x) s = .next
       (if (List.range 16).all (fun i => !f.pass.getLsbD i || condAt f x.pred x.neg i) then withTarget s f (branchTarget f x.off) else s)) ∧
     (∀ x : CondF, exec (.bpn x) s = .next
       (if (List.range 16).all (fun i => !condAt f x.pred x.neg i) then withTarget s f (branchTarget f x.off) else s)) ∧
     (∀ x : JumpF, t.retStack.length < 16 → ∃ s', exec (.call x) s = .next s' ∧
       OnlyTroupe (withTarget s f (branchTarget f x.off)) s' f.troupe
         { t with retStack := bundleAfter s f t :: t.retStack }) ∧
     (∀ (x : StopF) a rest, t.retStack = a :: rest → ∃ s', exec (.ret x) s = .next s' ∧
       OnlyTroupe (withTarget s f a) s' f.troupe { t with retStack := rest }) ∧
     (∀ (x : SrcF) (v : Dword), v.toNat % 4 = 0 →
       (x.a = 61 ∧ v = f.lit.signExtend 64 ∨ 32 ≤ x.a.toNat ∧ x.a.toNat < 48 ∧ v = f.latch.gread (x.a.toNat - 32)) →
       exec (.brx x) s = .next (withTarget s f v.toNat)) ∧
     (∀ x : LoopF, ∃ s', exec (.loopG x) s = .next s' ∧
       OnlyTroupe (if f.latch.gread (8 + x.ctr.toNat) = 1 then s else withTarget s f (branchTarget f x.off)) s' f.troupe
         { t with g := kset t.g (8 + x.ctr.toNat) (f.latch.gread (8 + x.ctr.toNat) - 1) }))

/-! ## Traps -/

/-- The troupe after a precise trap at the slot of the focus: the trap registers hold the cause, the bundle, the slot, the
masks; the bundle is split at the slot for the faulting threads, with the predicates of its issue, and their origins wait; the rest
is as in `t` (R402, R405, R409, R156). -/
structure Sys2Proof.Claims.TrapTaken (f : Focus) (t t' : Troupe) (cause detail : Nat) (value : Option Dword) (redo : BitVec 16) : Prop where
  causeReg : t'.causeReg.toNat = 256 * detail + cause
  epc : t'.epc = f.base
  slot : t'.eslot.toNat = f.k ∧ t'.slotResume.toNat = f.k
  eaddr : ∀ v, value = some v → t'.eaddr = v
  masks : t'.redoPass = f.pass ∧ t'.redo = redo
  split : t'.split = some { slot := f.k, pass := f.pass, redo := redo, op := f.op,
                            preds := f.latch.threads.map (fun th => th.preds), scopesel := f.latch.scopesel,
                            answer := f.answer }
  origins : (t'.origins.drop t.origins.length).map (fun o => o.thread) = threadsOf redo
  kept : { t' with causeReg := t.causeReg, epc := t.epc, eslot := t.eslot, slotResume := t.slotResume, eaddr := t.eaddr,
                   redoPass := t.redoPass, redo := t.redo, split := t.split, origins := t.origins, readyAt := t.readyAt } = t

/-- The slot traps with nothing else of the state changed but the identifiers given out, the origins' arrival on the agenda,
and that the machine stands at no slot. -/
def Sys2Proof.Claims.Traps (i : Instr) (s : State) (f : Focus) (t : Troupe) (cause detail : Nat) (value : Option Dword)
    (redo : BitVec 16) : Prop :=
  ∃ s' t', exec i s = .next s' ∧ s'.troupe f.troupe = some t' ∧ TrapTaken f t t' cause detail value redo ∧
    (∀ k, k ≠ f.troupe → s'.troupe k = s.troupe k) ∧ s'.focus = none ∧
    { s' with troupes := s.troupes, focus := s.focus, ids := s.ids, agenda := s.agenda } = s

/-- A troupe whose traps are delivered at once: no handler, consuming no sketch; and a slot index of a bundle. -/
def Sys2Proof.Claims.PlainTrap (f : Focus) (t : Troupe) : Prop := t.handler = false ∧ t.spec.sketches = [] ∧ f.k < 8

/-- R73: the active mask and the mask stack under `bif`, `belse` and `bjoin`; a full or empty mask stack traps with detail 2 in every
thread that passes the guard, and changes neither. -/
def Obligations.DivergenceKeepsMaskStack : Prop :=
  ∀ s f t, At s f t → f.run ≠ 0 →
    (∀ (x : CondF) (c : BitVec 16), t.maskStack.length < 16 → (∀ i, i < 16 → c.getLsbD i = condAt f x.pred x.neg i) →
      ∃ s', exec (.bif x) s = .next s' ∧
        (if c = 0 then
          OnlyTroupe (withTarget s f (branchTarget f x.off)) s' f.troupe
            { t with maskStack := (t.active, 0) :: t.maskStack, active := t.active &&& ~~~c }
         else
          OnlyTroupe s s' f.troupe { t with maskStack := (t.active, t.active &&& ~~~c) :: t.maskStack, active := c })) ∧
    (∀ (x : JumpF) m e rest, t.maskStack = (m, e) :: rest →
      ∃ s', exec (.belse x) s = .next s' ∧
        (if e = 0 then s' = withTarget s f (branchTarget f x.off)
         else OnlyTroupe s s' f.troupe { t with maskStack := (m, 0) :: rest, active := e })) ∧
    (∀ (x : StopF) m e rest, t.maskStack = (m, e) :: rest →
      ∃ s', exec (.bjoin x) s = .next s' ∧ OnlyTroupe s s' f.troupe { t with maskStack := rest, active := m }) ∧
    (PlainTrap f t →
      (∀ x : CondF, 16 ≤ t.maskStack.length → Traps (.bif x) s f t 0x05 2 none f.run) ∧
      (∀ x : JumpF, t.maskStack = [] → Traps (.belse x) s f t 0x04 2 none f.run) ∧
      (∀ x : StopF, t.maskStack = [] → Traps (.bjoin x) s f t 0x04 2 none f.run))

/-- R75: the traps of the return stack and of `brx` are precise and strike every thread that passes the guard: a full or empty return
stack (detail 1), a misaligned target. The active mask, the stacks and the program counter are unchanged. -/
def Obligations.ControlTrapsArePrecise : Prop :=
  ∀ s f t, At s f t → PlainTrap f t → f.run ≠ 0 →
    (∀ x : JumpF, 16 ≤ t.retStack.length → Traps (.call x) s f t 0x05 1 none f.run) ∧
    (∀ x : StopF, t.retStack = [] → Traps (.ret x) s f t 0x04 1 none f.run) ∧
    (∀ x : SrcF, 32 ≤ x.a.toNat → x.a.toNat < 48 → (f.latch.gread (x.a.toNat - 32)).toNat % 4 ≠ 0 →
      Traps (.brx x) s f t 0x07 0 (some (f.latch.gread (x.a.toNat - 32))) f.run) ∧
    (∀ x : SrcF, x.a = 61 → (f.lit.signExtend 64 : Dword).toNat % 4 ≠ 0 → Traps (.brx x) s f t 0x07 0 (some (f.lit.signExtend 64)) f.run)

/-- R151 (with R147, R405): division truncates toward zero and the remainder takes the sign of the dividend; 0x80000000 ÷ −1 gives
0x80000000 and remainder 0. With divisor 0 in some threads the slot commits in the others and traps in those with INT_DIV0 and the
dividend of the lowest-indexed one; their queues are as before. -/
def Obligations.DivisionTruncatesAndTrapsOnZero : Prop :=
  (∀ s f t (x : RegF) va vb th, At s f t → Reads2 f t x.a x.b x.ka x.kb va vb th → HasRoom f x.d 1 th →
     (∀ i, Runs f i → (vb i).lo ≠ 0) →
     Writes (.divI32 x) s f t x.d th (fun i => word (BitVec.ofInt 32 (Int.tdiv (va i).lo.toInt (vb i).lo.toInt))) ∧
     Writes (.divN32 x) s f t x.d th (fun i => word (BitVec.ofNat 32 ((va i).lo.toNat / (vb i).lo.toNat))) ∧
     Writes (.remI32 x) s f t x.d th (fun i => word (BitVec.ofInt 32 (Int.tmod (va i).lo.toInt (vb i).lo.toInt))) ∧
     Writes (.remN32 x) s f t x.d th (fun i => word (BitVec.ofNat 32 ((va i).lo.toNat % (vb i).lo.toNat)))) ∧
  (∀ s f t (x : RegF) va vb th (zero : BitVec 16), At s f t → PlainTrap f t → Reads2 f t x.a x.b x.ka x.kb va vb th →
    HasRoom f x.d 1 th → (∀ i, i < 16 → zero.getLsbD i = (f.run.getLsbD i && decide ((vb i).lo = 0))) → zero ≠ 0 →
    let g : Focus := { f with run := f.run &&& ~~~zero }
    ∀ (i : RegF → Instr) (q : Int → Int → Int) (signed : Bool),
      (i, q, signed) ∈ ([(.divI32, Int.tdiv, true), (.divN32, Int.tdiv, false), (.remI32, Int.tmod, true), (.remN32, Int.tmod, false)] :
        List ((RegF → Instr) × (Int → Int → Int) × Bool)) →
      let num (w : Word) : Int := if signed then w.toInt else w.toNat
      let out (k : Nat) : Dword := word (BitVec.ofInt 32 (q (num (va k).lo) (num (vb k).lo)))
      ∃ s' t', exec (i x) s = .next s' ∧ s'.troupe f.troupe = some t' ∧
        TrapTaken f { t with threads := pushed g t x.d th out, g := gWritten f t x.d out g.run }
          t' 0x0D 0 (some (word (va (leaderOf zero)).lo)) zero ∧
        (∀ k, k ≠ f.troupe → s'.troupe k = s.troupe k) ∧ s'.focus = none ∧
        { s' with troupes := s.troupes, focus := s.focus, ids := s.ids, agenda := s.agenda } = s)

/-! ## Tasks -/

/-- g register D set to v; `z` discards it (R109). -/
def Sys2Proof.Claims.gSet (t : Troupe) (d : BitVec 6) (v : Dword) : KV Dword :=
  if 32 ≤ d.toNat ∧ d.toNat < 48 then kset t.g (d.toNat - 32) v else t.g

/-- The value of a g field as it stood at issue, of `lit` sign-extended, or 0 for `z` (R29, R32). -/
def Sys2Proof.Claims.gVal (f : Focus) (a : BitVec 6) : Dword :=
  if 32 ≤ a.toNat ∧ a.toNat < 48 then f.latch.gread (a.toNat - 32) else if a = 61 then f.lit.signExtend 64 else 0

/-- A troupe that is neither a handler nor consuming a sketch. -/
def Sys2Proof.Claims.Plain (t : Troupe) : Prop := t.handler = false ∧ t.spec.sketches = []

/-- Nothing made before is still to perform but, perhaps, reductions: no store is queued or at a scratch port, no access waits, no
push is held, no speculative effect is held, and no matrix operation of the unit's troupes has still to read or to write. -/
structure Sys2Proof.Claims.StoresDone (s : State) (unit : Nat) : Prop where
  stores : s.storeQ = []
  waits : s.waitQ = []
  ports : ∀ p, p ∈ s.cores → p.2.port = [] ∧ p.2.pushes = []
  mats : ∀ tk lim, unitOf tk = unit → matReads s tk lim = [] ∧ matWrites s tk lim = []
  effects : ∀ p, p ∈ s.troupes → p.2.spec.held = []

/-- Nothing made before is still to perform for the unit's troupes. -/
def Sys2Proof.Claims.Quiet (s : State) (unit : Nat) : Prop := StoresDone s unit ∧ (s.tile unit).partials = []

/-- No access is at a scratch port. -/
def Sys2Proof.Claims.NoPorts (s : State) : Prop := ∀ p, p ∈ s.cores → p.2.port = []

/-- A g field of a slot, or `z`. -/
def Sys2Proof.Claims.GOrZ (x : BitVec 6) : Prop := 32 ≤ x.toNat ∧ x.toNat < 48 ∨ x = 56

/-- A g field, `z` or `lit`, of a uniform slot. -/
def Sys2Proof.Claims.UName (x : BitVec 6) : Prop := GOrZ x ∨ x = 61

/-- R95, R112, R115: `yield` marks the troupe; `vclaim` and `vgive` change the claim when the value is legal and the pool has room,
and give status 1 or 2 with nothing changed otherwise. `vgive` of a legal value, with no VMEM operation on its way that names a
register given back, gives those registers up with their contents; `role` gives the old role register and sets LABEL and WOPEN. -/
def Obligations.ClaimsRoleAndYieldAct : Prop :=
  ∀ s f t, At s f t → f.run ≠ 0 → Plain t →
    (∀ x : StopF, ∃ s', exec (.yield x) s = .next s' ∧ OnlyTroupe s s' f.troupe { t with yielded := true }) ∧
    (∀ (x : DaF), GOrZ x.d → 32 ≤ x.a.toNat → x.a.toNat < 48 →
      let n := (gVal f x.a).toNat
      (∃ s', exec (.vclaim x) s = .next s' ∧ OnlyTroupe s s' f.troupe
        (if n ≤ 32 ∧ n % 8 = 0 ∧ t.vclaim ≤ n then
          (if n - t.vclaim ≤ freeVregs s (coreOf f.troupe) then { t with vclaim := n, g := gSet t x.d 0 }
           else { t with g := gSet t x.d 1 })
         else { t with g := gSet t x.d 2 })) ∧
      (n ≤ t.vclaim ∧ n % 8 = 0 →
        (∀ e o r, e ∈ s.agenda → e.2 = .vmemComplete f.troupe o → r ∈ o.regs → ¬ (n ≤ r ∧ r < t.vclaim)) →
        ∃ s', exec (.vgive x) s = .next s' ∧ OnlyTroupe s s' f.troupe
          { t with vclaim := n, vregs := t.vregs.filter (fun p => p.1 < n), badVregs := t.badVregs.filter (fun r => r < n),
                   g := gSet t x.d 0 }) ∧
      (¬ (n ≤ t.vclaim ∧ n % 8 = 0) → ∃ s', exec (.vgive x) s = .next s' ∧ OnlyTroupe s s' f.troupe
        { t with g := gSet t x.d 2 })) ∧
    (∀ (x : DaF), GOrZ x.d → GOrZ x.a → ∃ s', exec (.role x) s = .next s' ∧ OnlyTroupe s s' f.troupe
      { t with g := gSet t x.d (BitVec.ofNat 64 (s.genOf f.troupe % 16 * 2 ^ 60 + slotOf f.troupe % 32 * 2 ^ 55 +
                 t.label.toNat * 2 ^ 40 + t.wopen.toNat)),
               label := (gVal f x.a).extractLsb' 40 8, wopen := (gVal f x.a).extractLsb' 0 32 })

/-- R79 to R83: `dqconf` and `dqcount`; with no ring in use, `fork` makes its record the newest resident one, `take` and `steal`
give the oldest resident record in FIFO mode and set their predicate in every thread. A `steal` first holds for its reply, and takes
its record when the hold ends. -/
def Obligations.DequeSlotsAct : Prop :=
  ∀ s f t, At s f t → f.run ≠ 0 → Plain t →
    let q := (s.core (coreOf f.troupe)).deque
    (∀ x : DstF, 32 ≤ x.d.toNat → x.d.toNat < 48 → ∃ s', exec (.dqcount x) s = .next s' ∧ OnlyTroupe s s' f.troupe
      { t with g := gSet t x.d (BitVec.ofNat 64 (q.recs.length + (q.tail - q.head))) }) ∧
    (∀ x : DabF, GOrZ x.d → 32 ≤ x.a.toNat → x.a.toNat < 48 → 32 ≤ x.b.toNat → x.b.toNat < 48 →
      let c := (gVal f x.b).toNat / 2 ^ 32
      let good : Prop := (gVal f x.a).toNat % 32 = 0 ∧ (gVal f x.b).toNat % 2 ^ 32 < 2 ∧ c % 32 = 0 ∧ c ≤ 2 ^ 24
      (good → q.recs = [] → q.head = q.tail → ∃ s', exec (.dqconf x) s = .next s' ∧
        OnlyTroupe { s with cores := kset s.cores (coreOf f.troupe) { s.core (coreOf f.troupe) with deque :=
            { recs := [], lifo := (gVal f x.b).getLsbD 0, base := gVal f x.a, cap := c, head := 0, tail := 0 } } }
          s' f.troupe { t with g := gSet t x.d 0 }) ∧
      (good → (q.recs ≠ [] ∨ q.head ≠ q.tail) → ∃ s', exec (.dqconf x) s = .next s' ∧
        OnlyTroupe s s' f.troupe { t with g := gSet t x.d 1 }) ∧
      (¬ good → ∃ s', exec (.dqconf x) s = .next s' ∧ OnlyTroupe s s' f.troupe { t with g := gSet t x.d 2 })) ∧
    (∀ x : SrcF, 32 ≤ x.a.toNat → x.a.toNat ≤ 44 → Quiet s (unitOf f.troupe) → q.head = q.tail → q.recs.length < 32 →
      exec (.fork x) s = .next { s with cores := kset s.cores (coreOf f.troupe) { s.core (coreOf f.troupe) with deque :=
        { q with recs := q.recs ++ [(List.range 4).map (fun j => f.latch.gread (x.a.toNat - 32 + j))] } } }) ∧
    (∀ (x : TakeF) r rest, 32 ≤ x.d.toNat → x.d.toNat ≤ 44 → f.acted = false → q.head = q.tail → q.lifo = false →
      q.recs = r :: rest → r.length = 4 →
      ∃ s' t', exec (.takeT x) s = .next s' ∧ (s'.core (coreOf f.troupe)).deque = { q with recs := rest } ∧
        s'.mem = s.mem ∧ s'.scratch = s.scratch ∧ s'.troupe f.troupe = some t' ∧
        (∀ j, j < 4 → some (t'.gread (x.d.toNat - 32 + j)) = r[j]?) ∧
        (∀ i, i < 16 → (t'.thread i).pred x.pred.toNat = true)) ∧
    (∀ x : StealF, f.acted = false → ∃ s' t', exec (.steal x) s = .next s' ∧ s'.troupe f.troupe = some t' ∧ s'.focus = none ∧
      (∃ c, s.now < c ∧ t'.wait = some (.until c)) ∧ s'.cores = s.cores ∧ s'.mem = s.mem ∧ s'.scratch = s.scratch) ∧
    (∀ (x : StealF) r rest, 32 ≤ x.d.toNat → x.d.toNat ≤ 44 → 32 ≤ x.a.toNat → x.a.toNat < 48 → f.acted = true →
      robbable s f.troupe t.ctx (gVal f x.a) = true →
      let v := (gVal f x.a).toNat % 2048
      let w := (s.core v).deque
      w.head = w.tail → w.recs = r :: rest → r.length = 4 →
      ∃ s' t', exec (.steal x) s = .next s' ∧ (s'.core v).deque = { w with recs := rest } ∧
        s'.mem = s.mem ∧ s'.scratch = s.scratch ∧ s'.troupe f.troupe = some t' ∧
        (∀ j, j < 4 → some (t'.gread (x.d.toNat - 32 + j)) = r[j]?) ∧
        (∀ i, i < 16 → (t'.thread i).pred x.pred.toNat = true))

/-- R86, R88, R90: `launch` of a legal descriptor makes a child company one level deeper and gives its identifier; `cwait` on a
child that has retired gives its status, and on no child all ones; `exit` ends the troupe and its ensemble counts it.
The value of a company identifier is open (log 11). -/
def Obligations.CompanySlotsAct : Prop :=
  ∀ s f t, At s f t → f.run ≠ 0 → Plain t →
    (∀ (x : DaF) c bs, GOrZ x.d → 32 ≤ x.a.toNat → x.a.toNat < 48 → Quiet s (unitOf f.troupe) →
      s.comp t.comp = some c → c.depth < 10 → (gVal f x.a).toNat % 64 = 0 → companyLimit s t.ctx = false →
      let h := virtFetch s (coreOf f.troupe) t.ctx (gVal f x.a).toNat 64
      h.1 = .ok bs → descLegal (rowsOf h.2 c.part) true bs (descOf bs) = true →
      ∃ s' t' k, exec (.launch x) s = .next s' ∧ s'.troupe f.troupe = some t' ∧
        t'.kids = t.kids ++ [companyId h.2] ∧ t'.g = gSet t x.d (BitVec.ofNat 64 (companyId h.2)) ∧
        s'.comp (companyId h.2) = some k ∧ k.depth = c.depth + 1 ∧ k.parent = some t.comp ∧ k.ctx = t.ctx ∧
        k.desc = descOf bs ∧ s'.mem = s.mem) ∧
    (∀ (x : DaF) c, GOrZ x.d → 32 ≤ x.a.toNat → x.a.toNat < 48 → s.comp t.comp = some c →
      (∀ k v, c.kids.find? (fun k => k.comp == (gVal f x.a).toNat) = some k → k.status = some v →
        ∃ s' t', exec (.cwait x) s = .next s' ∧ s'.troupe f.troupe = some t' ∧ t' = { t with g := gSet t x.d v } ∧
          s'.mem = s.mem ∧ s'.scratch = s.scratch) ∧
      (c.kids.find? (fun k => k.comp == (gVal f x.a).toNat) = none →
        ∃ s' t', exec (.cwait x) s = .next s' ∧ s'.troupe f.troupe = some t' ∧
          t' = { t with g := gSet t x.d 0xFFFFFFFFFFFFFFFF } ∧ s'.mem = s.mem ∧ s'.scratch = s.scratch)) ∧
    (∀ (x : StopF) e, s.ens t.ens = some e →
      ∃ s' e', exec (.exitT x) s = .next s' ∧ s'.troupe f.troupe = none ∧ s'.ens t.ens = some e' ∧ e'.exited = e.exited + 1 ∧
        (∀ k, k ≠ f.troupe → s'.troupe k = s.troupe k) ∧ s'.focus = none ∧ s'.mem = s.mem ∧ s'.scratch = s.scratch)

/-! ## Loads and stores -/

/-- The effective address of a memory slot whose A gives `a` (R225). -/
def Sys2Proof.Claims.eaOf (f : Focus) (gb : BitVec 3) (lit : Bool) (a : Operand) (off : BitVec 4) (size : BitVec 2) : Dword :=
  f.latch.gread (8 + gb.toNat) + a.addr lit + off.signExtend 64 * BitVec.ofNat 64 (2 ^ size.toNat)

/-- The words that a load of a value pushes: one, or the low and the high word of 64 bits (R226). -/
def Sys2Proof.Claims.pushedWords (size : BitVec 2) (v : Nat) : List Word :=
  if size = 3 then [BitVec.ofNat 32 v, BitVec.ofNat 32 (v / 2 ^ 32)] else [BitVec.ofNat 32 v]

/-- Thread i of the troupe has reserved positions in queue q for the words, which a result on the agenda brings not before a
cycle (R97). -/
def Sys2Proof.Claims.Awaits (s' : State) (f : Focus) (i q least : Nat) (th th' : Thread) (ws : List Word) : Prop :=
  ∃ ids : List Nat, ids.length = ws.length ∧
    th' = th.setQueue q (th.queue q ++ ids.map (fun id => { pos := .reserved id, fresh := true })) ∧
    ∃ e a, e ∈ s'.agenda ∧ e.2 = .resultArrival a ∧ least ≤ e.1 ∧ a.troupe = f.troupe ∧
      a.fills = List.zipWith (fun id w => { thread := i, queue := q, id := id, val := .word w }) ids ws

/-- A slot may open an operation: it has none yet and every flag has room (R39). -/
def Sys2Proof.Claims.FlagRoom (f : Focus) (t : Troupe) : Prop := f.op = none ∧ ∀ c, c < 12 → t.flagCount c < 63

/-- The slot runs in thread i alone. -/
def Sys2Proof.Claims.Alone (f : Focus) (i : Nat) : Prop := i < 16 ∧ f.run = BitVec.ofNat 16 (2 ^ i)

/-- The identifier that a position awaits (R97). -/
def Sys2Proof.Claims.awaited : Pos → Option Nat
  | .reserved id => some id
  | .timed id _ _ => some id
  | .coming id _ _ => some id
  | _ => none

/-- Thread `th'` holds what `th` holds but for new entries at the end of queue q; an older entry may differ only where it awaits
an identifier that the state has not given out, as none does in a run. -/
structure Sys2Proof.Claims.Appends (s : State) (q : Nat) (th th' : Thread) (es : List Entry) : Prop where
  new : (th'.queue q).drop (th.queue q).length = es
  older : ∀ (k : Nat) (e : Entry), (th.queue q)[k]? = some e → (∀ id, awaited e.pos = some id → id < s.ids) → (th'.queue q)[k]? = some e
  queues : ∀ p, p ≠ q → th'.queue p = th.queue p
  rest : th'.preds = th.preds ∧ th'.tags = th.tags

/-- R221, R225, R226: `ld.s` reserves its positions in every thread that runs it and presents its accesses at its core's scratch port,
free, where that of thread i is taken in the thread's own cycle and completes 10 cycles later; memory and scratch are unchanged.
STORE_PERFORM of a load that a port has taken, with no store on its way, gives its positions the little-endian value of its bytes,
which they show when the access completes (R220); memory and scratch are unchanged. -/
def Obligations.ScratchLoadsReadAllocation : Prop :=
  (∀ s f t (x : LdF) va th e, At s f t → Plain t → FlagRoom f t → StoresDone s (unitOf f.troupe) → s.now ≤ f.issue →
    s.ens t.ens = some e → t.handler = false → Reads1 f t x.a x.ka va th →
    (∀ i, Runs f i → ((th i).queue x.d.toNat).length + (if x.size = 3 then 2 else 1) ≤ 4 ∧
      (eaOf f x.gb (x.a == 61) (va i) x.off x.size).toNat % 2 ^ x.size.toNat = 0 ∧
      (eaOf f x.gb (x.a == 61) (va i) x.off x.size).toNat + 2 ^ x.size.toNat ≤ 65536 * e.count) →
    ∃ s' t', exec (.ldS x) s = .next s' ∧ s'.troupe f.troupe = some t' ∧ (∀ k, k ≠ f.troupe → s'.troupe k = s.troupe k) ∧
      s'.mem = s.mem ∧ s'.scratch = s.scratch ∧
      ∀ i, i < 16 → (¬ Runs f i → t'.thread i = t.thread i) ∧
        (Runs f i →
          let ea := eaOf f x.gb (x.a == 61) (va i) x.off x.size
          ∃ (ids : List Nat) (p : PortItem) (op : Nat), ids.length = (if x.size = 3 then 2 else 1) ∧
            t'.thread i = (th i).setQueue x.d.toNat ((th i).queue x.d.toNat ++ ids.map (fun id => { pos := .reserved id, fresh := true })) ∧
            p ∈ (s'.core (coreOf f.troupe)).port ∧ p.troupe = f.troupe ∧ p.thread = i ∧ p.take = f.issue + i ∧ p.due = f.issue + i + 10 ∧
            p.act = .load (65536 * e.base + ea.toNat) x.size.toNat x.d.toNat op ids ea)) ∧
  (∀ s t c p off size q op ids ea, portReady s = none → s.waitQ = [] → s.storeQ = [] → portTaken s = some (c, p) →
    p.act = .load off size q op ids ea → (∀ k, k ∈ s.cores → ∀ y, y ∈ k.2.port → y.writes = false) → scrBad s (c / 4) off (2 ^ size) = false →
    s.troupe p.troupe = some t → s.genOf p.troupe = p.gen → t.drains = false → t.threads.length = 16 → p.thread < 16 →
    let ws := pushedWords (BitVec.ofNat 2 size) (readNat s.scratch (scrKey (c / 4) off) (2 ^ size))
    size < 4 → ids.Nodup → ids.length = ws.length →
    ∃ s' t', exec .storePerform s = .next s' ∧ s'.troupe p.troupe = some t' ∧ (∀ k, k ≠ p.troupe → s'.troupe k = s.troupe k) ∧
      s'.mem = s.mem ∧ s'.scratch = s.scratch ∧ (∀ i, i < 16 → i ≠ p.thread → t'.thread i = t.thread i) ∧
      (∀ d, d ≠ q → (t'.thread p.thread).queue d = (t.thread p.thread).queue d) ∧
      (∀ (k : Nat) (y : Entry), ((t.thread p.thread).queue q)[k]? = some y →
        ((∀ id, awaited y.pos = some id → id ∉ ids) → ((t'.thread p.thread).queue q)[k]? = some y) ∧
        (∀ (j id : Nat) (w : Word), ids[j]? = some id → ws[j]? = some w → y.pos = .reserved id →
          ((t'.thread p.thread).queue q)[k]? = some { y with pos := .coming id p.due (.word w) })) ∧
      ∃ a, (p.due, Instr.resultArrival a) ∈ s'.agenda ∧ a.troupe = p.troupe ∧
        a.fills = List.zipWith (fun id w => { thread := p.thread, queue := q, id := id, val := .word w }) ids ws)

/-- R225 to R228, R278: `ld.g`, `ld.g.acq` and `ld.g.nc` of one thread, with no L1 copy, no store on its way and a translation,
read the bytes of memory at the physical address; an acquire at a wide scope then leaves the L1 empty (R286). -/
def Obligations.GlobalLoadsReadMemory : Prop :=
  ∀ s f t (x : LdF) va th n pa key pm s₁, At s f t → Plain t → FlagRoom f t → Alone f n → Quiet s (unitOf f.troupe) →
    Reads1 f t x.a x.ka va th → ((th n).queue x.d.toNat).length + (if x.size = 3 then 2 else 1) ≤ 4 →
    let ea := eaOf f x.gb (x.a == 61) (va n) x.off x.size
    ea.toNat % 2 ^ x.size.toNat = 0 → translateEa s (coreOf f.troupe) t.ctx ea .read = (.ok pa key pm, s₁) →
    inBlocks pa = false → l1Find s (unitOf f.troupe) (pa / 128) key = none → memFault s pa (2 ^ x.size.toNat) = none →
    ∀ i : LdF → Instr, i ∈ ([.ldG, .ldGAcq, .ldGNc] : List (LdF → Instr)) →
      ∃ s' t', exec (i x) s = .next s' ∧ s'.troupe f.troupe = some t' ∧ (∀ k, k ≠ f.troupe → s'.troupe k = s.troupe k) ∧
        s'.mem = s.mem ∧ s'.scratch = s.scratch ∧
        Awaits s' f n x.d.toNat s.now (th n) (t'.thread n) (pushedWords x.size (physNat s key pa (2 ^ x.size.toNat))) ∧
        (i = .ldGAcq → wideScope s t.ctx (unitOf f.troupe) f.latch.scopesel.toNat = true →
          (s'.tile (unitOf f.troupe)).l1.ways = [])

/-- The slot has sent an access and holds for its answer: no byte of memory or scratch has changed, the troupe's threads stand as `u`,
and the slot runs again with what it sent, and the numbers `kept` of the positions it has reserved, when the hold ends (R69, R97, R231). -/
def Sys2Proof.Claims.Sends (i : Instr) (s : State) (f : Focus) (l : List Sent) (u : List Thread) (kept : Option Nat) : Prop :=
  ∃ s' t' c, exec i s = .next s' ∧ s'.troupe f.troupe = some t' ∧ s'.focus = none ∧ s.now < c ∧ t'.wait = some (.until c) ∧
    t'.threads = u ∧ (∀ k, k ≠ f.troupe → s'.troupe k = s.troupe k) ∧ s'.mem = s.mem ∧ s'.scratch = s.scratch ∧
    s'.cores = s.cores ∧
    kfind s'.holds f.troupe = some { focus := { f with acted := true, sent := l, kept := kept }, wait := .until c }

/-- The positions that thread n reserves for the words of an `ld.w`, at numbers from b on. -/
def Sys2Proof.Claims.spots (b n : Nat) (size : BitVec 2) : List Entry :=
  (List.range (if size = 3 then 2 else 1)).map (fun j => { pos := .reserved (b + 2 * n + j), fresh := true })

/-- R97, R230, R231: `ld.w` and `st.w` of one thread send their access and hold their bundle for the answer; `ld.w` reserves its positions
when it issues. When the answer has come, an accepted access of a scratch window reads or writes the named unit's scratch: `ld.w` pops
its source and fills its positions, `st.w` pops its sources. That the
target reads and writes in the cycle in which its answer comes is the model's choice (log 4). -/
def Obligations.ScratchWindowsReachNamedUnit : Prop :=
  (∀ s f t (x : LdF) va th n, At s f t → Plain t → f.acted = false → Alone f n → StoresDone s (unitOf f.troupe) →
    Reads1 f t x.a x.ka va th → ((th n).queue x.d.toNat).length + (if x.size = 3 then 2 else 1) ≤ 4 →
    let ea := eaOf f x.gb (x.a == 61) (va n) x.off x.size
    ea.toNat % 2 ^ x.size.toNat = 0 → Sends (.ldW x) s f [.ok n ea 0]
      (t.setThread n ((t.thread n).setQueue x.d.toNat ((t.thread n).queue x.d.toNat ++ spots s.ids n x.size))).threads (some s.ids)) ∧
  (∀ s f t (x : LdF) v th n u off b rest (ea : Dword), At s f t → f.acted = true → f.sent = [.ok n ea 0] → f.kept = some b → n < 16 →
    StoresDone s (unitOf f.troupe) → s.badScr = [] →
    readSrc f s.now n (t.thread n) x.a (x.ka == 1) = .ok (v, th) →
    (∃ y, y ∈ (t.thread n).queue x.d.toNat ∧ y.pos = .reserved (b + 2 * n)) → th.queue x.d.toNat = rest ++ spots b n x.size →
    (∀ y id, y ∈ rest → awaited y.pos = some id → id < b + 2 * n) →
    ea.extractLsb' 40 20 = 0 → ea.getLsbD 27 = true → windowScratch s t.ctx (ea.toNat % 2 ^ 40) = some (u, off) →
    ∃ s' th', exec (.ldW x) s = .next s' ∧ s'.mem = s.mem ∧ s'.scratch = s.scratch ∧ s'.focus = s.focus ∧
      (∀ k, k ≠ f.troupe → s'.troupe k = s.troupe k) ∧ s'.troupe f.troupe = some (t.setThread n th') ∧
      th'.queue x.d.toNat = rest ++ (pushedWords x.size (readNat s.scratch (scrKey u off) (2 ^ x.size.toNat))).map
          (fun w => { pos := .filled w false, fresh := true }) ∧
      (∀ q, q ≠ x.d.toNat → th'.queue q = th.queue q) ∧ th'.preds = th.preds ∧ th'.tags = th.tags) ∧
  (∀ s f t (x : StF) a m v th n, At s f t → Plain t → f.acted = false → Alone f n → Quiet s (unitOf f.troupe) →
    readSrc f (f.issue + n) n (t.thread n) x.a false = .ok (a, m) →
    readData f (f.issue + n) n m x.d x.size.toNat = .ok (v, th) →
    let ea := eaOf f x.gb (x.a == 61) a x.off x.size
    ea.toNat % 2 ^ x.size.toNat = 0 →
    Sends (.stW x) s f [.ok n ea (BitVec.ofNat 64 (v.toNat % 256 ^ 2 ^ x.size.toNat))] t.threads f.kept) ∧
  (∀ s f t (x : StF) a m v th n u off (ea data : Dword), At s f t → f.acted = true → f.sent = [.ok n ea data] → n < 16 →
    StoresDone s (unitOf f.troupe) → s.badScr = [] →
    readSrc f s.now n (t.thread n) x.a false = .ok (a, m) → readData f s.now n m x.d x.size.toNat = .ok (v, th) →
    ea.extractLsb' 40 20 = 0 → ea.getLsbD 27 = true → windowScratch s t.ctx (ea.toNat % 2 ^ 40) = some (u, off) →
    ∃ s', exec (.stW x) s = .next s' ∧ s'.mem = s.mem ∧ s'.focus = s.focus ∧ (∀ k, k ≠ f.troupe → s'.troupe k = s.troupe k) ∧
      s'.scratch = writeNat s.scratch (scrKey u off) (2 ^ x.size.toNat) data.toNat ∧
      s'.troupe f.troupe = some (t.setThread n { th with release := none }))

/-- The cycle in which thread n of a store runs: a uniform slot stores in its bundle's first cycle (R35, R68). -/
def Sys2Proof.Claims.storeCycle (f : Focus) (x : StF) (n : Nat) : Nat := if storeUniform x then f.issue else f.issue + n

/-- R220, R221, R225, R226: `st.s` of one thread pops its sources and presents its data for its offset of the allocation at its
core's scratch port, free, where it performs 10 cycles after its own cycle; neither memory nor scratch has changed. STORE_PERFORM of
the one store at a port whose cycle has come writes its bytes and no other. However the slot ends, in every thread, neither
memory nor scratch changes, and each store at the port has the width and an address of a thread that ran the slot. -/
def Obligations.ScratchStoresWriteTheirBytes : Prop :=
  (∀ s f t (x : StF) a m v th n e, At s f t → Plain t → Alone f n → Quiet s (unitOf f.troupe) → s.ens t.ens = some e →
     readSrc f (storeCycle f x n) n (t.thread n) x.a false = .ok (a, m) →
     readData f (storeCycle f x n) n m x.d x.size.toNat = .ok (v, th) →
     let ea := eaOf f x.gb (x.a == 61) a x.off x.size
     ea.toNat % 2 ^ x.size.toNat = 0 → ea.toNat + 2 ^ x.size.toNat ≤ 65536 * e.count →
     ∃ s' p, exec (.stS x) s = .next s' ∧ s'.mem = s.mem ∧ s'.scratch = s.scratch ∧
       s'.troupe f.troupe = some (t.setThread n { th with release := none }) ∧ (∀ k, k ≠ f.troupe → s'.troupe k = s.troupe k) ∧
       s'.focus = s.focus ∧
       (s'.core (coreOf f.troupe)).port = [p] ∧ p.troupe = f.troupe ∧ p.thread = n ∧ p.due = max (storeCycle f x n) s.now + 10 ∧
       p.act = .store (65536 * e.base + ea.toNat) (2 ^ x.size.toNat) (v.toNat % 256 ^ 2 ^ x.size.toNat) ea) ∧
  (∀ s c p off n v ea, s.memOk = true → portReady s = some (c, p) → (s.core c).port = [p] → p.act = .store off n v ea →
     s.storeQ = [] → s.badScr = [] →
     ∃ s', exec .storePerform s = .next s' ∧ s'.mem = s.mem ∧ s'.scratch = writeNat s.scratch (scrKey (c / 4) off) n v ∧
       (∀ key, ¬ (scrKey (c / 4) off ≤ key ∧ key < scrKey (c / 4) off + n) → readByte s'.scratch key = readByte s.scratch key) ∧
       s'.troupes = s.troupes ∧ ∀ q, q ∈ (s'.core c).port → q.writes = false) ∧
  (∀ s f t (x : StF) s' e, At s f t → (s.core (coreOf f.troupe)).port = [] → s.ens t.ens = some e → exec (.stS x) s = .next s' →
     s'.mem = s.mem ∧ s'.scratch = s.scratch ∧
     ∀ p, p ∈ (s'.core (coreOf f.troupe)).port → ∃ i a m v ea, Runs f i ∧
       readSrc f (storeCycle f x i) i (t.thread i) x.a false = .ok (a, m) ∧ ea = eaOf f x.gb (x.a == 61) a x.off x.size ∧
       p.act = .store (65536 * e.base + ea.toNat) (2 ^ x.size.toNat) v ea)

/-- The blocks of 16 bytes that n bytes from a physical address touch are held under the present key of a key slot (R240). -/
def Sys2Proof.Claims.Held (s : State) (key pa n : Nat) : Prop := ∀ b, pa / 16 ≤ b → b ≤ (pa + n - 1) / 16 → s.tagOf b = (s.key key).key

/-- R276, R277, R279, R285: `st.g`, `st.g.nc` and `st.g.rel` of one thread put one store with the thread's data at the end of the store
queue and write no memory yet; the sources are popped. With no store due at a scratch port and no access waiting,
STORE_PERFORM performs the oldest store: memory takes its bytes and no other, and the rest of the queue waits.
That a store stands in one first-in first-out queue and performs at its own step is the model's order (log 16). -/
def Obligations.GlobalStoresQueueAndPerform : Prop :=
  (∀ s f t (x : StF) a m v th n pa key pm s₁, At s f t → Plain t → Alone f n → Quiet s (unitOf f.troupe) →
     readSrc f (storeCycle f x n) n (t.thread n) x.a false = .ok (a, m) →
     readData f (storeCycle f x n) n m x.d x.size.toNat = .ok (v, th) →
     let ea := eaOf f x.gb (x.a == 61) a x.off x.size
     ea.toNat % 2 ^ x.size.toNat = 0 → translateEa s (coreOf f.troupe) t.ctx ea .write = (.ok pa key pm, s₁) →
     ∀ (i : StF → Instr) (nc : Bool), (i, nc) ∈ ([(.stG, false), (.stGRel, false), (.stGNc, true)] : List ((StF → Instr) × Bool)) →
       ∃ s' w, exec (i x) s = .next s' ∧ s'.mem = s.mem ∧ s'.scratch = s.scratch ∧ s'.storeQ = [w] ∧
         w.troupe = f.troupe ∧ w.thread = n ∧ w.ctx = t.ctx ∧ w.ea = ea ∧ w.pa = pa ∧ w.key = key ∧
         w.size = 2 ^ x.size.toNat ∧ w.data = v.toNat % 256 ^ 2 ^ x.size.toNat ∧ w.nc = nc ∧ s.now ≤ w.due ∧
         s'.troupe f.troupe = some (t.setThread n { th with release := none }) ∧ (∀ k, k ≠ f.troupe → s'.troupe k = s.troupe k)) ∧
  (∀ s w rest, s.memOk = true → s.storeQ = w :: rest → NoPorts s → s.waitQ = [] → inBlocks w.pa = false →
     memFault s w.pa w.size = none → Held s w.key w.pa w.size →
     ∃ s', exec .storePerform s = .next s' ∧ s'.storeQ = rest ∧ s'.mem = writeNat s.mem w.pa w.size w.data ∧
       (∀ a, ¬ (w.pa ≤ a ∧ a < w.pa + w.size) → readByte s'.mem a = readByte s.mem a) ∧ s'.scratch = s.scratch ∧
       s'.troupes = s.troupes)

/-! ## Atomics, reductions, copies -/

/-- The new value of an atomic's word (R314). -/
def Sys2Proof.Claims.atomNew (fn : Nat) (old b d : Word) : Word :=
  match fn with
  | 0 => old + b
  | 1 => BitVec.ofInt 32 (min old.toInt b.toInt)
  | 2 => BitVec.ofInt 32 (max old.toInt b.toInt)
  | 3 => BitVec.ofNat 32 (min old.toNat b.toNat)
  | 4 => BitVec.ofNat 32 (max old.toNat b.toNat)
  | 5 => old &&& b
  | 6 => old ||| b
  | 7 => old ^^^ b
  | 8 => b
  | 9 => if old = d then b else old
  | 10 => BitVec.ofNat 32 (ffAdd f32 old.toNat b.toNat).1
  | _ => if b.toNat ≤ old.toNat then 0 else old + 1

/-- The new value of a reduction's word (R317). -/
def Sys2Proof.Claims.redNew (fn : Nat) (old b : Word) : Word :=
  if fn < 8 then atomNew fn old b 0
  else if fn = 8 then atomNew 10 old b 0
  else BitVec.ofNat 32 ((ffAdd bf16 (old.toNat % 65536) (b.toNat % 65536)).1 % 65536 +
    65536 * (ffAdd bf16 (old.toNat / 65536) (b.toNat / 65536)).1)

/-- R288, R314 to R316: an atomic of one thread at a wide scope performs on the word in memory at once and returns the
old value to D; no other byte of memory changes. `atom.cas` compares with D. -/
def Obligations.AtomicsUpdateTheirWord : Prop :=
  ∀ s f t (x : RegF) n va vb vd m₁ m₂ th pa key pm s₁, s.memOk = true → At s f t → Plain t → FlagRoom f t → Alone f n → Quiet s (unitOf f.troupe) →
    readSrc f (f.issue + n) n (t.thread n) x.a (x.ka == 1) = .ok (va, m₁) →
    readSrc f (f.issue + n) n m₁ x.b (decide (x.b.toNat < 32) && x.kb == 1) = .ok (vb, m₂) →
    let ea := f.latch.gread 8 + va.addr (x.a == 61)
    ea.toNat % 4 = 0 → translateEa s (coreOf f.troupe) t.ctx ea .both = (.ok pa key pm, s₁) → pa % 4 = 0 →
    inBlocks pa = false → memFault s pa 4 = none → Held s key pa 4 →
    wideScope s t.ctx (unitOf f.troupe) f.latch.scopesel.toNat = true →
    ∀ (i : RegF → Instr) (fn : Nat),
      (i, fn) ∈ ([(.atomAdd, 0), (.atomMinI32, 1), (.atomMaxI32, 2), (.atomMinN32, 3), (.atomMaxN32, 4), (.atomAnd, 5), (.atomOr, 6),
        (.atomXor, 7), (.atomXchg, 8), (.atomCas, 9), (.atomFaddF32, 10), (.atomIncw, 11)] : List ((RegF → Instr) × Nat)) →
      (if fn = 9 then readSrc f (f.issue + n) n m₂ x.d false = .ok (vd, th) else th = m₂) →
      (x.d.toNat < 32 → (th.queue x.d.toNat).length < 4) →
      ∃ s' t', exec (i x) s = .next s' ∧ s'.troupe f.troupe = some t' ∧
        s'.mem = writeNat s.mem pa 4 (atomNew fn (BitVec.ofNat 32 (physNat s key pa 4)) vb.lo vd.lo).toNat ∧
        (∀ a, ¬ (pa ≤ a ∧ a < pa + 4) → readByte s'.mem a = readByte s.mem a) ∧ s'.scratch = s.scratch ∧
        (x.d.toNat < 32 → Awaits s' f n x.d.toNat s.now { th with release := none } (t'.thread n) [BitVec.ofNat 32 (physNat s key pa 4)]) ∧
        (32 ≤ x.d.toNat → x.d.toNat < 48 → t'.thread n = { th with release := none } ∧
          ∃ c a, (c, Instr.resultArrival a) ∈ s'.agenda ∧ a.troupe = f.troupe ∧
          a.gdst = if overtaken f n then none else some (x.d.toNat - 32, BitVec.ofNat 64 (physNat s key pa 4)))

/-- R317, R319, R320: a reduction of one thread at a wide scope starts a partial in its tile's reduction buffer, which is due at its home
64 cycles later, or is combined into the partial of its word and function; no byte of memory changes yet. PARTIAL_FLUSH
sends a partial that is 64 cycles old to its word, under its function, and empties the buffer; no other byte of memory changes.
That the partial goes at exactly 64 cycles is the model's choice within the bound of R320 (log 16). -/
def Obligations.ReductionsCombineAndFlush : Prop :=
  (∀ s f t (x : RedF) n va vb m₁ th pa key pm s₁, At s f t → Plain t → Alone f n → StoresDone s (unitOf f.troupe) →
     readSrc f (f.issue + n) n (t.thread n) x.a (x.ka == 1) = .ok (va, m₁) →
     readSrc f (f.issue + n) n m₁ x.b (x.kb == 1) = .ok (vb, th) →
     let ea := f.latch.gread 8 + va.addr (x.a == 61)
     ea.toNat % 4 = 0 → translateEa s (coreOf f.troupe) t.ctx ea .write = (.ok pa key pm, s₁) → inBlocks pa = false →
     wideScope s t.ctx (unitOf f.troupe) f.latch.scopesel.toNat = true →
     ∀ (i : RedF → Instr) (fn : Nat),
       (i, fn) ∈ ([(.redAdd, 0), (.redMinI32, 1), (.redMaxI32, 2), (.redMinN32, 3), (.redMaxN32, 4), (.redAnd, 5), (.redOr, 6),
         (.redXor, 7), (.redFaddF32, 8), (.redFaddBf16x2, 9)] : List ((RedF → Instr) × Nat)) →
       ((s.tile (unitOf f.troupe)).partials = [] →
         ∃ s' p, exec (i x) s = .next s' ∧ s'.mem = s.mem ∧ s'.scratch = s.scratch ∧
           s'.troupe f.troupe = some (t.setThread n { th with release := none }) ∧ (s'.tile (unitOf f.troupe)).partials = [p] ∧
           p.pa = pa ∧ p.key = key ∧ p.fn = fn ∧ p.v = vb.lo ∧ p.first = s.now ∧
           (s.now + 64, Instr.partialFlush (unitOf f.troupe)) ∈ s'.agenda) ∧
       (∀ q, (s.tile (unitOf f.troupe)).partials = [q] → q.pa = pa → q.key = key → q.fn = fn →
         (th.release ≠ none → ∀ c, c ∈ q.by_ → c.troupe ≠ f.troupe) →
         ∃ s' p, exec (i x) s = .next s' ∧ s'.mem = s.mem ∧ s'.scratch = s.scratch ∧
           s'.troupe f.troupe = some (t.setThread n { th with release := none }) ∧ (s'.tile (unitOf f.troupe)).partials = [p] ∧
           p.pa = pa ∧ p.key = key ∧ p.fn = fn ∧ p.v = redNew fn q.v vb.lo ∧ p.first = q.first)) ∧
  (∀ s u p, s.memOk = true → s.storeQ = [] → (s.tile u).partials = [p] → p.first + 64 ≤ s.now → p.fn < 10 → memFault s p.pa 4 = none → Held s p.key p.pa 4 →
     ∃ s', exec (.partialFlush u) s = .next s' ∧ (s'.tile u).partials = [] ∧
       s'.mem = writeNat s.mem p.pa 4 (redNew p.fn (BitVec.ofNat 32 (physNat s p.key p.pa 4)) p.v).toNat ∧
       (∀ a, ¬ (p.pa ≤ a ∧ a < p.pa + 4) → readByte s'.mem a = readByte s.mem a) ∧ s'.troupes = s.troupes ∧ s'.scratch = s.scratch)

/-- R342 to R346: a transfer of one thread whose addresses are aligned and translate counts on its tag and goes on its way with
both addresses and its byte count; memory and scratch are unchanged until it performs. COPY_PERFORM moves its bytes: into scratch it
writes the bytes of memory and zeros after them, into memory exactly its count of bytes; the tag falls.
The cycle at which a transfer performs is drawn (log 4). -/
def Obligations.TransfersCountAndMoveBytes : Prop :=
  (∀ s f t (x : CpyF) n va vb vd m₁ m₂ th pa key pm s₁ e, At s f t → Plain t → FlagRoom f t → Alone f n → Quiet s (unitOf f.troupe) →
     s.ens t.ens = some e →
     readSrc f (f.issue + n) n (t.thread n) x.a false = .ok (va, m₁) → readSrc f (f.issue + n) n m₁ x.b false = .ok (vb, m₂) →
     readSrc f (f.issue + n) n m₂ x.d false = .ok (vd, th) →
     let ga := f.latch.gread 8 + va.addr (x.a == 61)
     let sa := vd.addr (x.d == 61)
     let tag := 2 * x.tagHi.toNat + x.tagLo.toNat
     ((t.thread n).tag tag).n < 63 → vb.lo.toNat ≠ 0 →
     ∀ (i : CpyF → Instr) (size : Nat) (g2s : Bool),
       (i, size, g2s) ∈ ([(.cpyG2s4, 4, true), (.cpyG2s8, 8, true), (.cpyG2s16, 16, true), (.cpyG2s32, 32, true),
         (.cpyS2g4, 4, false), (.cpyS2g8, 8, false), (.cpyS2g16, 16, false), (.cpyS2g32, 32, false)] : List ((CpyF → Instr) × Nat × Bool)) →
       ga.toNat % size = 0 → sa.toNat % size = 0 → sa.toNat + size ≤ 65536 * e.count →
       translateEa s (coreOf f.troupe) t.ctx ga (if g2s then .read else .write) = (.ok pa key pm, s₁) →
       ∃ s' t' c ev, exec (i x) s = .next s' ∧ s'.troupe f.troupe = some t' ∧ s'.mem = s.mem ∧ s'.scratch = s.scratch ∧
         ((t'.thread n).tag tag).n = ((th).tag tag).n + 1 ∧ ev ∈ s'.agenda ∧ ev.2 = .copyPerform c ∧
         c.toScratch = g2s ∧ c.pa = pa ∧ c.key = key ∧ c.off = 65536 * e.base + sa.toNat ∧ c.size = size ∧
         c.count = min vb.lo.toNat size ∧ c.tag = tag ∧ c.threads = [n]) ∧
  (∀ s (c : CopyOp) t n, s.troupe c.troupe = some t → t.threads.length = 16 → s.genOf c.troupe = c.gen → c.threads = [n] → n < 16 →
     (s.tile (unitOf c.troupe)).partials = [] → s.badScr = [] → 0 < c.count → c.count ≤ c.size → inBlocks c.pa = false →
     memFault s c.pa c.count = none → Held s c.key c.pa c.count →
     ∃ s' t', exec (.copyPerform c) s = .next s' ∧ s'.troupe c.troupe = some t' ∧
       ((t'.thread n).tag c.tag).n = ((t.thread n).tag c.tag).n - 1 ∧
       (if c.toScratch then
         s'.mem = s.mem ∧ s'.scratch = writeList s.scratch (scrKey (unitOf c.troupe) c.off)
           (readList s.mem c.pa c.count ++ List.replicate (c.size - c.count) 0)
        else
         s'.scratch = s.scratch ∧ s'.mem = writeList s.mem c.pa (readList s.scratch (scrKey (unitOf c.troupe) c.off) c.count)))

/-- R347: `waittag` with no transfer outstanding and no failure goes on, and leaves the unit's L1 empty; with a transfer outstanding
in some thread it holds; with none, and a recorded failure in some threads, those threads raise its cause and their counters record it no
more. `tagcnt` writes the count, with bit 8 for a recorded failure. -/
def Obligations.TagSlotsWaitAndCount : Prop :=
  (∀ s f t (x : TagF), At s f t → f.run ≠ 0 → (∀ i, Runs f i → ((t.thread i).tag x.tag.toNat) = { n := 0, err := none }) →
    ∃ s', exec (.waittag x) s = .next s' ∧ s'.troupes = s.troupes ∧ s'.focus = s.focus ∧ s'.mem = s.mem ∧ s'.scratch = s.scratch ∧
      (s'.tile (unitOf f.troupe)).l1.ways = []) ∧
  (∀ s f t (x : TagF) i, At s f t → Runs f i → ((t.thread i).tag x.tag.toNat).n ≠ 0 →
    ∃ s' t', exec (.waittag x) s = .next s' ∧ s'.troupe f.troupe = some t' ∧ t'.wait = some (.waittag x.tag.toNat) ∧
      s'.focus = none ∧ s'.mem = s.mem ∧ s'.scratch = s.scratch) ∧
  (∀ s f t (x : TagF) (bad : BitVec 16) c a, At s f t → PlainTrap f t → f.run ≠ 0 →
    (∀ i, Runs f i → ((t.thread i).tag x.tag.toNat).n = 0) → bad ≠ 0 →
    (∀ i, i < 16 → bad.getLsbD i = (f.run.getLsbD i && ((t.thread i).tag x.tag.toNat).err.isSome)) →
    (t.thread (leaderOf bad)).tag x.tag.toNat = { n := 0, err := some (c, a) } → c < 65536 →
    ∃ s' t', exec (.waittag x) s = .next s' ∧ s'.troupe f.troupe = some t' ∧
      TrapTaken f { t with threads := t.threads.mapIdx (fun i th =>
        if bad.getLsbD i then th.setTag x.tag.toNat { n := 0, err := none } else th) } t' (c % 256) (c / 256) (some a) bad ∧
      (∀ k, k ≠ f.troupe → s'.troupe k = s.troupe k) ∧ s'.focus = none ∧ s'.mem = s.mem ∧ s'.scratch = s.scratch) ∧
  (∀ s f t (x : TagDF), At s f t → HasRoom f x.d 1 t.thread →
    Writes (.tagcnt x) s f t x.d t.thread (fun i => BitVec.ofNat 64 (((t.thread i).tag x.tag.toNat).n +
      (if ((t.thread i).tag x.tag.toNat).err = none then 0 else 256))))

/-! ## Order and synchronisation -/

/-- The troupe at the focus stands as `t'` in `s'`; no other troupe, no byte of memory and no byte of scratch differs. -/
structure Sys2Proof.Claims.Stands (s s' : State) (f : Focus) (t' : Troupe) : Prop where
  this : s'.troupe f.troupe = some t'
  others : ∀ k, k ≠ f.troupe → s'.troupe k = s.troupe k
  mem : s'.mem = s.mem
  scratch : s'.scratch = s.scratch

/-- The threads of a troupe after a release fence: the next store of each is a release at the fence's scope, or at a wider one
before it (R285). -/
def Sys2Proof.Claims.fenced (t : Troupe) (wide : Bool) : List Thread :=
  t.threads.map (fun th => { th with release := some (wide || th.release == some true) })

/-- The slot changes only the unit's L1: a wide acquire drops its lines and keeps its pins (R286). -/
def Sys2Proof.Claims.DropsL1 (s s' : State) (u : Nat) (wide : Bool) : Prop :=
  (s'.tile u).l1 = (if wide then { (s.tile u).l1 with ways := [] } else (s.tile u).l1) ∧ s'.mem = s.mem ∧ s'.scratch = s.scratch ∧
  s'.focus = s.focus ∧ s'.storeQ = s.storeQ ∧ s'.waitQ = s.waitQ

/-- R281, R285, R286, R290, R319: a fence and `mark` leave no partial of the troupe in its unit. With nothing before it still to perform
`fence.rel` makes the next store of every thread a release, `fence.acq` drops the unit's L1 when its scope is wide, `fence.ar` does
both, and `mark` changes nothing. A `mark` behind a queued store of a thread stands in that thread's queues, and an `st.g.rel` behind
one waits for it: memory and the store queue are unchanged. `scope` gives the old selector and sets it.
The queues in which accesses wait are the model's order (log 16).
That a release performs the waiting stores at once is the model's choice (log 16). -/
def Obligations.FencesDrainAndAcquire : Prop :=
  ∀ s f t, At s f t → f.run ≠ 0 →
    let u := unitOf f.troupe
    (∀ (x : RawBF) (y : StopF) (i : Instr), i ∈ [Instr.fenceRel x, .fenceAr x, .fenceAcq x, .mark y] →
      ∃ s', exec i s = .next s' ∧ ∀ p, p ∈ (s'.tile u).partials → ∀ c, c ∈ p.by_ → c.troupe ≠ f.troupe) ∧
    (∀ x : RawBF, (s.tile u).partials = [] → ∃ s', exec (.fenceRel x) s = .next s' ∧ OnlyTroupe s s' f.troupe
      { t with threads := fenced t (wideScope s t.ctx u x.b.toNat) }) ∧
    (∀ x : RawBF, Quiet s u → ∃ s', exec (.fenceAr x) s = .next s' ∧ DropsL1 s s' u (wideScope s t.ctx u x.b.toNat) ∧
      s'.troupe f.troupe = some { t with threads := fenced t (wideScope s t.ctx u x.b.toNat) } ∧
      ∀ k, k ≠ f.troupe → s'.troupe k = s.troupe k) ∧
    (∀ x : RawBF, Quiet s u → ∃ s', exec (.fenceAcq x) s = .next s' ∧ DropsL1 s s' u (wideScope s t.ctx u x.b.toNat) ∧
      s'.troupes = s.troupes) ∧
    (∀ x : StopF, Quiet s u → exec (.mark x) s = .next s) ∧
    (∀ (x : StopF) w, s.storeQ = [w] → (s.tile u).partials = [] → w.troupe = f.troupe → w.gen = s.genOf f.troupe → w.thread < 16 →
      ∃ s', exec (.mark x) s = .next s' ∧ s'.mem = s.mem ∧ s'.scratch = s.scratch ∧ s'.storeQ = [w] ∧ s'.troupes = s.troupes ∧
        ∃ m, m ∈ s'.waitQ ∧ m.what = .mark ∧ m.who.troupe = f.troupe ∧ m.ths.getLsbD w.thread = true) ∧
    (∀ (x : StF) a m v th n pa key pm s₁ w, Plain t → Alone f n → s.storeQ = [w] → (s.tile u).partials = [] →
      w.troupe = f.troupe → w.gen = s.genOf f.troupe → w.thread = n →
      readSrc f (storeCycle f x n) n (t.thread n) x.a false = .ok (a, m) →
      readData f (storeCycle f x n) n m x.d x.size.toNat = .ok (v, th) →
      let ea := eaOf f x.gb (x.a == 61) a x.off x.size
      ea.toNat % 2 ^ x.size.toNat = 0 → translateEa s (coreOf f.troupe) t.ctx ea .write = (.ok pa key pm, s₁) →
      ∃ s' y data mca wide, exec (.stGRel x) s = .next s' ∧ s'.mem = s.mem ∧ s'.scratch = s.scratch ∧ s'.storeQ = [w] ∧
        s'.troupe f.troupe = some (t.setThread n { th with release := none }) ∧ y ∈ s'.waitQ ∧ y.who.troupe = f.troupe ∧ y.who.thread = n ∧
        y.what = .access (.store ea x.size.toNat 2 data mca (some wide)) (.global pa key pm) ∧
        data.toNat = v.toNat % 256 ^ 2 ^ x.size.toNat) ∧
    (∀ x : ScopeF, GOrZ x.d → ∃ s', exec (.scope x) s = .next s' ∧ OnlyTroupe s s' f.troupe
      { t with g := gSet t x.d (f.latch.scopesel.setWidth 64), scopesel := x.b.setWidth 5 })

/-- A barrier after one more arrival: ARR counts it, and at E the phase completes (R300). -/
def Sys2Proof.Claims.arrived (b : Bar) : Bar :=
  if b.e ≤ b.arr + 1 then { b with arr := 0, phases := b.phases + 1 } else { b with arr := b.arr + 1 }

/-- Barrier n of the troupe's ensemble, when its allotment has it (R298). -/
def Sys2Proof.Claims.HasBar (s : State) (t : Troupe) (n : Nat) (e : Ensemble) (b : Bar) : Prop :=
  s.ens t.ens = some e ∧ n < e.desc.barriers ∧ b = kget (Bar.init e.size) e.bars n

/-- R299 to R306: on a barrier without a home `bar.arrive` records the phase and counts one arrival; `bar.wait` holds while the
recorded phase lasts and otherwise clears ARRIVED; `bar.sync` does both; `bar.count` gives status, E, ARR and PHASES and
changes E and SCOPE; `bar.link` gives the status of R305 and links or unlinks at 0; an arrival at a member goes to its home. An
index beyond the allotment raises SEM_OVER with detail 1. -/
def Obligations.BarriersCountArrivals : Prop :=
  (∀ s f t n e b, At s f t → f.run ≠ 0 → Plain t → Quiet s (unitOf f.troupe) → HasBar s t n e b →
    let rec_ := kget { arrived := false, tag := 0 } t.bars n
    (∀ x : RawBF, x.b.toNat = n →
      (b.link = none → ∃ s' e', exec (.barArrive x) s = .next s' ∧
        Stands s s' f { t with bars := kset t.bars n { arrived := true, tag := b.phases } } ∧
        s'.ens t.ens = some e' ∧ e' = { e with bars := kset e.bars n (arrived b) }) ∧
      (∀ l h hk he, b.link = some (l, h) → s.ensAt e.comp l = some (hk, he) → ∃ s' c, exec (.barArrive x) s = .next s' ∧
        Stands s s' f { t with bars := kset t.bars n { arrived := true, tag := b.phases } } ∧ s'.ens t.ens = some e ∧
        (c, Instr.forwardedArrival hk h) ∈ s'.agenda) ∧
      (rec_.arrived = true → b.phases = rec_.tag → ∃ s', exec (.barWait x) s = .next s' ∧ s'.focus = none ∧
        Stands s s' f { t with wait := some (.bar n), readyAt := max t.readyAt (f.issue + 16) } ∧ s'.enss = s.enss) ∧
      (rec_.arrived = false ∨ b.phases ≠ rec_.tag → ∃ s', exec (.barWait x) s = .next s' ∧ s'.focus = s.focus ∧
        Stands s s' f { t with bars := kset t.bars n { rec_ with arrived := false } } ∧ s'.enss = s.enss) ∧
      (b.link = none → f.acted = false → b.e ≤ b.arr + 1 → ∃ s' t' e', exec (.barSync x) s = .next s' ∧ s'.focus = s.focus ∧
        Stands s s' f t' ∧ kget { arrived := false, tag := 0 } t'.bars n = { arrived := false, tag := b.phases } ∧ t'.wait = t.wait ∧
        s'.ens t.ens = some e' ∧ e' = { e with bars := kset e.bars n (arrived b) }) ∧
      (b.link = none → f.acted = false → b.arr + 1 < b.e → ∃ s' t' e', exec (.barSync x) s = .next s' ∧ s'.focus = none ∧
        Stands s s' f t' ∧ kget { arrived := false, tag := 0 } t'.bars n = { arrived := true, tag := b.phases } ∧
        t'.wait = some (.bar n) ∧ s'.ens t.ens = some e' ∧ e' = { e with bars := kset e.bars n (arrived b) })) ∧
    (∀ x : DabF, x.b.toNat = n → GOrZ x.d → UName x.a →
      let v := gVal f x.a
      let ne := v.toNat % 2 ^ 16
      let bad : Prop := 4096 < ne ∨ v.toNat / 2 ^ 22 ≠ 0
      let stat : Nat := if bad then 2 else if b.link.isSome then 3 else 0
      let b' : Bar := { b with e := if ne = 0 then b.e else ne, scope := if v.getLsbD 21 then v.extractLsb' 16 5 else b.scope }
      ∃ s' e', exec (.barCount x) s = .next s' ∧
        Stands s s' f { t with g := gSet t x.d (BitVec.ofNat 64 (stat + b.e * 2 ^ 8 + b.arr * 2 ^ 24 + b.phases.toNat * 2 ^ 40)) } ∧
        s'.ens t.ens = some e' ∧
        (stat ≠ 0 → e' = e) ∧
        (stat = 0 → ¬ (ne ≠ 0 ∧ ne ≤ b.arr) → e' = { e with bars := kset e.bars n b' }) ∧
        (stat = 0 → ne ≠ 0 → ne ≤ b.arr → kget (Bar.init e.size) e'.bars n = { b' with arr := 0, phases := b.phases + 1 })) ∧
    (∀ (x : DabF) c, x.b.toNat = n → GOrZ x.d → 32 ≤ x.a.toNat → x.a.toNat < 48 → s.comp t.comp = some c →
      let v := gVal f x.a
      let l := v.toNat % 2 ^ 32
      let h := v.toNat / 2 ^ 32 % 32
      ∃ s' e' st, exec (.barLink x) s = .next s' ∧ Stands s s' f { t with g := gSet t x.d (BitVec.ofNat 64 st) } ∧
        s'.ens t.ens = some e' ∧ (st ≠ 0 → e' = e) ∧
        (v.toNat / 2 ^ 37 ≠ 0 ∨ c.total ≤ l → st = 2) ∧
        (v.toNat / 2 ^ 37 = 0 → l < c.total → l = e.linear → h = n →
          st = 0 ∧ e' = { e with bars := kset e.bars n { b with link := none } }) ∧
        (v.toNat / 2 ^ 37 = 0 → l < c.total → l ≠ e.linear →
          (s.ensAt e.comp l = none → st = 1) ∧
          (∀ hk he, s.ensAt e.comp l = some (hk, he) →
            let hb := kget (Bar.init he.size) he.bars h
            st = (if he.desc.barriers ≤ h then 2
                  else if hb.link.isSome ∨ membersOf s e.comp e.linear n ≠ [] then 3
                  else if b.arr ≠ 0 ∨ hb.arr ≠ 0 then 4 else 0) ∧
            (st = 0 → e' = { e with bars := kset e.bars n { b with link := some (l, h) } }))))) ∧
  (∀ s f t e, At s f t → f.run ≠ 0 → PlainTrap f t → s.ens t.ens = some e →
    (∀ x : RawBF, e.desc.barriers ≤ x.b.toNat → ∀ i : RawBF → Instr, i ∈ ([.barArrive, .barWait, .barSync] : List (RawBF → Instr)) →
      Traps (i x) s f t 0x1A 1 none f.run) ∧
    (∀ x : DabF, e.desc.barriers ≤ x.b.toNat → ∀ i : DabF → Instr, i ∈ ([.barCount, .barLink] : List (DabF → Instr)) →
      Traps (i x) s f t 0x1A 1 none f.run))

/-- A semaphore after the test of R308. -/
def Sys2Proof.Claims.tested (m : Sem) : Sem :=
  if m.armed = true ∧ m.pending = 0 ∧ m.expect ≤ m.arr then
    { m with count := m.count + 1, pending := 0, expect := 0, arr := 0, armed := false }
  else m

/-- PENDING lies in its signed 32-bit range (R307). -/
def Sys2Proof.Claims.Fits (p : Int) : Prop := -2 ^ 31 ≤ p ∧ p < 2 ^ 31

/-- The slot answers a next state in which the troupe has changed as given and semaphore i of its ensemble is `m`. -/
def Sys2Proof.Claims.SetsSem (i : Instr) (s : State) (f : Focus) (t t' : Troupe) (e : Ensemble) (idx : Nat) (m : Sem) : Prop :=
  ∃ s' e', exec i s = .next s' ∧ Stands s s' f t' ∧ s'.ens t.ens = some e' ∧ e' = { e with sems := kset e.sems idx m }

/-- R307, R308, R311 to R313: `seminit`, `semarm`, `semexp` and a local `semarr` change their semaphore, test its phase and give
status 0, or raise SEM_OVER with detail 2 when a field would leave its range; a remote `semarr` sends its
arrival and holds for the reply, whose status it then writes, or traps alike; `semwait` holds while COUNT is V and else gives COUNT; `semtest` gives the fields. -/
def Obligations.SemaphoresCountPhases : Prop :=
  ∀ s f t e, At s f t → f.run ≠ 0 → Plain t → f.k < 8 → Quiet s (unitOf f.troupe) → s.ens t.ens = some e →
    (∀ x : DaF, GOrZ x.d → UName x.a →
      let a := gVal f x.a
      let i := a.toNat % 256
      let m := kget Sem.init e.sems i
      (i < e.desc.sems →
        (a.toNat / 2 ^ 13 = 0 → SetsSem (.seminit x) s f t { t with g := gSet t x.d 0 } e i
          { m with pending := 0, expect := 0, arr := 0, armed := false, ovf := false, scope := a.extractLsb' 8 5, engine := false }) ∧
        (a.toNat / 2 ^ 8 % 2 ^ 24 = 0 → m.ovf = false →
          (m.count.toNat = a.toNat / 2 ^ 32 → ∃ s', exec (.semwait x) s = .next s' ∧ s'.focus = none ∧ s'.enss = s.enss ∧
            Stands s s' f { t with wait := some (.sem i m.count), readyAt := max t.readyAt (f.issue + 16) }) ∧
          (m.count.toNat ≠ a.toNat / 2 ^ 32 → ∃ s', exec (.semwait x) s = .next s' ∧ s'.focus = s.focus ∧ s'.enss = s.enss ∧
            Stands s s' f { t with g := gSet t x.d (m.count.setWidth 64) })) ∧
        (a.toNat / 2 ^ 9 = 0 → m.ovf = false →
          let w : Dword :=
            if a.getLsbD 8 then BitVec.ofNat 64 ((BitVec.ofInt 32 m.pending).toNat + (if m.armed then 2 ^ 32 else 0))
            else BitVec.ofNat 64 (m.count.toNat + m.arr * 2 ^ 32 + m.expect * 2 ^ 48)
          ∃ s', exec (.semtest x) s = .next s' ∧ OnlyTroupe s s' f.troupe { t with g := gSet t x.d w })) ∧
      (e.desc.sems ≤ i → ∀ j : DaF → Instr, j ∈ ([.seminit, .semwait, .semtest] : List (DaF → Instr)) →
        Traps (j x) s f t 0x1A 1 none f.run)) ∧
    (∀ x : DabF, GOrZ x.d → UName x.a → UName x.b →
      let a := gVal f x.a
      let b := gVal f x.b
      let i := a.toNat % 256
      let m := kget Sem.init e.sems i
      (i < e.desc.sems → a.toNat / 2 ^ 8 = 0 →
        (b.toNat < 2 ^ 31 →
          (Fits (m.pending + b.toNat) → SetsSem (.semarm x) s f t { t with g := gSet t x.d 0 } e i
            (tested { m with pending := m.pending + b.toNat, armed := true })) ∧
          (¬ Fits (m.pending + b.toNat) → Traps (.semarm x) s f t 0x1A 2 none f.run) ∧
          (Fits (m.pending - b.toNat) → m.arr < 65535 → SetsSem (.semarr x) s f t { t with g := gSet t x.d 0 } e i
            (tested { m with arr := m.arr + 1, pending := m.pending - b.toNat })) ∧
          (¬ Fits (m.pending - b.toNat) ∨ 65535 ≤ m.arr → Traps (.semarr x) s f t 0x1A 2 none f.run)) ∧
        (b.toNat < 2 ^ 16 →
          (m.expect + b.toNat ≤ 65535 → SetsSem (.semexp x) s f t { t with g := gSet t x.d 0 } e i
            (tested { m with expect := m.expect + b.toNat, armed := true })) ∧
          (65535 < m.expect + b.toNat → Traps (.semexp x) s f t 0x1A 2 none f.run))) ∧
      (a.getLsbD 8 = true → a.toNat / 2 ^ 9 % 2 ^ 23 = 0 → b.toNat < 2 ^ 31 →
        (f.acted = false → ∃ s' t' c, exec (.semarr x) s = .next s' ∧ Stands s s' f t' ∧ s'.focus = none ∧ s.now < c ∧
          t'.wait = some (.until (c + 1)) ∧ s'.enss = s.enss ∧
          (c, Instr.remoteArrival { troupe := f.troupe, comp := t.comp, linear := a.toNat / 2 ^ 32, index := i, bytes := b.toNat })
            ∈ s'.agenda) ∧
        (∀ l n, f.acted = true → f.answer = some (l, n) →
          (n ≠ 256 → ∃ s', exec (.semarr x) s = .next s' ∧ OnlyTroupe s s' f.troupe { t with g := gSet t x.d (n.setWidth 64) }) ∧
          (n = 256 → Traps (.semarr x) s { f with answer := none } t 0x1A 2 none f.run))))

/-- R256, R306, R312: FORWARDED_ARRIVAL counts at the home, and in its shell while the home is swapped out, as SHELL_ARRIVAL does;
BARRIER_RELEASE advances a member's PHASES, there or in its shell; REMOTE_ARRIVAL counts at its target's semaphore, and
its reply, status 0, or 1 with no target there, 2 with no such semaphore, or an overflow (256), reaches the slot that holds for
it. -/
def Obligations.SyncEventsCountAtTheirTarget : Prop :=
  (∀ s k n e, s.ens k = some e →
    let b := kget (Bar.init e.size) e.bars n
    (∃ s', exec (.forwardedArrival k n) s = .next s' ∧ s'.ens k = some { e with bars := kset e.bars n (arrived b) } ∧
      s'.troupes = s.troupes ∧ s'.mem = s.mem ∧ s'.scratch = s.scratch) ∧
    (∃ s', exec (.barrierRelease k n) s = .next s' ∧ s'.ens k = some { e with bars := kset e.bars n { b with phases := b.phases + 1 } } ∧
      (∀ m, m ≠ k → s'.ens m = s.ens m) ∧ { s' with enss := s.enss, savedUnits := s.savedUnits } = s)) ∧
  (∀ s k n sv h, s.ensKept k = none → kfind s.saved k = some sv →
    s.shells = [h] → h.ctx = sv.ens.ctx → h.comp = sv.ens.comp → h.linear = sv.ens.linear → h.idx = n →
    (∀ i, i ∈ [Instr.forwardedArrival k n, .shellArrival k n] →
      ∃ s', exec i s = .next s' ∧ s'.shells = [{ h with bar := arrived h.bar }] ∧ s'.troupes = s.troupes ∧ s'.enss = s.enss) ∧
    exec (.barrierRelease k n) s = .next { s with shells := [{ h with bar := { h.bar with phases := h.bar.phases + 1 } }] }) ∧
  (∀ s (r : RemoteArr), ∃ s' n, exec (.remoteArrival r) s = .next s' ∧ s'.troupes = s.troupes ∧ s'.mem = s.mem ∧
    s'.scratch = s.scratch ∧
    (∀ h, kfind s.holds r.troupe = some h → h.focus.acted = true → h.focus.answer = none →
      kfind s'.holds r.troupe = some { h with focus := { h.focus with answer := some (0, n) } }) ∧
    (s.ensAt r.comp r.linear = none → n = 1 ∧ s'.enss = s.enss) ∧
    (∀ k e, s.ensAt r.comp r.linear = some (k, e) → s.ens k = some e →
      let m := kget Sem.init e.sems r.index
      (e.desc.sems ≤ r.index → n = 2 ∧ s'.enss = s.enss) ∧
      (r.index < e.desc.sems → Fits (m.pending - r.bytes) → m.arr < 65535 → n = 0 ∧
        s'.ens k = some { e with sems := kset e.sems r.index (tested { m with arr := m.arr + 1, pending := m.pending - r.bytes }) }) ∧
      (r.index < e.desc.sems → ¬ Fits (m.pending - r.bytes) ∨ 65535 ≤ m.arr → n = 256 ∧ s'.enss = s.enss)))

/-! ## Ordered sections -/

/-- What an ordered-section slot finds when it runs in thread n alone: no spilled entry of its context. -/
structure Sys2Proof.Claims.OrdAlone (s : State) (f : Focus) (t : Troupe) (n : Nat) : Prop where
  at_ : At s f t
  plain : Plain t
  alone : Alone f n
  fresh : f.acted = false
  resident : ∀ e, e ∈ s.sections → e.ctx = t.ctx → e.spilled = none

/-- The slot has answered: it holds its bundle for the answer, with its sources popped as in `th` and v written to D (R328). -/
def Sys2Proof.Claims.Answers (s s' : State) (f : Focus) (n : Nat) (d : BitVec 6) (th : Thread) (v : Word) : Prop :=
  s'.focus = none ∧ s'.scratch = s.scratch ∧ (∀ k, k ≠ f.troupe → s'.troupe k = s.troupe k) ∧
  ∃ t' c, s'.troupe f.troupe = some t' ∧ t'.wait = some (.until c) ∧
    t'.thread n = (if d.toNat < 32 then th.setQueue d.toNat (th.queue d.toNat ++ [{ pos := .filled v false, fresh := true }]) else th) ∧
    (32 ≤ d.toNat → d.toNat < 48 → overtaken f n = false → t'.gread (d.toNat - 32) = v.setWidth 64)

/-- The entry of a key has these values of E, HELD, HOLDER and ABANDONED. -/
def Sys2Proof.Claims.Entry (s : State) (ctx : Nat) (key e : Word) (held : Bool) (holder : BitVec 24) (abandoned : Bool) : Prop :=
  ∃ x, findSection s ctx key = some x ∧ x.e = e ∧ x.held = held ∧ x.holder = holder ∧ x.abandoned = abandoned

/-- R322, R328 to R337: a current request on a free key is granted and names its thread as the holder; `osenter` waits on a future
one, answers false when its own troupe holds the key, and raises ORD_STALE, ORD_GAP or ORD_CYCLE otherwise; `ostry` gives the
status 0, 1, 2 or 3; `osleave` by the holder advances E and frees the key, and by another thread raises ORD_STALE; `osinit`, `osquery`
and `osdrop` create, read and remove an entry.
Readings of the model: log 27. -/
def Obligations.OrderedSectionsGrantInSequence : Prop :=
  (∀ s f t n (x : RegF) va vb m th, OrdAlone s f t n →
    readSrc f (f.issue + n) n (t.thread n) x.a (x.ka == 1) = .ok (va, m) → readSrc f (f.issue + n) n m x.b (x.kb == 1) = .ok (vb, th) →
    (x.d.toNat < 32 → (th.queue x.d.toNat).length < 4) →
    let key := va.lo
    let me := holderOf s f.troupe n
    (findSection s t.ctx key = none → s.sections.length < 256 → s.sections.length < (s.ctx t.ctx).osquota.toNat →
      ∃ s', exec (.osinit x) s = .next s' ∧ Answers s s' f n x.d th 0 ∧ s'.mem = s.mem ∧ Entry s' t.ctx key vb.lo false 0 false) ∧
    (∀ e, findSection s t.ctx key = some e →
      (e.held = false → hasWaiter s t.ctx key = false → ∃ s', exec (.osinit x) s = .next s' ∧ Answers s s' f n x.d th 0 ∧
        s'.mem = s.mem ∧ Entry s' t.ctx key vb.lo false e.holder false) ∧
      (e.held = true ∨ hasWaiter s t.ctx key = true → ∃ s', exec (.osinit x) s = .next s' ∧ Answers s s' f n x.d th 1 ∧
        s'.mem = s.mem ∧ Entry s' t.ctx key e.e e.held e.holder e.abandoned) ∧
      (vb.lo = e.e → e.held = false → ∃ s', exec (.ostry x) s = .next s' ∧ Answers s s' f n x.d th 0 ∧
        s'.mem = s.mem ∧ Entry s' t.ctx key e.e true me false) ∧
      (2 ^ 31 ≤ (vb.lo - e.e).toNat ∨ (vb.lo = e.e ∧ e.held = true) → ∃ s', exec (.ostry x) s = .next s' ∧ Answers s s' f n x.d th 3 ∧
        s'.mem = s.mem ∧ Entry s' t.ctx key e.e e.held e.holder e.abandoned) ∧
      (vb.lo ≠ e.e → (vb.lo - e.e).toNat < 2 ^ 31 → ∃ s', exec (.ostry x) s = .next s' ∧
        Answers s s' f n x.d th (if heldByTroupe s f.troupe e then 2 else 1) ∧
        s'.mem = s.mem ∧ Entry s' t.ctx key e.e e.held e.holder e.abandoned))) ∧
  (∀ s f t n (x : CmpF) va vb m th e, OrdAlone s f t n → PlainTrap f t → f.resuming = false →
    readSrc f (f.issue + n) n (t.thread n) x.a (x.ka == 1) = .ok (va, m) → readSrc f (f.issue + n) n m x.b (x.kb == 1) = .ok (vb, th) →
    findSection s t.ctx va.lo = some e →
    let key := va.lo
    let me := holderOf s f.troupe n
    let future : Prop := vb.lo ≠ e.e ∧ (vb.lo - e.e).toNat < 2 ^ 31
    let traps (cause detail : Nat) (v : Option Dword) : Prop :=
      ∃ s' t', exec (.osenter x) s = .next s' ∧ s'.troupe f.troupe = some t' ∧ TrapTaken f t t' cause detail v f.run ∧
        s'.mem = s.mem ∧ s'.focus = none ∧ Entry s' t.ctx key e.e e.held e.holder e.abandoned
    (vb.lo = e.e → e.held = false → ∃ s', exec (.osenter x) s = .next s' ∧ Answers s s' f n 56 (th.setPred x.d.toNat true) 0 ∧
      s'.mem = s.mem ∧ Entry s' t.ctx key e.e true me false) ∧
    (2 ^ 31 ≤ (vb.lo - e.e).toNat → traps 0x11 1 (some (e.e.setWidth 64))) ∧
    (vb.lo = e.e → e.held = true → traps 0x11 2 (some (e.e.setWidth 64))) ∧
    (future → e.abandoned = true → traps 0x12 1 none) ∧
    (future → e.abandoned = false → heldByTroupe s f.troupe e = true →
      ∃ s', exec (.osenter x) s = .next s' ∧ Answers s s' f n 56 (th.setPred x.d.toNat false) 0 ∧
        Entry s' t.ctx key e.e e.held e.holder e.abandoned) ∧
    (future → e.abandoned = false → heldByTroupe s f.troupe e = false → closesCycle s f.troupe t.ctx [key] = true →
      traps 0x13 0 (some (key.setWidth 64))) ∧
    (future → e.abandoned = false → heldByTroupe s f.troupe e = false → closesCycle s f.troupe t.ctx [key] = false →
      ∃ s' t', exec (.osenter x) s = .next s' ∧ s'.troupe f.troupe = some t' ∧ t'.wait = some (.osenter [(n, key, vb.lo)]) ∧
        t'.threads = t.threads ∧ s'.focus = none ∧ s'.mem = s.mem ∧ Entry s' t.ctx key e.e e.held e.holder e.abandoned)) ∧
  (∀ s f t n (x : KeyF) va th, OrdAlone s f t n → PlainTrap f t → Quiet s (unitOf f.troupe) →
    readSrc f (f.issue + n) n (t.thread n) x.a (x.ka == 1) = .ok (va, th) →
    (∀ e, findSection s t.ctx va.lo = some e → e.holder = holderOf s f.troupe n → e.owner = f.troupe →
      ∃ s', exec (.osleave x) s = .next s' ∧ Answers s s' f n 56 th 0 ∧ s'.mem = s.mem ∧
        Entry s' t.ctx va.lo (e.e + 1) false e.holder e.abandoned) ∧
    ((∀ e, findSection s t.ctx va.lo = some e → ¬ (e.holder = holderOf s f.troupe n ∧ e.owner = f.troupe)) →
      ∃ s' t', exec (.osleave x) s = .next s' ∧ s'.troupe f.troupe = some t' ∧
        TrapTaken f t t' 0x11 3 (some (va.lo.setWidth 64)) f.run ∧ s'.mem = s.mem ∧ s'.focus = none)) ∧
  (∀ s f t n (x : QueryF) va th, OrdAlone s f t n →
    readSrc f (f.issue + n) n (t.thread n) x.a (x.ka == 1) = .ok (va, th) → (x.d.toNat < 32 → (th.queue x.d.toNat).length < 4) →
    (findSection s t.ctx va.lo = none → ∃ s', exec (.osquery x) s = .next s' ∧ Answers s s' f n x.d th 0 ∧ s'.mem = s.mem) ∧
    (∀ e, findSection s t.ctx va.lo = some e → ∃ s', exec (.osquery x) s = .next s' ∧ s'.mem = s.mem ∧
      Answers s s' f n x.d th (if x.idx = 0 then e.e else BitVec.ofNat 32 (1 + (if e.held then 2 else 0) +
        (if e.held = true ∧ e.holder = holderOf s f.troupe n ∧ e.owner = f.troupe then 4 else 0) + (if hasWaiter s t.ctx va.lo then 8 else 0) +
        (if e.abandoned then 32 else 0))))) ∧
  (∀ s f t n (x : UnF) va th, OrdAlone s f t n →
    readSrc f (f.issue + n) n (t.thread n) x.a (x.ka == 1) = .ok (va, th) → (x.d.toNat < 32 → (th.queue x.d.toNat).length < 4) →
    (findSection s t.ctx va.lo = none → ∃ s', exec (.osdrop x) s = .next s' ∧ Answers s s' f n x.d th 2 ∧ s'.mem = s.mem) ∧
    (∀ e, findSection s t.ctx va.lo = some e →
      (e.held = true → ∃ s', exec (.osdrop x) s = .next s' ∧ Answers s s' f n x.d th 1 ∧ s'.mem = s.mem ∧
        Entry s' t.ctx va.lo e.e true e.holder e.abandoned) ∧
      (e.held = false → ∃ s', exec (.osdrop x) s = .next s' ∧ Answers s s' f n x.d th 0 ∧ s'.mem = s.mem ∧
        findSection s' t.ctx va.lo = none)))

/-! ## Engines -/

/-- The troupe after a uniform slot that pushes or sets v in D, its leader standing as `lead` (R102). -/
def Sys2Proof.Claims.uniformly (f : Focus) (t : Troupe) (lead : Thread) (d : BitVec 6) (v : Word) : Troupe :=
  let th (i : Nat) : Thread := if i = leaderOf f.run then lead else t.thread i
  { t with threads := pushed f t d th (fun _ => v.setWidth 64), g := gWritten f t d (fun _ => v.setWidth 64) }

/-- The troupe stands as `t'` but for its outstanding operations, which are as before once the operation of the slot, with its
new identifier, has ended (R39). -/
structure Sys2Proof.Claims.RepliedAs (s s' : State) (f : Focus) (t' t'' : Troupe) : Prop where
  this : s'.troupe f.troupe = some t''
  eq : { t'' with outs := t'.outs } = t'
  outs : (∀ o, o ∈ t'.outs → o.op ≠ s.ids) → t''.outs = t'.outs

/-- The slot has had its reply: the troupe stands as `t'`, one identifier has been given out, and nothing else of the state
differs. -/
def Sys2Proof.Claims.Replied (i : Instr) (s : State) (f : Focus) (t' : Troupe) : Prop :=
  ∃ s' t'', exec i s = .next s' ∧ RepliedAs s s' f t' t'' ∧ (∀ k, k ≠ f.troupe → s'.troupe k = s.troupe k) ∧
    { s' with troupes := s.troupes, ids := s.ids } = s

/-- R38, R348, R349, R357, R359: `enq` gives 0xFFFFFFFE or 0xFFFFFFFF and pops nothing for an engine that does not serve the core or a
full queue, 0xFFFFFFFD with its words popped for a command that fails acceptance, and otherwise appends the command and gives its
promise; `sleepto` holds, its position reserved, counting on its flag, until its cycle is reached, gives the clock, and then has the unit's L1 empty;
`enqstat` gives free entries and own commands. -/
def Obligations.EngineSlotsQueueCommands : Prop :=
  (∀ s f t (x : EnqF), At s f t → f.run ≠ 0 → Plain t → FlagRoom f t → f.answer = none → Quiet s (unitOf f.troupe) →
    let c := coreOf f.troupe
    let e := x.engine.toNat
    let q := (s.core c).engine e
    let lead0 := t.thread (leaderOf f.run)
    let room (th : Thread) : Prop := HasRoom f x.d 1 (fun i => if i = leaderOf f.run then th else t.thread i)
    (serves c e = false → room lead0 → Replied (.enq x) s f (uniformly f t lead0 x.d 0xFFFFFFFE)) ∧
    (serves c e = true → 16 ≤ q.length → room lead0 → Replied (.enq x) s f (uniformly f t lead0 x.d 0xFFFFFFFF)) ∧
    (∀ ws lead, serves c e = true → q.length < 16 →
      readSixteen f.issue lead0 x.a.toNat (x.ka == 1) 16 = .ok (ws, lead) → room lead →
      let a := acceptCmd (openOp s f (selectFlag s f false)).2 f.troupe t e f.issue ws
      (wordsOk (openOp s f (selectFlag s f false)).2 f.troupe t e ws = false → Replied (.enq x) s f (uniformly f t lead x.d 0xFFFFFFFD)) ∧
      (a.1 = none → ∃ s' t'', exec (.enq x) s = .next s' ∧ RepliedAs s s' f (uniformly f t lead x.d 0xFFFFFFFD) t'' ∧ Stands s s' f t'' ∧
        s'.focus = s.focus ∧ (s'.core c).engine e = q) ∧
      (∀ k, a.1 = some k → ∃ s' t'' cyc, exec (.enq x) s = .next s' ∧
        RepliedAs s s' f (uniformly f t lead x.d (BitVec.ofNat 32 k.promise)) t'' ∧ Stands s s' f t'' ∧ s'.focus = s.focus ∧
        (s'.core c).engine e = q ++ [k] ∧ k.words = ws ∧ k.troupe = f.troupe ∧ k.performed = false ∧
        (awaitsPeers s e ws = false → (∀ y, y ∈ q → y.performed = true) → (cyc, cmdEvent c e ws) ∈ s'.agenda) ∧
        (k.promise + 1, Instr.promiseBroken c e k.id) ∈ s'.agenda))) ∧
  (∀ s f t (x : UnF) a lead, At s f t → f.run ≠ 0 → FlagRoom f t → f.answer = none → t.late = [] →
    overdue s f.troupe = [] →
    readSrc f f.issue (leaderOf f.run) (t.thread (leaderOf f.run)) x.a (x.ka == 1) = .ok (a, lead) →
    let room := HasRoom f x.d 1 (fun i => if i = leaderOf f.run then lead else t.thread i)
    let reached : Prop := (BitVec.ofNat 32 s.now - a.lo).toNat < 2 ^ 31
    (0xFFFFFFFD ≤ a.lo.toNat → room → Replied (.sleepto x) s f (uniformly f t lead x.d (BitVec.ofNat 32 s.now))) ∧
    (a.lo.toNat < 0xFFFFFFFD → reached → room → ∃ s' t'', exec (.sleepto x) s = .next s' ∧
      RepliedAs s s' f (uniformly f t lead x.d (BitVec.ofNat 32 s.now)) t'' ∧ Stands s s' f t'' ∧ s'.focus = s.focus ∧
      (s'.tile (unitOf f.troupe)).l1.ways = []) ∧
    (a.lo.toNat < 0xFFFFFFFD → ¬ reached → ∃ s' t'', exec (.sleepto x) s = .next s' ∧ s'.focus = none ∧ Stands s s' f t'' ∧
      { t'' with outs := t.outs, threads := t.threads } = { t with wait := some (.sleepto a.lo), readyAt := max t.readyAt (f.issue + 16) } ∧
      { op := s.ids, flag := t.clause.setx, pend := 1 } ∈ t''.outs ∧ (32 ≤ x.d.toNat → t''.threads = t.threads) ∧
      (x.d.toNat < 32 → f.kept = none → room → ∀ i, i < 16 → t''.thread i =
        if f.run.getLsbD i then (t.thread i).setQueue x.d.toNat ((t.thread i).queue x.d.toNat ++
          [{ pos := .reserved (s.ids + 1 + 2 * i), fresh := true }]) else t.thread i))) ∧
  (∀ s f t (x : EngF), At s f t → f.run ≠ 0 → FlagRoom f t → f.answer = none → HasRoom f x.d 1 t.thread → t.late = [] →
    let q := (s.core (coreOf f.troupe)).engine x.engine.toNat
    q.length ≤ 16 →
    Replied (.enqstat x) s f (uniformly f t (t.thread (leaderOf f.run)) x.d
      (BitVec.ofNat 32 (if serves (coreOf f.troupe) x.engine.toNat then
          16 - q.length + 256 * q.countP (fun c => c.troupe == f.troupe && c.gen == s.genOf f.troupe) else 0))))

/-- The one command that waits in an engine queue of a core. -/
def Sys2Proof.Claims.Waiting (s : State) (core e : Nat) (c : Cmd) : Prop := (s.core core).engine e = [c] ∧ c.performed = false

/-- The command has performed with a status, a fault address and a byte count, and its completion is on the agenda. -/
def Sys2Proof.Claims.Performed (s' : State) (core e : Nat) (c : Cmd) (status : Nat) (fault : Dword) (bytes : Nat) : Prop :=
  (s'.core core).engine e = [{ c with performed := true, status := status, fault := fault, bytes := bytes }] ∧
  ∃ cyc, (cyc, Instr.commandCompletion core e) ∈ s'.agenda

/-- The command has moved all its bytes but those of its last piece, or has more pieces to move: after a piece of n bytes it has
performed, or counts them and its engine goes on (R354). -/
def Sys2Proof.Claims.Moves (s' : State) (core e : Nat) (c : Cmd) (len n : Nat) : Prop :=
  if len ≤ c.bytes + n then Performed s' core e c 0 0 len
  else (s'.core core).engine e = [{ c with bytes := c.bytes + n }] ∧ ∃ cyc, (cyc, cmdEvent core e c.words) ∈ s'.agenda

/-- R353, R354, R355, R361: in their core's turn TILE_COPY and DIE_COPY of one row inside the issuing ensemble's scratch move the next
256 bytes of it, or what is left, and stop with BOUNDS at a first source byte outside it; BRIDGE_STREAM moves the next bytes to the
scratch window. The order in which an engine's cores take turns is the model's reading (log 58); a stream's first piece, which may miss
slots of its timetable, is the same but for the slip records (log 40). -/
def Obligations.CopyEnginesMoveBytes : Prop :=
  ∀ s core (c : Cmd) e, s.ens c.ens = some e → s.badScr = [] → unitServes s e.unit c.ctx = true →
    let len := wordN c.words 8
    let src := wordPair c.words 4
    let dst := wordPair c.words 6
    let n := min 256 (len - c.bytes)
    let at_ (off : Nat) : Nat := scrKey e.unit (65536 * e.base + off)
    (∀ (i : Nat → Instr) (k : Nat), (i, k) ∈ ([(.tileCopy, 0), (.dieCopy, 1)] : List ((Nat → Instr) × Nat)) → Waiting s core k c →
      engineTurn s k core = core → wordN c.words 9 = 1 → wordN c.words 12 = 5 → c.bytes < len →
      (src + len ≤ 65536 * e.count → dst + len ≤ 65536 * e.count → 65536 * e.count < 2 ^ 63 →
        ∃ s', exec (i core) s = .next s' ∧ Moves s' core k c len n ∧ s'.mem = s.mem ∧ s'.troupes = s.troupes ∧
          s'.scratch = writeList s.scratch (at_ (dst + c.bytes)) (readList s.scratch (at_ (src + c.bytes)) n)) ∧
      (65536 * e.count ≤ src + c.bytes → src + c.bytes < 2 ^ 64 →
        ∃ s', exec (i core) s = .next s' ∧ Performed s' core k c 5 (BitVec.ofNat 64 (src + c.bytes)) c.bytes ∧
          s'.mem = s.mem ∧ s'.scratch = s.scratch ∧ s'.troupes = s.troupes)) ∧
    (∀ u off, Waiting s core 2 c → engineTurn s 2 core = core → (c.bytes = 0 → ttOf s e.comp = none) → c.bytes < len →
      wordN c.words 4 + len ≤ 65536 * e.count → 65536 * e.count < 2 ^ 63 → dst % 8 = 0 → c.bytes % 8 = 0 →
      dst + len < 2 ^ 40 → (∀ k, k < len → isScratchWindow (dst + k) = true ∧ windowScratch s c.ctx (dst + k) = some (u, off + k)) →
      ∃ s', exec (.bridgeStream core) s = .next s' ∧ Moves s' core 2 c len n ∧ s'.mem = s.mem ∧ s'.troupes = s.troupes ∧
        s'.scratch = writeList s.scratch (scrKey u (off + c.bytes)) (readList s.scratch (at_ (wordN c.words 4 + c.bytes)) n))

/-- R354, R358, R366, R451: a collective with no other member gives its own elements back, BROADCAST only from its own root; an i32
ALL_REDUCE with one peer adds; a peer that disagrees gives TARGET. PRESENT takes its image, which is the one for its frame when it
completes. COMMAND_COMPLETION writes the done record and takes the command from its queue. PROMISE_BROKEN marks a late command and its
troupe. A collective takes its peers' elements from the inbox (the model's form, log 40); only the domain's group has any. -/
def Obligations.EngineCommandsComplete : Prop :=
  (∀ s core (c : Cmd) bs s₁, Waiting s core 3 c →
    let n := wordN c.words 8
    let own := elements c.words n bs
    let out (l : List Word) : Option VErr × State := virtWrite s₁ core c.ctx (wordPair c.words 6) (elementBytes c.words l)
    let lone : Prop := wordN c.words 10 = 4 → s.mgmt.drained = [] ∧ s.mgmt.member = false
    virtFetch s core c.ctx (wordPair c.words 4) (n * elemBytes c.words) = (.ok bs, s₁) →
    (lone → (out own).1 = none →
      (∀ (i : Nat → List Peer → Instr) (op : Nat),
        (i, op) ∈ ([(.allReduce, 0), (.allGather, 2), (.reduceScatter, 3)] : List ((Nat → List Peer → Instr) × Nat)) → cmdOp c.words = op →
        ∃ s', exec (i core []) s = .next s' ∧ Performed s' core 3 c 0 0 (n * elemBytes c.words) ∧ s'.mem = (out own).2.mem ∧ s'.scratch = (out own).2.scratch) ∧
      (cmdOp c.words = 1 → wordN c.words 11 = s.mgmt.deviceNo.toNat →
        ∃ s', exec (.broadcast core []) s = .next s' ∧ Performed s' core 3 c 0 0 (n * elemBytes c.words) ∧ s'.mem = (out own).2.mem)) ∧
    (lone → cmdOp c.words = 1 → wordN c.words 11 ≠ s.mgmt.deviceNo.toNat →
      ∃ s', exec (.broadcast core []) s = .next s' ∧ Performed s' core 3 c 4 0 0 ∧ s'.mem = s₁.mem ∧ s'.scratch = s₁.scratch) ∧
    (∀ p : Peer, cmdOp c.words = 0 → wordN c.words 10 = 4 → s.mgmt.drained = [] → (s.mgmt.member = true → s.linked = true) →
      p.group = 4 → p.seq = c.words.getD 12 0 → p.device ≠ s.mgmt.deviceNo.toNat →
      let agrees : Prop := p.op = 0 ∧ p.ty = wordN c.words 9 % 4 ∧ p.red = wordN c.words 9 / 16 ∧ p.count = n
      let sums := (List.range n).map (fun k => own.getD k 0 + p.data.getD k 0)
      (agrees → wordN c.words 9 = 2 → (out sums).1 = none → ∃ s', exec (.allReduce core [p]) s = .next s' ∧
        Performed s' core 3 c 0 0 (n * 4) ∧ s'.mem = (out sums).2.mem) ∧
      (¬ agrees → ∃ s', exec (.allReduce core [p]) s = .next s' ∧ Performed s' core 3 c 4 0 0 ∧ s'.mem = s₁.mem))) ∧
  (∀ s core (c : Cmd) bs s₁, Waiting s core 5 c →
    let w := wordN c.words 6 % 65536
    let h := wordN c.words 6 / 65536
    virtFetch s (coreOf c.troupe) c.ctx (wordPair c.words 4) (4 * w * h) = (.ok bs, s₁) →
    ∃ s' img, exec (.present core) s = .next s' ∧ Performed s' core 5 { c with image := some img } 0 0 (4 * w * h) ∧ s'.mem = s₁.mem ∧
      img.width = w ∧ img.height = h ∧ img.pixels.length = w * h ∧
      ∀ k, k < w * h → img.pixels[k]? = some (BitVec.ofNat 32 (leAt bs (4 * k) 4))) ∧
  (∀ s core (c : Cmd) img, (s.core core).engine 5 = [c] → c.performed = true → c.status = 0 → c.image = some img →
    wordN c.words 0 / 256 % 2 = 0 → inBlocks c.donePa = false →
    let o := kget Output.init s.outputs (wordN c.words 9)
    ∃ s', exec (.commandCompletion core 5) s = .next s' ∧ (s'.core core).engine 5 = [] ∧
      (kget Output.init s'.outputs (wordN c.words 9)).presents =
        o.presents.filter (fun p => p.1 != c.words.getD 8 0) ++ [(c.words.getD 8 0, img)]) ∧
  (∀ s core e (c : Cmd), (s.core core).engine e = [c] → c.performed = true → wordN c.words 0 / 256 % 2 = 0 → 2 ≤ e → e ≠ 5 →
    (s.tile (noCore / 4)).partials = [] → inBlocks c.donePa = false → memFault s c.donePa 16 = none → Held s c.doneKey c.donePa 16 →
    c.status < 8 →
    ∃ s', exec (.commandCompletion core e) s = .next s' ∧ (s'.core core).engine e = [] ∧ s'.troupes = s.troupes ∧ s'.scratch = s.scratch ∧
      s'.mem = writeNat s.mem c.donePa 16
        ((c.words.getD 3 0).toNat + 2 ^ 32 * (c.status + if c.broken then 128 else 0) + 2 ^ 64 * c.fault.toNat)) ∧
  (∀ s core e (c : Cmd) t, (s.core core).engine e = [c] → c.broken = false → c.promise < s.now → s.troupe c.troupe = some t →
    s.genOf c.troupe = c.gen → t.ctx = c.ctx → t.late = [] → kfind s.holds c.troupe = none → t.wait = none →
    ∃ s', exec (.promiseBroken core e c.id) s = .next s' ∧ (s'.core core).engine e = [{ c with broken := true }] ∧
      s'.troupe c.troupe = some { t with late := [{ engine := e, promise := c.promise, id := s.ids, cmd := c.id }] } ∧ s'.mem = s.mem ∧ s'.scratch = s.scratch)

/-! ## The vector unit -/

/-- Element i of a vector register as it stood at issue (R29, R166); a register not written since its claim is zero (R111). -/
def Sys2Proof.Claims.lane (f : Focus) (x : BitVec 5) (i : Nat) : Word := (kget (List.replicate 96 0) f.latch.vregs x.toNat).getD i 0

/-- A claimed vector register with its 96 elements. -/
def Sys2Proof.Claims.HasV (f : Focus) (t : Troupe) (x : BitVec 5) : Prop :=
  x.toNat < t.vclaim ∧ (kget (List.replicate 96 0) f.latch.vregs x.toNat).length = 96

/-- None of the vector registers held an uncorrectable word at issue (R458). -/
def Sys2Proof.Claims.Sound (f : Focus) (l : List (BitVec 5)) : Prop := ∀ x, x ∈ l → x.toNat ∉ f.latch.badVregs

/-- A g field of a vector slot; `z` gives 0 (R170). -/
def Sys2Proof.Claims.gField (f : Focus) (x : BitVec 5) : Dword := if x.toNat < 16 then f.latch.gread x.toNat else 0

/-- The slot writes element i of vD as `v i`, ORs `fp` into FPFLAGS and sets SAT when `sat`, and changes nothing else (R171). -/
def Sys2Proof.Claims.VecWrites (i : Instr) (s : State) (f : Focus) (t : Troupe) (d : BitVec 5) (v : Nat → Word)
    (fp : BitVec 5 := 0) (sat : Bool := false) : Prop :=
  ∃ s', exec i s = .next s' ∧ OnlyTroupe s s' f.troupe
    { t with vregs := kset t.vregs d.toNat ((List.range 96).map v), badVregs := t.badVregs.filter (fun n => n != d.toNat),
             fpFlags := t.fpFlags ||| fp, sat := if sat then 1 else t.sat }

/-- The OR of the signals of 96 elements. -/
def Sys2Proof.Claims.orLanes (fl : Nat → BitVec 5) : BitVec 5 := (List.range 96).foldl (fun m i => m ||| fl i) 0

/-- op(FN, TYPE, a, b, d) of R172 without saturation, with its signals. -/
def Sys2Proof.Claims.laneOp (fn ty : Nat) (a b d : Word) : Word × BitVec 5 :=
  let fl (F : FFmt) (x y z : Nat) : Nat × BitVec 5 :=
    match fn with
    | 0 => ffAdd F x y
    | 1 => ffSub F x y
    | 2 => ffMul F x y
    | 3 => ffFma F x y z
    | 4 => ffMinMax F true x y
    | _ => ffMinMax F false x y
  let packed (F : FFmt) : Word × BitVec 5 :=
    let l := fl F (a.toNat % 65536) (b.toNat % 65536) (d.toNat % 65536)
    let h := fl F (a.toNat / 65536) (b.toNat / 65536) (d.toNat / 65536)
    (BitVec.ofNat 32 (l.1 % 65536 + 65536 * h.1), l.2 ||| h.2)
  match ty with
  | 0 => (BitVec.ofNat 32 (fl f32 a.toNat b.toNat d.toNat).1, (fl f32 a.toNat b.toNat d.toNat).2)
  | 1 => packed f16
  | 2 => packed bf16
  | _ =>
    (match fn with
     | 0 => a + b
     | 1 => a - b
     | 2 => a * b
     | 3 => a * b + d
     | 4 => if ty = 3 then (if a.toInt < b.toInt then b else a) else (if a.toNat < b.toNat then b else a)
     | _ => if ty = 3 then (if b.toInt < a.toInt then b else a) else (if b.toNat < a.toNat then b else a), 0)

/-- R172, R173: the six arithmetic functions in each type, with VB a vector register or the low word of a g register, and the
functions of one argument. A saturated integer sum or difference is clamped to its range and sets SAT. An unclaimed
register raises VREG_UNCLAIMED. -/
def Obligations.VectorArithmeticWritesElements : Prop :=
  (∀ s f t (x : VarF), At s f t → f.run ≠ 0 → x.sub.toNat % 8 ≤ 4 →
    let b (i : Nat) : Word := if x.sub.getLsbD 3 then (gField f x.b).setWidth 32 else lane f x.b i
    ∀ (i : VarF → Instr) (fn : Nat),
      (i, fn) ∈ ([(.vadd, 0), (.vsub, 1), (.vmul, 2), (.vfma, 3), (.vmax, 4), (.vmin, 5)] : List ((VarF → Instr) × Nat)) →
      let reads : List (BitVec 5) := (if fn = 3 then [x.d] else []) ++ x.a :: (if x.sub.getLsbD 3 then [] else [x.b])
      (PlainTrap f t → HasV f t x.d → HasV f t x.a → (x.sub.getLsbD 3 = true ∨ HasV f t x.b) → ¬ Sound f reads →
        Traps (i x) s f t 0x17 0 none f.run) ∧
      (HasV f t x.d → HasV f t x.a → (x.sub.getLsbD 3 = true ∨ HasV f t x.b) → Sound f reads →
        (x.sub.getLsbD 4 = false →
          VecWrites (i x) s f t x.d (fun k => (laneOp fn (x.sub.toNat % 8) (lane f x.a k) (b k) (lane f x.d k)).1)
            (orLanes (fun k => (laneOp fn (x.sub.toNat % 8) (lane f x.a k) (b k) (lane f x.d k)).2))) ∧
        (x.sub.getLsbD 4 = true → fn < 2 → 3 ≤ x.sub.toNat % 8 →
          let signed : Bool := x.sub.toNat % 8 == 3
          let num (w : Word) : Int := if signed then w.toInt else w.toNat
          let exact (k : Nat) : Int := if fn = 0 then num (lane f x.a k) + num (b k) else num (lane f x.a k) - num (b k)
          let lo : Int := if signed then -2147483648 else 0
          let hi : Int := if signed then 2147483647 else 4294967295
          VecWrites (i x) s f t x.d (fun k => BitVec.ofInt 32 (max lo (min hi (exact k)))) 0
            ((List.range 96).any (fun k => decide (exact k < lo ∨ hi < exact k))))) ∧
      (PlainTrap f t → t.vclaim ≤ x.d.toNat → Traps (i x) s f t 0x06 0 none f.run)) ∧
  (∀ s f t (x : VunF), At s f t → f.run ≠ 0 → HasV f t x.d → HasV f t x.a → Sound f [x.a] →
    ∀ (i : VunF → Instr) (fn : Nat),
      (i, fn) ∈ ([(.vexp2, 3), (.vrcp, 0), (.vrsq, 1), (.vtanh, 7)] : List ((VunF → Instr) × Nat)) →
      VecWrites (i x) s f t x.d (fun k => BitVec.ofNat 32 (sfuUnary fn (lane f x.a k)).1) (orLanes (fun k => (sfuUnary fn (lane f x.a k)).2)))

/-- The element a register holds at the place that an index names, or 0 beyond it (R178). -/
def Sys2Proof.Claims.laneAt (f : Focus) (x : BitVec 5) (k : Nat) : Word := if k < 96 then lane f x k else 0

/-- Conversion codes 0 to 10 of R174 on one element. -/
def Sys2Proof.Claims.laneCvt (code : Nat) (a b : Word) : Cvt :=
  match code with
  | 0 => cvtToInt .nearest (-2 ^ 31) (2 ^ 31 - 1) a
  | 1 => cvtToInt .trunc (-2 ^ 31) (2 ^ 31 - 1) a
  | 2 => cvtToInt .nearest 0 (2 ^ 32 - 1) a
  | 3 => cvtFromInt a.toInt
  | 4 => cvtFromInt a.toNat
  | 5 => cvtPair f16 a b
  | 6 => cvtPair bf16 a b
  | 7 => cvtHalf f16 (a.toNat % 65536)
  | 8 => cvtHalf f16 (a.toNat / 65536)
  | 9 => cvtHalf bf16 (a.toNat % 65536)
  | _ => cvtHalf bf16 (a.toNat / 65536)

/-- R174 to R178: `vcvt` converts each element, quantises into a block image or expands one; `vred` combines in the fixed tree of
R177; `vscan` sums in rising order; `vbcast`, `vsel` and `vperm` choose elements. -/
def Obligations.VectorFunctionsWriteElements : Prop :=
  (∀ s f t (x : VsubF), At s f t → f.run ≠ 0 → HasV f t x.d → HasV f t x.a →
    Sound f (if x.sub = 5 ∨ x.sub = 6 then [x.a, x.b] else [x.a]) →
    let fmt := (s.core (coreOf f.troupe)).fmtAt f.issue
    let code := x.sub.toNat
    (code ≤ 10 → HasV f t x.b →
      VecWrites (.vcvt x) s f t x.d (fun k => (laneCvt code (lane f x.a k) (lane f x.b k)).1)
        (orLanes (fun k => (laneCvt code (lane f x.a k) (lane f x.b k)).2.1))
        ((List.range 96).any (fun k => (laneCvt code (lane f x.a k) (lane f x.b k)).2.2))) ∧
    (∀ v sat, 11 ≤ code → code ≤ 13 → fmt.getLsbD 18 = false → x.b = 0 →
      vQuantise (code - 8) (fmt.getLsbD 19) ((List.range 96).map (fun k => (lane f x.a k).toNat)) = some (v, sat) →
      VecWrites (.vcvt x) s f t x.d (fun k => v.getD k 0) 0 sat) ∧
    (∀ v sat, 11 ≤ code → code ≤ 13 → fmt.getLsbD 18 = true → (f.latch.gread (x.b.toNat + 1)).toNat % 2 ^ 32 % 96 = 0 →
      let r := rotateRow (f.latch.gread x.b.toNat) ((f.latch.gread (x.b.toNat + 1)).toNat % 2 ^ 32 / 32)
        ((List.range 96).map (fun k => (lane f x.a k).toNat))
      vQuantise (code - 8) (fmt.getLsbD 19) r.1 = some (v, sat) → VecWrites (.vcvt x) s f t x.d (fun k => v.getD k 0) r.2 sat) ∧
    (∀ l, 14 ≤ code → code ≤ 16 → vExpand (code - 11) ((List.range 96).map (lane f x.a)) = some l → l.length = 96 →
      VecWrites (.vcvt x) s f t x.d (fun k => (l.getD k (0, 0)).1) (orLanes (fun k => (l.getD k (0, 0)).2)))) ∧
  (∀ s f t (x : VredF), At s f t → f.run ≠ 0 → HasV f t x.a → Sound f [x.a] → redType (x.sub.toNat % 8) = true → x.sub.toNat / 8 % 4 < 3 →
    let fn := match x.sub.toNat / 8 % 4 with | 0 => 0 | 1 => 4 | _ => 5
    let combine (a b : Word) : Word := (laneOp fn (x.sub.toNat % 8) a b 0).1
    let y : Nat → Word := [48, 24, 12, 6, 3].foldl (fun (y : Nat → Word) h i => combine (y i) (y (i + h))) (lane f x.a)
    let result := combine (combine (y 0) (y 1)) (y 2)
    (x.sub.toNat < 32 → HasV f t x.d → ∃ fp : BitVec 5, (x.sub.toNat % 8 ≠ 0 → fp = 0) ∧
      VecWrites (.vred x) s f t x.d (fun k => if k = 0 then result else 0) fp) ∧
    (32 ≤ x.sub.toNat → x.d.toNat < 16 → ∃ s' fp, (x.sub.toNat % 8 ≠ 0 → fp = 0) ∧ exec (.vred x) s = .next s' ∧
      OnlyTroupe s s' f.troupe { t with g := kset t.g x.d.toNat (result.setWidth 64), fpFlags := t.fpFlags ||| fp })) ∧
  (∀ s f t (x : VscanF), At s f t → f.run ≠ 0 → HasV f t x.d → HasV f t x.a → Sound f [x.a] → redType (x.sub.toNat % 8) = true →
    let excl : Bool := x.sub.toNat / 8 == 1
    let add (a b : Word) : Word := (laneOp 0 (x.sub.toNat % 8) a b 0).1
    let sum (i : Nat) : Word := Nat.rec (if excl then 0 else lane f x.a 0)
      (fun j w => add w (lane f x.a (if excl then j else j + 1))) i
    ∃ fp : BitVec 5, (x.sub.toNat % 8 ≠ 0 → fp = 0) ∧ VecWrites (.vscan x) s f t x.d sum fp) ∧
  (∀ s f t (x : VdaF), At s f t → f.run ≠ 0 → HasV f t x.d → VecWrites (.vbcast x) s f t x.d (fun _ => (gField f x.a).setWidth 32)) ∧
  (∀ s f t (x : VdabvF), At s f t → f.run ≠ 0 → HasV f t x.d → HasV f t x.a → Sound f [x.a] →
    VecWrites (.vbcastElement x) s f t x.d (fun _ => laneAt f x.a (gField f x.b).toNat) ∧
    (HasV f t x.b → Sound f [x.b] → VecWrites (.vperm x) s f t x.d (fun k => laneAt f x.a (lane f x.b k).toNat))) ∧
  (∀ s f t (x : VsubF), At s f t → f.run ≠ 0 → HasV f t x.d → HasV f t x.a → HasV f t x.b → Sound f [x.d, x.a, x.b] →
    x.sub.toNat % 8 ≤ 4 → x.sub.toNat / 8 ≤ 5 →
    let c := x.sub.toNat / 8
    let float (F : FFmt) (v : Nat) : Bool :=
      let z : FVal := .fin false 0 0
      let w := ffDecode F v
      match c with
      | 1 => fvLt z w
      | 2 => fvLt w z
      | 3 => fvLt z w || fvEq w z
      | _ => fvLt w z || fvEq w z
    let int (v : Int) : Bool := match c with | 1 => decide (0 < v) | 2 => decide (v < 0) | 3 => decide (0 ≤ v) | _ => decide (v ≤ 0)
    let cond (ty v : Nat) : Bool :=
      if c = 0 then decide (v ≠ 0) else if c = 5 then decide (v = 0)
      else if ty = 0 then float f32 v else if ty = 1 then float f16 v else if ty = 2 then float bf16 v
      else if ty = 3 then int (BitVec.ofNat 32 v).toInt else int v
    let ty := x.sub.toNat % 8
    VecWrites (.vsel x) s f t x.d (fun k =>
      let a := lane f x.a k
      let b := lane f x.b k
      let d := lane f x.d k
      if ty = 1 ∨ ty = 2 then
        BitVec.ofNat 32 ((if cond ty (d.toNat % 65536) then a.toNat % 65536 else b.toNat % 65536) +
          65536 * (if cond ty (d.toNat / 65536) then a.toNat / 65536 else b.toNat / 65536))
      else if cond ty d.toNat then a else b))

/-- The troupe's vector memory slot runs with element addresses `ea` inside the ensemble's allocation, all aligned, with no
uncorrectable word, and nothing made before it is still to perform (R179, R181). -/
structure Sys2Proof.Claims.VmemReady (s : State) (f : Focus) (t : Troupe) (e : Ensemble) (ea : Nat → Dword) : Prop where
  at_ : At s f t
  runs : f.run ≠ 0
  plain : Plain t
  fresh : f.acted = false
  room : FlagRoom f t
  ens : s.ens t.ens = some e
  still : Quiet s (unitOf f.troupe)
  sound : s.badScr = []
  inside : ∀ i, i < 96 → (ea i).toNat % 4 = 0 ∧ (ea i).toNat + 4 ≤ 65536 * e.count

/-- R166, R168, R179, R180: a vector load gives each element the word at its address; a vector store writes its elements in
order, so that the highest-indexed one of an address remains, and no other byte. The op completes 11 + Rw cycles after issue and
holds its bundle when Rw exceeds 5; VMEM_COMPLETE takes it off its flag. A misaligned element raises ALIGN and one outside the
allocation SCRATCH_BOUNDS. A `vgive` waits for the operations on their way that name a register it gives back (R112).
That the elements move at issue is the model's choice (log 22). -/
def Obligations.VectorMemoryMovesElements : Prop :=
  let byIndex (f : Focus) (a b idx : BitVec 5) (i : Nat) : Dword := gField f a + gField f b + (lane f idx i).setWidth 64
  let step (f : Focus) (a b : BitVec 5) (i : Nat) : Dword := gField f a + gField f b + BitVec.ofNat 64 (4 * i)
  let stride (f : Focus) (a b : BitVec 5) (i : Nat) : Dword := gField f a + BitVec.ofNat 64 i * gField f b
  let ends (s s' : State) (f : Focus) (e : Ensemble) (rs : List (BitVec 5)) (ea : Nat → Dword) : Prop :=
    let rw := vmemRows (65536 * e.base) ((List.range 96).map ea)
    s'.mem = s.mem ∧ (∀ k, k ≠ f.troupe → s'.troupe k = s.troupe k) ∧
      (∃ op, (f.issue + 11 + rw, Instr.vmemComplete f.troupe { op := op, regs := rs.map (fun r => r.toNat) }) ∈ s'.agenda) ∧ (rw ≤ 5 → s'.focus = s.focus) ∧ (5 < rw → s'.focus = none)
  let loads (i : Instr) (s : State) (f : Focus) (t : Troupe) (e : Ensemble) (d : BitVec 5) (idx : List (BitVec 5)) (ea : Nat → Dword) : Prop :=
    Sound f idx → ∃ s' t', exec i s = .next s' ∧ s'.troupe f.troupe = some t' ∧ ends s s' f e (d :: idx) ea ∧ s'.scratch = s.scratch ∧
      t'.vregs = kset t.vregs d.toNat ((List.range 96).map (fun k =>
        BitVec.ofNat 32 (readNat s.scratch (scrKey (unitOf f.troupe) (65536 * e.base + (ea k).toNat)) 4)))
  let stores (i : Instr) (s : State) (f : Focus) (t : Troupe) (e : Ensemble) (d : BitVec 5) (idx : List (BitVec 5)) (ea : Nat → Dword) : Prop :=
    Sound f (d :: idx) → ∃ s' t', exec i s = .next s' ∧ s'.troupe f.troupe = some t' ∧ ends s s' f e (d :: idx) ea ∧ t'.vregs = t.vregs ∧
      s'.scratch = (List.range 96).foldl (fun m k =>
        writeNat m (scrKey (unitOf f.troupe) (65536 * e.base + (ea k).toNat)) 4 (lane f d k).toNat) s.scratch ∧
      (s.memOk = true → ∀ key, (∀ k, k < 96 →
          ¬ (scrKey (unitOf f.troupe) (65536 * e.base + (ea k).toNat) ≤ key ∧
             key < scrKey (unitOf f.troupe) (65536 * e.base + (ea k).toNat) + 4)) →
        readByte s'.scratch key = readByte s.scratch key)
  (∀ s f t (x : VdabF) e, HasV f t x.d →
    (VmemReady s f t e (step f x.a x.b) →
      loads (.vld x) s f t e x.d [] (step f x.a x.b) ∧ stores (.vst x) s f t e x.d [] (step f x.a x.b)) ∧
    (VmemReady s f t e (stride f x.a x.b) →
      loads (.vldStr x) s f t e x.d [] (stride f x.a x.b) ∧ stores (.vstStr x) s f t e x.d [] (stride f x.a x.b))) ∧
  (∀ s f t (x : VidxF) e, HasV f t x.d → HasV f t x.idx → VmemReady s f t e (byIndex f x.a x.b x.idx) →
    loads (.vgath x) s f t e x.d [x.idx] (byIndex f x.a x.b x.idx) ∧ stores (.vscat x) s f t e x.d [x.idx] (byIndex f x.a x.b x.idx)) ∧
  (∀ s f t (x : VdabF) e k, At s f t → f.run ≠ 0 → PlainTrap f t → f.acted = false → HasV f t x.d → s.ens t.ens = some e → k < 96 →
    ((step f x.a x.b k).toNat % 4 ≠ 0 → Traps (.vld x) s f t 0x07 0 none f.run ∧ Traps (.vst x) s f t 0x07 0 none f.run) ∧
    ((∀ i, i < 96 → (step f x.a x.b i).toNat % 4 = 0) → 65536 * e.count < (step f x.a x.b k).toNat + 4 →
      Traps (.vld x) s f t 0x0A 0 none f.run ∧ Traps (.vst x) s f t 0x0A 0 none f.run)) ∧
  (∀ s tk v t o, s.troupe tk = some t → t.outs = [o] → o.op = v.op → o.pend = 1 → ∃ s', exec (.vmemComplete tk v) s = .next s' ∧
    OnlyTroupe s s' tk { t with outs := [] }) ∧
  (∀ s f t (x : DaF) c o r, At s f t → f.run ≠ 0 → Plain t → 32 ≤ x.a.toNat → x.a.toNat < 48 →
    let n := (gVal f x.a).toNat
    n ≤ t.vclaim → n % 8 = 0 → (c, Instr.vmemComplete f.troupe o) ∈ s.agenda → r ∈ o.regs → n ≤ r → r < t.vclaim →
    ∃ s' t' e, exec (.vgive x) s = .next s' ∧ s'.troupe f.troupe = some t' ∧ t'.wait = some (.until e) ∧ c ≤ e ∧ s'.focus = none ∧
      t'.vclaim = t.vclaim ∧ t'.vregs = t.vregs ∧ t'.g = t.g)

/-! ## The matrix engine -/

/-- The troupe stands at a MAT slot that may post: no latched fault, nothing before it that its accesses must follow (R194, R280),
room in the table and in every flag, no fence waiting (R190, R193, R195). -/
structure Sys2Proof.Claims.MatReady (s : State) (f : Focus) (t : Troupe) (e : Ensemble) : Prop where
  at_ : At s f t
  runs : f.run ≠ 0
  plain : Plain t
  ens : s.ens t.ens = some e
  latch : e.latch = none
  order : orderPending s f.troupe t 0xFFFF .posted = false
  table : tableCount s (unitOf f.troupe) < 32
  room : FlagRoom f t
  fence : t.mfence = none

/-- The slot posts one operation at the end of its tile's table, which it enters two cycles after issue (R190); `flagged` says that
the operation counts on the slot's flag (R196). -/
def Sys2Proof.Claims.Posts (i : Instr) (s : State) (f : Focus) (t : Troupe) (k : MatKind → Prop) (sety : BitVec 1) (flagged : Bool) : Prop :=
  let flag := if sety = 1 then t.clause.sety else t.clause.setx
  ∃ s' t' o, exec i s = .next s' ∧ s'.troupe f.troupe = some t' ∧ (∀ j, j ≠ f.troupe → s'.troupe j = s.troupe j) ∧
    s'.mem = s.mem ∧ s'.scratch = s.scratch ∧ s'.focus = s.focus ∧
    (s'.tile (unitOf f.troupe)).rtab = (s.tile (unitOf f.troupe)).rtab ++ [o] ∧ k o.kind ∧ o.ens = t.ens ∧ o.troupe = f.troupe ∧
    o.eix = t.eix ∧ o.posted = f.issue + 2 ∧ o.fence = [] ∧ o.granted = none ∧
    (if flagged ∧ flag < 12 then ∃ op, o.op = some op ∧ t'.outs = t.outs ++ [{ op := op, flag := flag, pend := 1 }]
     else o.op = none ∧ t'.outs = t.outs)

/-- R186, R187, R190, R195 to R204: the posting slots put their operation into the table with the fields of their descriptor; a first
`mload` binds its bank; a piece of a joint pass waits for the others; `mengage`, `mfence` and `mwait` act at their slot. A latched
fault is raised by the next MAT slot, which clears it. -/
def Obligations.MatrixSlotsPostOperations : Prop :=
  (∀ s f t e, MatReady s f t e →
    (∀ x : MloadF,
      let d := (gField f x.b).toNat
      let addr := (gField f x.a).toNat
      let m0 := d % 512
      let count := d / 512 % 512
      let stride := d / 2 ^ 32
      let span := if count = 0 then 0 else if stride = 0 then 288 * count else (count - 1) * stride + 288
      d / 2 ^ 18 % 2 ^ 14 = 0 → m0 + count ≤ (if x.a17 = 1 then 192 else 384) → addr % 16 = 0 → stride % 16 = 0 →
      (span = 0 ∨ addr + span ≤ 65536 * e.count) →
      let k : MatKind → Prop := fun k => k = .load x.bank.toNat addr m0 count stride (x.a17 == 1)
      (∀ p, kfind e.banks x.bank.toNat = some p → Posts (.mload x) s f t k x.sety true) ∧
      (∀ b, kfind e.banks x.bank.toNat = none → freeBank s (unitOf f.troupe) = some b → Posts (.mload x) s f t k x.sety true ∧
        ∃ s' e', exec (.mload x) s = .next s' ∧ s'.ens t.ens = some e' ∧ kfind e'.banks x.bank.toNat = some b)) ∧
    (∀ x : MpassF,
      let d := (gField f x.b).toNat
      let addr := (gField f x.a).toNat
      let p := (((s.core (coreOf f.troupe)).fmtAt f.issue).extractLsb' 0 5).toNat
      let n := d % 64
      let c0 := d / 256 % 64
      let stride := if d / 65536 % 65536 = 0 then 16 * (p + 1) else d / 65536 % 65536
      let piece (q : Piece) : Prop := q.addr = addr ∧ q.n = n ∧ q.k = d / 64 % 4 + 1 ∧ q.c0 = c0 ∧ q.stride = stride ∧
        q.acc = x.acc.toNat ∧ q.zero = (x.zero == 1) ∧ q.p = p ∧ q.troupe = f.troupe
      x.acc.toNat < e.naccs → 1 ≤ n → n ≤ 48 → c0 + n ≤ 48 → d / 2 ^ 14 % 4 = 0 → 16 * (p + 1) ≤ stride → stride % 16 = 0 → addr % 16 = 0 →
      addr + (n - 1) * stride + 16 * (p + 1) ≤ 65536 * e.count →
      (d / 2 ^ 32 = 0 → ∃ s' t' o q, exec (.mpass x) s = .next s' ∧ s'.troupe f.troupe = some t' ∧ s'.scratch = s.scratch ∧
        s'.mem = s.mem ∧ (s'.tile (unitOf f.troupe)).rtab = (s.tile (unitOf f.troupe)).rtab ++ [o] ∧ o.kind = .pass false [q] ∧ piece q ∧
        o.posted = f.issue + 2 ∧ q.op.isSome = (!e.engaged && decide ((if x.sety = 1 then t.clause.sety else t.clause.setx) < 12))) ∧
      (d / 2 ^ 34 % 4 = 0 → d / 2 ^ 39 = 0 →
        let j := d / 2 ^ 32 % 4
        let pieces := d / 2 ^ 36 % 8 + 1
        (kget [] e.joins j = [] → 1 < pieces → ∃ s' t' e' q, exec (.mjoin x) s = .next s' ∧ s'.troupe f.troupe = some t' ∧
          s'.scratch = s.scratch ∧ s'.ens t.ens = some e' ∧ kget [] e'.joins j = [q] ∧ piece q ∧
          (s'.tile (unitOf f.troupe)).rtab = (s.tile (unitOf f.troupe)).rtab) ∧
        (∀ q0, kget [] e.joins j = [q0] → q0.pieces = 2 → ∃ s' t' e' o q, exec (.mjoin x) s = .next s' ∧ s'.troupe f.troupe = some t' ∧
          s'.scratch = s.scratch ∧ s'.ens t.ens = some e' ∧ kget [] e'.joins j = [] ∧
          (s'.tile (unitOf f.troupe)).rtab = (s.tile (unitOf f.troupe)).rtab ++ [o] ∧ o.kind = .pass true [q0, q] ∧ piece q))) ∧
    (∀ x : MdrainF,
      let d := (gField f x.b).toNat
      let dst := (gField f x.d).toNat
      let size := if x.fmt = 0 then 4 else 2
      let mr := d / 512 % 512
      let nc := d / 2 ^ 24 % 64 + 1
      let ds := d / 2 ^ 32
      x.acc.toNat < e.naccs → d / 2 ^ 30 % 4 = 0 → d % 512 + mr ≤ 384 → d / 2 ^ 18 % 64 + nc ≤ 48 → dst % size = 0 → ds % size = 0 →
      (mr = 0 ∨ dst + (mr - 1) * ds + nc * size ≤ 65536 * e.count) →
      Posts (.mdrain x) s f t (fun k => k = .drain x.acc.toNat dst (d % 512) mr (d / 2 ^ 18 % 64) nc ds x.fmt.toNat (x.clr == 1)) x.sety true) ∧
    (∀ x : AccF, x.acc.toNat < e.naccs → Posts (.mzero x) s f t (fun k => k = .zero x.acc.toNat) 0 false) ∧
    (∀ x : BankF, (kfind e.banks x.bank.toNat).isSome = true →
      Posts (.mswap x) s f t (fun k => k = .swap x.bank.toNat) 0 false ∧ Posts (.mfree x) s f t (fun k => k = .free x.bank.toNat) 0 false) ∧
    (∀ x : VdaF, x.d.toNat < 16 ∨ x.d = 31 →
      let others := otherEngaged s (unitOf f.troupe) t.ens
      let a := gField f x.a
      let done (v : Dword) (engaged : Bool) : Prop := ∃ s' e', exec (.mengage x) s = .next s' ∧
        Stands s s' f { t with g := if x.d.toNat < 16 then kset t.g x.d.toNat v else t.g } ∧
        s'.ens t.ens = some e' ∧ e' = { e with engaged := engaged } ∧ s'.focus = s.focus
      (a = 1 → others = true → done 1 e.engaged) ∧
      (a = 1 → others = false → planesGone s (unitOf f.troupe) t.ens = true → done 0 true) ∧
      (a = 1 → others = false → planesGone s (unitOf f.troupe) t.ens = false → ∃ s', exec (.mengage x) s = .next s' ∧ s'.focus = none ∧
        s'.enss = s.enss ∧ Stands s s' f { t with wait := some .mengage, readyAt := max t.readyAt (f.issue + 16) }) ∧
      (a = 0 → done 0 false) ∧
      (a ≠ 0 → a ≠ 1 → done 2 e.engaged)) ∧
    (∀ x : VaF, ∃ s', exec (.mfence x) s = .next s' ∧ OnlyTroupe s s' f.troupe
      { t with mfence := some ((t.outs.filter (fun o => decide (o.flag < 12) && (gField f x.a).getLsbD o.flag)).map (fun o => o.op)) }) ∧
    (∀ x : VdaF, x.d.toNat < 16 ∨ x.d = 31 → x.a.toNat < e.naccs ∨ x.a = 31 → f.resuming = false →
      (mwaitIds s f.troupe t e x.a.toNat = [] → ∃ s' e', exec (.mwait x) s = .next s' ∧ s'.focus = s.focus ∧
        Stands s s' f { t with g := (if x.d.toNat < 16 then kset t.g x.d.toNat (e.matExc.setWidth 64) else t.g),
                               fpFlags := t.fpFlags ||| e.matExc } ∧
        s'.ens t.ens = some e' ∧ e' = { e with matExc := 0 }) ∧
      (mwaitIds s f.troupe t e x.a.toNat ≠ [] → ∃ s', exec (.mwait x) s = .next s' ∧ s'.focus = none ∧ s'.enss = s.enss ∧
        Stands s s' f { t with wait := some (.mwait (mwaitIds s f.troupe t e x.a.toNat)), readyAt := max t.readyAt (f.issue + 16) }))) ∧
  (∀ s f t e l, At s f t → f.run ≠ 0 → PlainTrap f t → orderPending s f.troupe t 0xFFFF .posted = false → s.ens t.ens = some e →
    e.latch = some l → l.cause < 256 → f.resuming = false →
    ∀ (a : MloadF) (b : MpassF) (c : MdrainF) (d : AccF) (g : BankF) (h : VdaF) (j : VaF) (i : Instr),
      i ∈ [Instr.mload a, .mpass b, .mjoin b, .mdrain c, .mzero d, .mswap g, .mengage h, .mfree g, .mfence j, .mwait h] →
      ∃ s' t' e', exec i s = .next s' ∧ s'.troupe f.troupe = some t' ∧
        TrapTaken f t t' l.cause (l.value.toNat / 256 % 256) (some (l.value.setWidth 64)) f.run ∧
        s'.ens t.ens = some e' ∧ e' = { e with latch := none } ∧ s'.mem = s.mem ∧ s'.scratch = s.scratch)

/-- One accumulator element after a pass (R183): blocks in order, each product sum rounded and then added with one rounding. -/
def Sys2Proof.Claims.passCell (k : Nat) (old : Nat) (w : BankRow) (r : Rec) : Nat :=
  (List.range k).foldl (fun acc b =>
    let i : Int := (List.range 24).foldl (fun (n : Int) e => n + w.w.getD (24 * b + e) 0 * r.v.getD (24 * b + e) 0) 0
    let x := w.xw.getD b 0 + r.x.getD b 0 - (if w.mark && r.mark then 5 else 0)
    (ffAdd f32 acc (ffRound f32 (decide (i < 0)) i.natAbs x false).1).1) old

/-- The cell of an accumulator; one that nothing has written is +0.0 (R187). -/
def Sys2Proof.Claims.accCell (e : Ensemble) (a m c : Nat) : Word := (kget (List.replicate 48 0) (kget [] e.accs a) m).getD c 0

/-- R183, R185, R188, R191, R192, R196, R200, R202, R203: a swap that heads the table changes the current bank at its grant; an eligible
pass takes the array, latches the current bank with its mode and rows and completes 44 + P·⌈N/6⌉ cycles later; after 4,096 cycles of
waiting its priority rises. A started operation goes on in each of its cycles: a pass reads headers or planes, a load writes one
row, a drain one row of elements. At its completion a pass adds its products to its columns, a zero clears its accumulator.
Readings of the model: log 23. -/
def Obligations.MatrixEngineRunsOperations : Prop :=
  (∀ s u o e b, (s.tile u).running = [] → (s.tile u).rtab = [o] → o.posted ≤ s.now → o.fence = [] → o.kind = .swap b → o.op = none →
    s.ens o.ens = some e → unitServes s u e.ctx = true →
    ∃ s' e', exec (.matrixGrant u) s = .next s' ∧ (s'.tile u).rtab = [] ∧ s'.ens o.ens = some e' ∧ e' = { e with cur := b } ∧ s'.mem = s.mem ∧ s'.scratch = s.scratch) ∧
  (∀ s u o e p bank k, (s.tile u).running = [] → (s.tile u).rtab = [o] → o.posted ≤ s.now → o.fence = [] → o.kind = .pass false [p] →
    o.eligible.isSome = true → (∀ q, q ∈ s.enss → q.2.engaged = true → q.2.unit = u → q.1 = o.ens) → (s.tile u).arrayFree ≤ s.now →
    s.mgmt.matHold ≤ s.now → s.ens o.ens = some e → unitServes s u e.ctx = true → passCheck s u e [p] = .ok (bank, k) →
    ∃ s' o', exec (.matrixGrant u) s = .next s' ∧ (s'.tile u).rtab = [] ∧ (s'.tile u).running = [o'] ∧ o'.id = o.id ∧ o'.granted = some s.now ∧
      o'.started = some s.now ∧ o'.bank = some bank ∧ o'.a17 = k.a17 ∧
      o'.rows = k.rows.filter (fun r => decide (r.1 < if k.a17 then 192 else 384)) ∧
      (s'.tile u).arrayFree = s.now + p.p * ((p.n + 5) / 6) ∧
      (s.now + 44 + p.p * ((p.n + 5) / 6), Instr.matrixOpComplete u o.id) ∈ s'.agenda ∧ s'.mem = s.mem ∧ s'.scratch = s.scratch) ∧
  (∀ s u o c, (s.tile u).rtab = [o] → o.eligible = some c → 4096 ≤ o.waited + (s.now - c) →
    ∃ s', exec (.grantPriorityRise u o.id) s = .next s' ∧ (s'.tile u).rtab = [{ o with raised := true }] ∧
      s'.troupes = s.troupes ∧ s'.enss = s.enss ∧ s'.mem = s.mem) ∧
  (∀ s u o e c, (s.tile u).running = [o] → s.ens o.ens = some e → o.started = some c → c + o.done ≤ s.now → o.done < o.kind.cycles →
    (∀ j ps l, o.kind = .pass j ps → readCycle s u (65536 * e.base) o ps = .ok l →
      ∃ s', exec (.matrixGrant u) s = .next s' ∧ (s'.tile u).running = [{ o with done := o.done + 1, cols := l }] ∧
        s'.enss = s.enss ∧ s'.mem = s.mem ∧ s'.scratch = s.scratch) ∧
    (∀ b addr m0 count stride a17 pb r, o.kind = .load b addr m0 count stride a17 → o.bank = some pb → kfind e.banks b = some pb →
      o.rows[o.done]? = some r →
      ∃ s', exec (.matrixGrant u) s = .next s' ∧ (s'.tile u).running = [{ o with done := o.done + 1 }] ∧
        bankOf s' u pb = { bankOf s u pb with rows := kset (bankOf s u pb).rows r.1 r.2,
                                              bad := (bankOf s u pb).bad.filter (fun n => n != r.1) } ∧
        s'.enss = s.enss ∧ s'.mem = s.mem ∧ s'.scratch = s.scratch) ∧
    (∀ a dst m0 mr c0 nc ds, o.kind = .drain a dst m0 mr c0 nc ds 0 false → s.badScr = [] → e.badAccs = [] →
      ∃ s', exec (.matrixGrant u) s = .next s' ∧ (s'.tile u).running = [{ o with done := o.done + 1 }] ∧ s'.mem = s.mem ∧
        s'.scratch = (List.range nc).foldl (fun m j =>
          writeNat m (scrKey u (65536 * e.base + (dst + o.done * ds + j * 4))) 4 (accCell e a (m0 + o.done) (c0 + j)).toNat) s.scratch)) ∧
  (∀ s u o e, (s.tile u).running = [o] → s.ens o.ens = some e →
    (∀ p, o.kind = .pass false [p] → p.op = none → (p.zero = true ∨ e.badAccs = []) → (∀ i j, o.cols[i]? = some j → j.col = p.c0 + i) → o.cols.length = p.n →
      p.c0 + p.n ≤ 48 → (∀ m, (kget (List.replicate 48 0) (kget [] e.accs p.acc) m).length = 48) →
      (∀ q, q ∈ o.rows → q.2.w.length = 96) → (∀ r, r ∈ o.cols → r.v.length = 96) → p.k ≤ 4 →
      ∃ s' e', exec (.matrixOpComplete u o.id) s = .next s' ∧ (s'.tile u).running = [] ∧ s'.ens o.ens = some e' ∧
        s'.scratch = s.scratch ∧ s'.mem = s.mem ∧
        ∀ m c, c < 48 → accCell e' p.acc m c =
          (match o.cols[c - p.c0]? with
           | some r => if p.c0 ≤ c ∧ m < (if o.a17 then 192 else 384) then
               BitVec.ofNat 32 (passCell p.k (if p.zero then 0 else (accCell e p.acc m c).toNat) (kget BankRow.zero o.rows m) r)
             else accCell e p.acc m c
           | none => accCell e p.acc m c)) ∧
    (∀ a, o.kind = .zero a → o.op = none → ∃ s' e', exec (.matrixOpComplete u o.id) s = .next s' ∧ (s'.tile u).running = [] ∧
      s'.ens o.ens = some e' ∧ (∀ m c, c < 48 → accCell e' a m c = 0) ∧
      (∀ a' m c, a' ≠ a → accCell e' a' m c = accCell e a' m c) ∧ s'.scratch = s.scratch) ∧
    ((∃ b addr m0 count stride a17, o.kind = .load b addr m0 count stride a17) ∨
        (∃ a dst m0 mr c0 nc ds fmt clr, o.kind = .drain a dst m0 mr c0 nc ds fmt clr) → o.op = none →
      ∃ s', exec (.matrixOpComplete u o.id) s = .next s' ∧ (s'.tile u).running = [] ∧ (s'.tile u).banks = (s.tile u).banks ∧
        s'.enss = s.enss ∧ s'.mem = s.mem ∧ s'.scratch = s.scratch))

/-! ## The plane unit -/

/-- The scratch after the first n rows of a plane operation, and the address of the next record: row j writes what `out` gives from
the scratch as the rows before it left it (R207). -/
def Sys2Proof.Claims.planeMem (key : Nat) (out : Memory → Nat → Nat → List (Nat × List Byte) × Nat) (m : Memory) (start : Nat) : Nat → Memory × Nat
  | 0 => (m, start)
  | n + 1 =>
    let r := planeMem key out m start n
    let o := out r.1 r.2 n
    (o.1.foldl (fun m w => writeList m (key + w.1) w.2) r.1, o.2)

/-- The slot runs R rows (R205, R206): their writes are in scratch, the plane unit is the troupe's until 8·R cycles after issue, and
the troupe issues no bundle before. -/
def Sys2Proof.Claims.PlaneRuns (i : Instr) (s : State) (f : Focus) (e : Ensemble) (rows start : Nat)
    (out : Memory → Nat → Nat → List (Nat × List Byte) × Nat) : Prop :=
  ∃ s' t', exec i s = .next s' ∧ s'.troupe f.troupe = some t' ∧ (∀ k, k ≠ f.troupe → s'.troupe k = s.troupe k) ∧ s'.mem = s.mem ∧
    s'.scratch = (planeMem (scrKey (unitOf f.troupe) (65536 * e.base)) out s.scratch start rows).1 ∧ s'.focus = s.focus ∧
    f.issue + 8 * rows ≤ t'.readyAt ∧ (s'.core (coreOf f.troupe)).plane = some f.troupe ∧
    (f.issue + 8 * rows, Instr.planeComplete f.troupe) ∈ s'.agenda

/-- The troupe stands at a PLANE slot with an allocation that holds no uncorrectable word, and nothing made before it is still to
perform. -/
structure Sys2Proof.Claims.PlaneReady (s : State) (f : Focus) (t : Troupe) (e : Ensemble) : Prop where
  at_ : At s f t
  runs : f.run ≠ 0
  plain : Plain t
  ens : s.ens t.ens = some e
  sound : s.badScr = []
  still : Quiet s (unitOf f.troupe)

/-- R141, R205 to R215: each plane operation writes its rows, at 8 cycles a row: `tplane` and `twin` records, `tunplane` and `tdequant`
rows of their records, `trot` rotated rows, `tquant` the elements and block records of its quantised rows that lie short of DIMK, `ttrans` every element at its transposed place.
`xfmt` gives the old palette register and merges the fields that its mask names, four cycles after issue; an illegal field raises FORMAT,
and a troupe that consumes a sketch stalls at it (R375; that `fmt` counts as no register of its own is the model's reading, log 60).
PLANE_COMPLETE frees the unit.
Readings of the model: log 24. -/
def Obligations.PlaneSlotsWriteRows : Prop :=
  (∀ s f t e, PlaneReady s f t e →
    let u := unitOf f.troupe
    let b := 65536 * e.base
    let size := 65536 * e.count
    let fmt := (s.core (coreOf f.troupe)).fmtAt f.issue
    let with_ (m : Memory) : State := { s with scratch := m }
    (∀ (x : TplaneF) h,
      let d := tensorDesc (gField f x.b)
      let p := if x.weight = 1 then d.wp else (fmt.extractLsb' 0 5).toNat
      let z := 16 * (p + 1)
      let dst (j : Nat) : Nat := (gField f x.d + BitVec.ofNat 64 (j * z)).toNat
      let out (m : Memory) (_ j : Nat) : List (Nat × List Byte) × Nat :=
        match tplaneRow (with_ m) u b h d.kb p (d.n0 + j) with | .ok r => ([(dst j, r.1.bytes)], 0) | .error _ => ([], 0)
      (gField f x.a).toNat % 8 = 0 → (gField f x.d).toNat % 16 = 0 → readHeader s f u b size (gField f x.a) = .ok h →
      tensorOk (gField f x.b) h (x.weight == 1) = true → h.fmt = (fmt.extractLsb' (if x.weight = 1 then 12 else 8) 3).toNat →
      h.rotate = fmt.getLsbD 18 →
      spanCheck size (tensorSpans h d ++ (List.range d.count).map (fun j => { off := dst j, len := z, al := 16 })) = none →
      (∀ j, j < d.count → ∃ r, tplaneRow (with_ (planeMem (scrKey u b) out s.scratch 0 j).1) u b h d.kb p (d.n0 + j) = .ok r) →
      PlaneRuns (.tplane x) s f e d.count 0 out) ∧
    (∀ x : TunF,
      let d := (gField f x.b).toNat
      let fm := if x.tf = 0 then f32 else if x.tf = 1 then f16 else bf16
      let z := if x.tf = 0 then 4 else 2
      let dst (j : Nat) : Nat := (gField f x.d + BitVec.ofNat 64 (j * (d / 2 ^ 32))).toNat
      let rows := d % 64 + 1
      let out (m : Memory) (a j : Nat) : List (Nat × List Byte) × Nat :=
        match unplaneRow (with_ m) u b a (dst j) 96 fm with | .ok r => (r.ws, r.next) | .error _ => ([], 0)
      (gField f x.a).toNat % 16 = 0 → (gField f x.d).toNat % z = 0 → d / 64 % 2 ^ 26 = 0 → x.tf.toNat < 3 →
      spanCheck size ([{ off := (gField f x.a).toNat, len := 288 * rows, al := 16 }] ++
        (List.range rows).map (fun j => { off := dst j, len := 96 * z, al := z })) = none →
      (∀ j, j < rows → ∃ r, unplaneRow (with_ (planeMem (scrKey u b) out s.scratch (gField f x.a).toNat j).1) u b
        (planeMem (scrKey u b) out s.scratch (gField f x.a).toNat j).2 (dst j) 96 fm = .ok r) →
      PlaneRuns (.tunplane x) s f e rows (gField f x.a).toNat out) ∧
    (∀ (x : VdabF) h,
      let d := tensorDesc (gField f x.b)
      let out (m : Memory) (a j : Nat) : List (Nat × List Byte) × Nat :=
        match unplaneRow (with_ m) u b a (h.elem (d.n0 + j) (96 * d.kb)) (min 96 (h.dimk - 96 * d.kb)) (srcFmt h.fmt) with
        | .ok r => (r.ws, r.next)
        | .error _ => ([], 0)
      (gField f x.d).toNat % 8 = 0 → (gField f x.a).toNat % 16 = 0 → readHeader s f u b size (gField f x.d) = .ok h →
      tensorOk (gField f x.b) h false = true → h.fmt < 3 →
      spanCheck size ([{ off := (gField f x.a).toNat, len := 288 * d.count, al := 16 }] ++ tensorSpans h d) = none →
      (∀ j, j < d.count → ∃ r, unplaneRow (with_ (planeMem (scrKey u b) out s.scratch (gField f x.a).toNat j).1) u b
        (planeMem (scrKey u b) out s.scratch (gField f x.a).toNat j).2 (h.elem (d.n0 + j) (96 * d.kb))
        (min 96 (h.dimk - 96 * d.kb)) (srcFmt h.fmt) = .ok r) →
      PlaneRuns (.tdequant x) s f e d.count (gField f x.a).toNat out) ∧
    (∀ x : TrotF, x.b.toNat ≤ 14 →
      let d := (gField f (x.b + 1)).toNat
      let rows := d % 64 + 1
      let row (g : BitVec 5) (j : Nat) : Nat := (gField f g + BitVec.ofNat 64 (j * (d / 2 ^ 32))).toNat
      let words (m : Memory) (a : Nat) : List Nat := (List.range 96).map (fun k => readNat m (scrKey u b + a + 4 * k) 4)
      let out (m : Memory) (_ j : Nat) : List (Nat × List Byte) × Nat :=
        ([(row x.d j, (trotRow (x.inv == 1) (gField f x.b) (d / 65536 % 65536) (words m (row x.a j))).1.flatMap (leBytes 4))], 0)
      (gField f x.a).toNat % 4 = 0 → (gField f x.d).toNat % 4 = 0 → d / 64 % 1024 = 0 →
      spanCheck size ((List.range rows).map (fun j => { off := row x.a j, len := 384, al := 4 }) ++
        (List.range rows).map (fun j => { off := row x.d j, len := 384, al := 4 })) = none →
      PlaneRuns (.trot x) s f e rows 0 out) ∧
    (∀ (x : VdabF) h, x.b.toNat ≤ 14 →
      let d := tensorDesc (gField f x.b)
      let src (j : Nat) : Nat := (gField f x.a + BitVec.ofNat 64 j * gField f (x.b + 1)).toNat
      let nb := min 96 (h.dimk - 96 * d.kb) / 24
      let words (m : Memory) (a : Nat) : List Nat := (List.range 96).map (fun k => readNat m (scrKey u b + a + 4 * k) 4)
      let quants (m : Memory) (j : Nat) : List Quant :=
        (runsOf 24 4 (if h.rotate then (rotateRow h.seed (3 * d.kb) (words m (src j))).1 else words m (src j))).filterMap
          (quantBlock h.fmt (fmt.getLsbD 19))
      let out (m : Memory) (_ j : Nat) : List (Nat × List Byte) × Nat :=
        ([(h.elem (d.n0 + j) (96 * d.kb), packCodes h.fmt (((quants m j).take nb).flatMap (fun q => q.codes))),
          (h.block (d.n0 + j) (4 * d.kb), ((quants m j).take nb).flatMap (fun q => [BitVec.ofNat 8 q.scale, BitVec.ofNat 8 q.spare]))], 0)
      (gField f x.d).toNat % 8 = 0 → (gField f x.a).toNat % 4 = 0 → readHeader s f u b size (gField f x.d) = .ok h →
      tensorOk (gField f x.b) h false = true → 3 ≤ h.fmt → h.rotate = fmt.getLsbD 18 →
      spanCheck size ((List.range d.count).map (fun j => { off := src j, len := 384, al := 4 }) ++ tensorSpans h d) = none →
      (∀ j, j < d.count → (quants (planeMem (scrKey u b) out s.scratch 0 j).1 j).length = 4) →
      PlaneRuns (.tquant x) s f e d.count 0 out) ∧
    (∀ x : TtransF,
      let d := (gField f x.b).toNat
      let z := if x.half = 1 then 2 else 4
      let rows := d % 128
      let cols := d / 128 % 128
      let src (i : Nat) : Nat := (gField f x.a + BitVec.ofNat 64 (i * (d / 2 ^ 32 % 65536))).toNat
      let dst (j : Nat) : Nat := (gField f x.d + BitVec.ofNat 64 (j * (d / 2 ^ 48))).toNat
      let out (_ : Memory) (_ i : Nat) : List (Nat × List Byte) × Nat :=
        ((List.range cols).map (fun j => (dst j + i * z, readList s.scratch (scrKey u b + src i + j * z) z)), 0)
      (gField f x.a).toNat % z = 0 → (gField f x.d).toNat % z = 0 → d / 2 ^ 14 % 2 ^ 18 = 0 → 1 ≤ rows → rows ≤ 96 → 1 ≤ cols → cols ≤ 96 →
      spanCheck size ((List.range rows).map (fun i => { off := src i, len := cols * z, al := z }) ++
        (List.range cols).map (fun j => { off := dst j, len := rows * z, al := z })) = none →
      PlaneRuns (.ttrans x) s f e rows 0 out) ∧
    (∀ (x : VdabF) w l,
      let code := (fmt.extractLsb' 8 3).toNat
      let p := (fmt.extractLsb' 0 5).toNat
      let z := if code = 0 then 4 else 2
      let dst (j : Nat) : Nat := (gField f x.d).toNat + j * (16 * (p + 1))
      let out (m : Memory) (_ j : Nat) : List (Nat × List Byte) × Nat :=
        match windowTaps (with_ m) u b (gField f x.a).toNat code w j with
        | .ok taps => (match floatRecord p code false taps with | some q => ([(dst j, q.1.bytes)], 0) | none => ([], 0))
        | .error _ => ([], 0)
      code < 3 → fmt.getLsbD 18 = false → (gField f x.d).toNat % 16 = 0 → (gField f x.a).toNat % z = 0 → (gField f x.b).toNat % 8 = 0 →
      headerBytes s f u b size (gField f x.b) = .ok l → w = parseWindow l → windowBad l z w = false →
      spanCheck size ([{ off := (gField f x.a).toNat, len := (w.h - 1) * w.rowstride + w.w * w.c * z, al := z }] ++
        (List.range w.count).map (fun j => { off := dst j, len := 16 * (p + 1), al := 16 })) = none →
      (∀ j, j < w.count → ∃ taps q, windowTaps (with_ (planeMem (scrKey u b) out s.scratch 0 j).1) u b (gField f x.a).toNat code w j = .ok taps ∧
        floatRecord p code false taps = some q) →
      PlaneRuns (.twin x) s f e w.count 0 out)) ∧
  (∀ s f t (x : XfmtF), At s f t → f.run ≠ 0 → x.d.toNat < 16 ∨ x.d = 31 →
    let m := xfmtMask x.mask
    let c := coreOf f.troupe
    let old := (s.core c).fmtLast
    (t.spec.sketches = [] → fmtLegal m (gField f x.a &&& m) = true → ∃ s' k, exec (.xfmt x) s = .next s' ∧
      Stands s s' f { t with g := if x.d.toNat < 16 then kset t.g x.d.toNat old else t.g } ∧ s'.focus = s.focus ∧
      (s'.core c).fmtNext = k ++ [(f.issue + 4, (old &&& ~~~m) ||| (gField f x.a &&& m))] ∧ (∀ q, q ∈ k → q ∈ (s.core c).fmtNext)) ∧
    (t.spec.sketches ≠ [] → ∃ s' t', exec (.xfmt x) s = .next s' ∧ Stands s s' f t' ∧ t'.wait = some .commit ∧ t'.g = t.g ∧
      s'.focus = none ∧ s'.cores = s.cores) ∧
    (fmtLegal m (gField f x.a &&& m) = false → PlainTrap f t → Traps (.xfmt x) s f t 0x16 0 none f.run)) ∧
  (∀ s tk, (s.core (coreOf tk)).plane = some tk → ∃ s', exec (.planeComplete tk) s = .next s' ∧ (s'.core (coreOf tk)).plane = none ∧
    s'.troupes = s.troupes ∧ s'.mem = s.mem ∧ s'.scratch = s.scratch)

/-! ## Predicted tiles -/

/-- The troupe stands at a SPEC slot of a lattice tile; memory is canonical and no word of scratch is uncorrectable. -/
structure Sys2Proof.Claims.SketchReady (s : State) (f : Focus) (t : Troupe) (e : Ensemble) : Prop where
  at_ : At s f t
  runs : f.run ≠ 0
  plain : PlainTrap f t
  tile : unitOf f.troupe < 288
  ens : s.ens t.ens = some e
  sound : s.badScr = []
  memory : s.memOk = true

/-- Tracked-tile entry n of a unit, as its own record now gives it (R368; log 28). -/
def Sys2Proof.Claims.tracked (s : State) (u n : Nat) : Option Tracked := entryOf s u n

/-- The bytes of the version that history slot j of an entry holds (R368). -/
def Sys2Proof.Claims.version (s : State) (u : Nat) (e : Ensemble) (k : Tracked) (j : Nat) : List Byte :=
  readList s.scratch (scrKey u (65536 * e.base + (k.hist + 64 + 64 * k.blocks * j))) (64 * k.blocks)

/-- The entry has taken `bs` as its next version, in a history slot that held neither v0 nor v1 (R368, R372). -/
def Sys2Proof.Claims.HasPosted (s s' : State) (u n : Nat) (e : Ensemble) (k : Tracked) (bs : List Byte) : Prop :=
  ∃ j, j < 3 ∧ some j ≠ k.v0 ∧ some j ≠ k.v1 ∧
    tracked s' u n = some { k with v1 := some j, v0 := k.v1, undo := k.v0, version := k.version + 1, specBy := none } ∧
    s'.scratch = writeList s.scratch (scrKey u (65536 * e.base + (k.hist + 64 + 64 * k.blocks * j))) bs

/-- Every position of every queue of the troupe is filled, or has its result in the snapshot buffer (R373, R419). -/
def Sys2Proof.Claims.Settled (s : State) (t : Troupe) : Prop :=
  ∀ th, th ∈ t.threads → ∀ q, q ∈ th.qs → ∀ p, p ∈ q.2 →
    (p.pos.value s.now).isSome = true ∨ ∃ id lat v, p.pos = .tagged id lat v

/-- R367, R369, R371 to R374, R382: the SPEC slots claim and free an entry, post a version, take a sketch with its prediction and
checkpoint, wait for and give the last outcome, squash a sketch, and read the entry; each holds its bundle until its cycle, and gives
its status.
Readings of the model: log 28. -/
def Obligations.SketchSlotsActOnTheirEntry : Prop :=
  (∀ s f t, At s f t → f.run ≠ 0 → 288 ≤ unitOf f.troupe → ∀ (x : DabF) (y : DaF) (i : Instr), y.d = x.d →
    i ∈ [Instr.sktrack x, .skread x, .skwait y, .skabort y, .skstat y, .skpost x] →
    ∃ s', exec i s = .next s' ∧ OnlyTroupe s s' f.troupe { t with g := gSet t x.d 3 }) ∧
  (∀ s f t e, SketchReady s f t e →
    let u := unitOf f.troupe
    let gives (i : Instr) (d : BitVec 6) (v : Nat) : Prop :=
      ∃ s', exec i s = .next s' ∧ OnlyTroupe s s' f.troupe { t with g := gSet t d (BitVec.ofNat 64 v) }
    let waits (i : Instr) (w : Wait) : Prop :=
      ∃ s', exec i s = .next s' ∧ s'.focus = none ∧ s'.units = s.units ∧
        Stands s s' f { t with wait := some w, readyAt := max t.readyAt (f.issue + 16) }
    (∀ x : DabF, UName x.a → UName x.b →
      let a := (gVal f x.a).toNat
      let b := (gVal f x.b).toNat
      let n := a % 16
      let bytes : Nat := 64 + 192 * (b % 2048)
      (s.now < f.issue + 16 → waits (.sktrack x) (.until (f.issue + 16))) ∧
      (f.issue + 16 ≤ s.now → a / 16 % 2 ^ 28 = 0 → b / 2 ^ 11 % 2 = 0 → b / 2 ^ 15 % 2 ^ 48 = 0 →
        (b < 2 ^ 63 →
          let bad : Prop := b % 2048 = 0 ∨ 1024 < b % 2048 ∨ b / 4096 % 4 = 3 ∨ a / 2 ^ 32 % 64 ≠ 0 ∨ 65536 * e.count < a / 2 ^ 32 + bytes
          (bad → gives (.sktrack x) x.d 2) ∧
          (¬ bad → (∀ m, m < 16 → (tracked s u m).isSome = true) → gives (.sktrack x) x.d 1) ∧
          (∀ m, ¬ bad → m < 16 → tracked s u m = none → (∀ j, j < m → (tracked s u j).isSome = true) →
            ∃ s' k, exec (.sktrack x) s = .next s' ∧ Stands s s' f { t with g := gSet t x.d (BitVec.ofNat 64 (256 * m)) } ∧
              s'.focus = s.focus ∧ tracked s' u m = some k ∧ (∀ j, j ≠ m → tracked s' u j = tracked s u j) ∧
              k.ens = t.ens ∧ k.hist = a / 2 ^ 32 ∧ k.blocks = b % 2048 ∧ k.fmt = b / 4096 % 4 ∧ k.hold = decide (b / 2 ^ 14 % 2 = 1) ∧
              k.version = 0 ∧ k.v0 = none ∧ k.v1 = none ∧ k.sketch = none ∧ k.specBy = none ∧ k.outcome = 2)) ∧
        (∀ k, b = 2 ^ 63 → tracked s u n = some k → k.ens = t.ens → k.specBy = none →
          (k.sketch.isSome = true → gives (.sktrack x) x.d 4) ∧
          (k.sketch = none → ∃ s', exec (.sktrack x) s = .next s' ∧
            Stands s s' f { t with g := gSet t x.d (BitVec.ofNat 64 (256 * n)) } ∧
            tracked s' u n = none ∧ ∀ j, j ≠ n → tracked s' u j = tracked s u j))) ∧
      ((∀ k, tracked s u n = some k → k.ens ≠ t.ens) → gives (.skread x) x.d 2 ∧ gives (.skpost x) x.d 2) ∧
      (∀ k, tracked s u n = some k → k.ens = t.ens → k.specBy = none →
        let done := f.issue + 16 + 4 * k.blocks
        (a < 16 → b % 64 = 0 → b + 64 * k.blocks ≤ 65536 * e.count →
          (k.sketch.isSome = true → gives (.skpost x) x.d 6) ∧
          (k.sketch = none → s.now < done → waits (.skpost x) (.until done)) ∧
          (k.sketch = none → done ≤ s.now → ∃ s', exec (.skpost x) s = .next s' ∧ s'.troupe f.troupe = some { t with g := gSet t x.d 0 } ∧
            (∀ i, i ≠ f.troupe → s'.troupe i = s.troupe i) ∧ s'.mem = s.mem ∧
            HasPosted s s' u n e k (readList s.scratch (scrKey u (65536 * e.base + b)) (64 * k.blocks)))) ∧
        (∀ len, a / 16 % 4096 = 0 → a < 2 ^ 32 → len = 64 * max k.blocks (a / 65536) → b % 64 = 0 → b + len ≤ 65536 * e.count →
          (k.v1 = none → gives (.skread x) x.d 5) ∧
          (k.v1.isSome = true → ¬ Settled s t → waits (.skread x) .drain) ∧
          (k.v1.isSome = true → Settled s t → s.now < done → waits (.skread x) (.until done)) ∧
          (∀ j, k.v1 = some j → Settled s t → k.sketch = none → done ≤ s.now →
            ∃ s' t' ck bs, exec (.skread x) s = .next s' ∧ s'.troupe f.troupe = some t' ∧ (∀ i, i ≠ f.troupe → s'.troupe i = s.troupe i) ∧
              s'.mem = s.mem ∧ s'.focus = s.focus ∧ t'.g = gSet t x.d (BitVec.ofNat 64 ((k.version + 1).toNat * 2 ^ 32)) ∧
              (b + 64 * k.blocks ≤ k.hist ∨ k.hist + 64 ≤ b →
                tracked s' u n = some { k with sketch := some (k.version + 1, 1, [f.troupe]) }) ∧
              t'.spec.sketches = [(n, k.version + 1)] ∧ t'.spec.regions = t.spec.regions ++ [(b, b + len)] ∧
              t'.spec.checkpoint = some ck ∧ ck.g = t'.g ∧ ck.active = t.active ∧ ck.maskStack = t.maskStack ∧ ck.retStack = t.retStack ∧
              ck.vregs = t.vregs ∧ ck.scopesel = t.scopesel ∧ ck.label = t.label ∧ ck.wopen = t.wopen ∧ ck.fpFlags = t.fpFlags ∧
              ck.sat = t.sat ∧ ck.t = n ∧ ck.version = k.version + 1 ∧ ck.dst = b ∧
              (f.last = false → ck.pc = t.pc ∧
                ck.split = some { slot := f.k + f.width, pass := f.pass, redo := 0, op := none,
                                  preds := f.latch.threads.map (fun th => th.preds), scopesel := f.latch.scopesel,
                                  answer := f.answer }) ∧
              s'.scratch = writeList s.scratch (scrKey u (65536 * e.base + b)) bs ∧
              (k.hold = true ∨ k.v0 = none → bs = version s u e k j) ∧
              (∀ i0 z, k.fmt < 3 → k.hold = false → k.v0 = some i0 → z = (if k.fmt = 0 then 4 else 2) →
                bs = (List.range (64 * k.blocks / z)).flatMap (fun i => leBytes z
                  (predictElement (if k.fmt = 0 then f32 else if k.fmt = 1 then f16 else bf16)
                    (leAt (version s u e k i0) (z * i) z) (leAt (version s u e k j) (z * i) z))))))) ∧
      (∀ k p tp, tracked s u n = some k → k.ens = t.ens → k.v1.isSome = true → Settled s t → k.sketch = none → k.specBy = some p →
        s.troupe p = some tp → tp.spec.sketches ≠ [] → 3 ≤ troupeDepth s p → a < 16 → b % 64 = 0 → b + 64 * k.blocks ≤ 65536 * e.count →
        Traps (.skread x) s f t 0x18 1 (some (BitVec.ofNat 64 n)) f.run)) ∧
    (∀ x : DaF, UName x.a →
      let a := (gVal f x.a).toNat
      let n := a % 16
      (16 ≤ a ∨ (∀ k, tracked s u n = some k → k.ens ≠ t.ens) → gives (.skwait x) x.d 2 ∧ gives (.skabort x) x.d 2) ∧
      (16 ≤ a → a < 32 → gives (.skstat x) x.d (troupeDepth s f.troupe + (if t.spec.trap = [] then 0 else 32) + 64 * t.spec.held.length)) ∧
      (∀ k, a < 16 → tracked s u n = some k → k.ens = t.ens → k.specBy = none →
        (k.sketch = none → gives (.skwait x) x.d (k.outcome + 2 ^ 32 * k.version.toNat) ∧ gives (.skabort x) x.d 2) ∧
        (k.sketch.isSome = true → waits (.skwait x) (.skwait n)) ∧
        gives (.skstat x) x.d ((if k.v1 = none then 0 else 1) + (if k.v0 = none then 0 else 1) +
          (match k.sketch with | some (_, d, cs) => 4 + 16 * d + 256 * min cs.length 63 | none => 0) +
          2 ^ 14 * k.outcome + 2 ^ 16 * k.blocks + 2 ^ 32 * k.version.toNat) ∧
        (∀ v d c tc, k.sketch = some (v, d, [c]) → c ≠ f.troupe → s.troupe c = some tc → unitOf c = u →
          (∀ m km, (m, km) ∈ (s.tile u).tracked → km.specBy ≠ some c) →
          ∃ s' tc' k', exec (.skabort x) s = .next s' ∧ s'.troupe f.troupe = some { t with g := gSet t x.d 0 } ∧
            tracked s' u n = some k' ∧ k'.sketch = none ∧ k'.outcome = 1 ∧ k'.version = k.version ∧ k'.v0 = k.v0 ∧ k'.v1 = k.v1 ∧
            s'.troupe c = some tc' ∧ tc'.spec.squashed = true ∧ tc'.spec.held = [] ∧ tc'.spec.trap = [] ∧ tc'.spec.sketches = [] ∧
            tc'.spec.checkpoint = tc.spec.checkpoint ∧ tc'.replay = [] ∧ tc'.wait = none ∧
            tc'.g = tc.g ∧ tc'.active = tc.active ∧ (tc.spec.held = [] → tc.replay = [] → tc'.threads = tc.threads) ∧
            s'.mem = s.mem ∧ s'.scratch = s.scratch)))) ∧
  (∀ s f t e, At s f t → f.run ≠ 0 → t.handler = false → f.k < 8 → unitOf f.troupe < 288 → s.ens t.ens = some e → s.badScr = [] →
    ∀ (x : DabF) k, UName x.a → UName x.b →
      let n := (gVal f x.a).toNat
      let b := (gVal f x.b).toNat
      n < 16 → tracked s (unitOf f.troupe) n = some k → k.ens = t.ens → k.specBy = none → k.v1.isSome = true → Settled s t →
      t.spec.sketches.length = 4 → (∀ p, p ∈ t.spec.sketches → p.1 ≠ n) → b % 64 = 0 → b + 64 * k.blocks ≤ 65536 * e.count →
      Traps (.skread x) s f t 0x18 2 (some (BitVec.ofNat 64 n)) f.run)

/-- R378 to R381: COMPARE posts the real tile, commits the outstanding sketch when no block fails and squashes it otherwise, and
puts its count of failed blocks into its done record; a committed consumer is no longer speculative. SQUASH_RESTART restores the
checkpoint, and once the version is posted copies it into the destination.
Readings of the model: log 28. -/
def Obligations.CompareDecidesSketches : Prop :=
  (∀ s core (c : Cmd) e k real pred, Waiting s core 4 c → compareWaits s core c = false → s.ens c.ens = some e → s.badScr = [] →
    s.memOk = true → e.unit = core / 4 →
    let u := core / 4
    let n := wordN c.words 4
    tracked s u n = some k → k.ens = c.ens → k.specBy = none → predict s u k = some pred →
    real = readList s.scratch (scrKey u (65536 * e.base + wordN c.words 5)) (64 * k.blocks) →
    let bad := failing k.fmt k.blocks real pred (c.words.getD 7 0)
    let word (out : Bool) : Nat := bad.length + 2 ^ 16 * bad.headD 0xFFFF + (if out then 2 ^ 32 + (if bad = [] then 0 else 2 ^ 33) else 0)
    let answered (s' : State) (k' : Tracked) (out : Bool) : Prop :=
      Performed s' core 4 c 0 (BitVec.ofNat 64 (word out)) (64 * k.blocks) ∧ s'.mem = s.mem ∧ HasPosted s s' u n e k' real
    (k.sketch = none → ∃ s', exec (.compare core) s = .next s' ∧ answered s' k false ∧ s'.troupes = s.troupes) ∧
    (∀ v d tk t, k.sketch = some (v, d, [tk]) → s.troupe tk = some t → unitOf tk = u → t.spec.sketches = [(n, v)] → t.spec.held = [] →
      t.spec.trap = [] → (∀ m km, (m, km) ∈ (s.tile u).tracked → km.specBy = none) →
      (bad = [] → ∃ s', exec (.compare core) s = .next s' ∧ answered s' { k with sketch := none, outcome := 0 } true ∧
        s'.troupe tk = some { t with spec := Spec.none, wait := if t.wait = some .commit then none else t.wait }) ∧
      (bad ≠ [] → ∃ s' t', exec (.compare core) s = .next s' ∧ answered s' { k with sketch := none, outcome := 1 } true ∧
        s'.troupe tk = some t' ∧ t'.spec.squashed = true ∧ t'.spec.held = [] ∧ t'.spec.checkpoint = t.spec.checkpoint))) ∧
  (∀ s tk t c, s.troupe tk = some t → t.spec.squashed = true → t.spec.checkpoint = some c →
    (t.spec.restored = false → Settled s t →
      ∃ s' t', exec (.squashRestart tk) s = .next s' ∧ OnlyTroupe s s' tk t' ∧
        t'.g = c.g ∧ t'.active = c.active ∧ t'.maskStack = c.maskStack ∧ t'.retStack = c.retStack ∧ t'.clause = c.clause ∧
        t'.vregs = c.vregs ∧ t'.scopesel = c.scopesel ∧ t'.label = c.label ∧ t'.wopen = c.wopen ∧ t'.fpFlags = c.fpFlags ∧
        t'.sat = c.sat ∧ t'.pc = c.pc ∧ t'.split = c.split ∧ t'.spec = { t.spec with restored := true } ∧
        (∀ i, i < c.threads.length → i < t.threads.length →
          (t'.thread i).qs = (c.threads.getD i Thread.init).qs ∧ (t'.thread i).preds = (c.threads.getD i Thread.init).preds)) ∧
    (∀ k, t.spec.restored = true → tracked s (unitOf tk) c.t = some k →
      ((k.version - c.version).toNat ≥ 2 ^ 31 → exec (.squashRestart tk) s = .next s) ∧
      (∀ j e, t.handler = false → k.ens = t.ens → k.version = c.version → k.specBy = none → k.v1 = some j → s.ens t.ens = some e →
        ∃ s', exec (.squashRestart tk) s = .next s' ∧ s'.mem = s.mem ∧
          s'.scratch = writeList s.scratch (scrKey (unitOf tk) (65536 * e.base + c.dst)) (version s (unitOf tk) e k j) ∧
          s'.troupe tk = some { t with spec := Spec.none, readyAt := max t.readyAt (s.now + 16 + 4 * k.blocks) } ∧
          (∀ i, i ≠ tk → s'.troupe i = s.troupe i))))

/-! ## Graphics slots -/

/-- A GFX slot runs in thread n alone, with its sources read as `va` and `vb`; nothing made before is still to perform and no word of
scratch is uncorrectable. -/
structure Sys2Proof.Claims.GfxReady (s : State) (f : Focus) (t : Troupe) (e : Ensemble) (x : RegF) (n : Nat) (va vb : Operand)
    (th : Thread) : Prop where
  at_ : At s f t
  plain : Plain t
  alone : Alone f n
  ens : s.ens t.ens = some e
  sound : s.badScr = []
  still : Quiet s (unitOf f.troupe)
  reads : ∃ m, readSrc f (f.issue + n) n (t.thread n) x.a (x.ka == 1) = .ok (va, m) ∧
    readSrc f (f.issue + n) n m x.b (x.kb == 1) = .ok (vb, th)

/-- The slot pushes `ws` into D, or gives a g register the last of them unless a higher thread has committed the slot before (R106);
nothing of memory changes, and scratch is as given (R427). Where it has stored, that was its thread's next store after a fence (R285). -/
def Sys2Proof.Claims.GfxPushes (i : Instr) (s s' : State) (f : Focus) (t : Troupe) (d : BitVec 6) (n : Nat) (th : Thread) (ws : List Word)
    (scratch : Memory) (stored : Bool := false) : Prop :=
  exec i s = .next s' ∧ s'.focus = s.focus ∧ s'.mem = s.mem ∧ s'.scratch = scratch ∧ (∀ k, k ≠ f.troupe → s'.troupe k = s.troupe k) ∧
  ∃ t', s'.troupe f.troupe = some t' ∧ (∀ k, k ≠ n → t'.thread k = t.thread k) ∧
    (let x : Thread := if stored then { th with release := none } else th
     t'.thread n = (if d.toNat < 32 then
       x.setQueue d.toNat (th.queue d.toNat ++ ws.map (fun w => { pos := .filled w false, fresh := true })) else x)) ∧
    t'.g = (if 32 ≤ d.toNat ∧ d.toNat < 48 ∧ overtaken f n = false then kset t.g (d.toNat - 32) ((ws.getLastD 0).setWidth 64) else t.g)

/-- The exact edge function of R433. -/
def Sys2Proof.Claims.edge (a b p : Int × Int) : Int := (b.1 - a.1) * (p.2 - a.2) - (b.2 - a.2) * (p.1 - a.1)

/-- A point on the inner side of an edge, or on a top-left edge (R433). -/
def Sys2Proof.Claims.inside (a b p : Int × Int) : Prop :=
  0 < edge a b p ∨ (edge a b p = 0 ∧ (b.2 - a.2 < 0 ∨ (b.2 = a.2 ∧ 0 < b.1 - a.1)))

/-- R427 to R441: `tsetup` gives the status of a triangle, whose lines take effect in order (R9, R432), or takes an entry and stores its
exact setup; `rstep` gives coverage and depth;
`bxtest` and `tritest` answer for a ray and update its record, and read no node of a ray that has ended; `txf` and `fgrid` give their
words 20 and 24 cycles later; `gwrite` writes its pixel when it wins.
Readings of the model: logs 30, 31 and 32. -/
def Obligations.GraphicsSlotsAnswer : Prop :=
  ∀ s f t e (x : RegF) n va vb th, GfxReady s f t e x n va vb th →
    let u := unitOf f.troupe
    let at_ (off : Nat) : Nat := scrKey u (65536 * e.base + off)
    let bytes (off len : Nat) : List Byte := readList s.scratch (at_ off) len
    let ea := (va.addr (x.a == 61)).toNat
    let room (k : Nat) : Prop := x.d.toNat < 32 → (th.queue x.d.toNat).length + k ≤ 4
    let pushes (i : Instr) (ws : List Word) : Prop := ∃ s', GfxPushes i s s' f t x.d n th ws s.scratch
    let stores (i : Instr) (ws : List Word) (m : Memory) : Prop := ∃ s', GfxPushes i s s' f t x.d n th ws m true
    -- tsetup
    (room 1 → ea % 16 = 0 → ea + 36 ≤ 65536 * e.count →
      let l := bytes ea 36
      let z (v : Nat) : Nat := fieldAt l (12 * v + 8) 4
      let p (v : Nat) : Int × Int := (gRound 8 (fieldAt l (12 * v) 4), gRound 8 (fieldAt l (12 * v + 4) 4))
      let flat : Prop := ∀ v, v < 3 → gFinite (fieldAt l (12 * v) 4) = true ∧ gFinite (fieldAt l (12 * v + 4) 4) = true
      let deep : Prop := ∀ v, v < 3 → gFinite (z v) = true
      let near : Prop := ∀ v, v < 3 → (p v).1.natAbs < 2 ^ 23 ∧ (p v).2.natAbs < 2 ^ 23
      let area : Int := ((p 1).1 - (p 0).1) * ((p 2).2 - (p 0).2) - ((p 1).2 - (p 0).2) * ((p 2).1 - (p 0).1)
      let culled : Prop := area = 0 ∨ (0 < area ∧ vb.lo.getLsbD 0 = true) ∨ (area < 0 ∧ vb.lo.getLsbD 1 = true)
      (¬ flat → pushes (.tsetup x) [0x80000000]) ∧
      (flat → culled → pushes (.tsetup x) [0x40000000]) ∧
      (flat → ¬ culled → 4 ≤ vb.lo.toNat ∨ ¬ deep ∨ ¬ near → pushes (.tsetup x) [0x80000000]) ∧
      (vb.lo.toNat < 4 → flat → deep → near → ¬ culled → ∃ s' k, let c := setupVictim (s.tile u)
        GfxPushes (.tsetup x) s s' f t x.d n th [BitVec.ofNat 32 (c + 1024 * setupGen (s'.tile u) c)] s.scratch ∧
        kfind (s'.tile u).setups c = some k ∧ k.valid = true ∧ k.gen = (kget Setup.init (s.tile u).setups c).gen + 1 ∧
        (0 < area → k.xy = [p 0, p 1, p 2] ∧ k.area = area ∧
          k.z = [BitVec.ofNat 32 (z 0), BitVec.ofNat 32 (gSub (z 1) (z 0)), BitVec.ofNat 32 (gSub (z 2) (z 0))]) ∧
        (area < 0 → k.xy = [p 0, p 2, p 1] ∧ k.area = -area ∧
          k.z = [BitVec.ofNat 32 (z 0), BitVec.ofNat 32 (gSub (z 2) (z 0)), BitVec.ofNat 32 (gSub (z 1) (z 0))]))) ∧
    -- rstep
    (room 2 →
      let h := (va.addr (x.a == 61)).toNat % 2 ^ 32
      let k := kget Setup.init (s.tile u).setups (h % 1024)
      let good : Prop := k.valid = true ∧ setupGen (s.tile u) (h % 1024) = h / 1024 % 2 ^ 20
      (2 ^ 30 ≤ h → pushes (.rstep x) [4, 0]) ∧
      (h < 2 ^ 30 → ¬ good → pushes (.rstep x) [2, 0]) ∧
      (∀ v0 v1 v2 z0 dz1 dz2, h < 2 ^ 30 → good → k.xy = [v0, v1, v2] → k.z = [z0, dz1, dz2] →
        let p : Int × Int := (256 * ((vb.lo.toNat % 65536 : Nat) : Int) + 128, 256 * ((vb.lo.toNat / 65536 : Nat) : Int) + 128)
        let covered : Prop := inside v1 v2 p ∧ inside v2 v0 p ∧ inside v0 v1 p
        let depth := gAdd (gAdd z0.toNat (gMul (gQuot (edge v2 v0 p) k.area) dz1.toNat)) (gMul (gQuot (edge v0 v1 p) k.area) dz2.toNat)
        (covered → pushes (.rstep x) [1, BitVec.ofNat 32 depth]) ∧
        (¬ covered → pushes (.rstep x) [0, BitVec.ofNat 32 depth]))) ∧
    -- bxtest and tritest
    (room 1 → ea % 16 = 0 → ea + 64 ≤ 65536 * e.count →
      let r : Ray := { off := ea, raw := bytes ea 64 }
      let p := vb.lo.toNat
      let stat (m : Memory) (v : Nat) : Memory := writeNat m (at_ (ea + 60)) 1 v
      let used : Memory := writeNat s.scratch (at_ (ea + 58)) 2 (r.used + 1)
      r.base % 16 = 0 → r.base + r.len ≤ 65536 * e.count → fieldAt r.raw 61 3 = 0 →
      (r.status ≠ 0 → pushes (.bxtest x) [BitVec.ofNat 32 (r.status % 4 * 2 ^ 28)] ∧
        pushes (.tritest x) [BitVec.ofNat 32 (r.status % 4 * 2 ^ 28)]) ∧
      (r.status = 0 →
        (r.limit ≤ r.used → stores (.bxtest x) [0x20000000] (stat s.scratch 2)) ∧
        (r.used < r.limit → 2 ^ 31 ≤ p ∨ r.len < 16 * p + 128 → stores (.bxtest x) [0x10000000] (stat used 1)) ∧
        (r.used < r.limit → p < 2 ^ 31 → 16 * p + 128 ≤ r.len → ea + 64 ≤ r.base + 16 * p ∨ r.base + 16 * p + 128 ≤ ea →
          let node := bytes (r.base + 16 * p) 128
          let hits := boxHits r node
          (fieldAt node 112 16 ≠ 0 ∨ hits.any (fun h => badChild r (childOf node h.1)) = true →
            stores (.bxtest x) [0x10000000] (stat used 1)) ∧
          (fieldAt node 112 16 = 0 → hits.any (fun h => badChild r (childOf node h.1)) = false →
            stores (.bxtest x) [boxWord hits] used)) ∧
        (p < 2 ^ 31 ∨ r.len < 16 * (p - 2 ^ 31) + 48 → stores (.tritest x) [0x10000000] (stat s.scratch 1)) ∧
        (2 ^ 31 ≤ p → 16 * (p - 2 ^ 31) + 48 ≤ r.len →
          let leaf := bytes (r.base + 16 * (p - 2 ^ 31)) 40
          (triHit r leaf = none → pushes (.tritest x) [0]) ∧
          (∀ d, triHit r leaf = some d → stores (.tritest x) [1]
            (writeNat (writeNat s.scratch (at_ (ea + 40)) 4 d) (at_ (ea + 44)) 4 (fieldAt leaf 36 4)))))) ∧
    -- txf and fgrid
    (FlagRoom f t → x.d.toNat < 32 →
      let late (i : Instr) (lat : Nat) (ws : List Word) : Prop :=
        ∃ s' t' id a, exec i s = .next s' ∧ s'.troupe f.troupe = some t' ∧ (∀ k, k ≠ f.troupe → s'.troupe k = s.troupe k) ∧
          s'.mem = s.mem ∧ s'.scratch = s.scratch ∧ (∀ k, k ≠ n → t'.thread k = t.thread k) ∧
          t'.thread n = th.setQueue x.d.toNat (th.queue x.d.toNat ++ ws.zipIdx.map (fun w =>
            { pos := .timed (id + w.2) (f.issue + n + lat) (.word w.1), fresh := true })) ∧
          (f.issue + n + lat, Instr.resultArrival a) ∈ s'.agenda ∧ a.troupe = f.troupe ∧
          a.fills = ws.zipIdx.map (fun w => { thread := n, queue := x.d.toNat, id := id + w.2, val := .word w.1 })
      (∀ tex ws, room 2 → readTexture s f t = .ok tex → sampleTexture s f t tex va.lo vb.lo = .ok ws → late (.txf x) 20 ws) ∧
      (∀ g ws, room 1 → readGrid s f t = .ok g → sampleGrid s f t g va.lo vb.lo = .ok ws → late (.fgrid x) 24 ws))

/-- R440, R441: `gwrite`, with nothing made before still to perform, pops or peeks its four pixel words and replaces the pixel exactly
when the new depth is a number that is nearer, or equal with a lower PRIM, or the old depth is no number. -/
def Obligations.PixelUpdateKeepsNearest : Prop :=
  ∀ s f t e (x : RegF) n ws vb m th, At s f t → Plain t → Alone f n → s.ens t.ens = some e → s.badScr = [] → Quiet s (unitOf f.troupe) →
    32 ≤ x.d.toNat → x.d.toNat < 48 →
    readFour (f.issue + n) (t.thread n) x.a.toNat (x.ka == 1) = .ok (ws, m) →
    readSrc f (f.issue + n) n m x.b (x.kb == 1) = .ok (vb, th) →
    let ea := (gVal f x.d).toNat + 16 * vb.lo.toNat
    let key := scrKey (unitOf f.troupe) (65536 * e.base + ea)
    let old (k : Nat) : Nat := readNat s.scratch (key + 4 * k) 4
    let new (k : Nat) : Nat := (ws.getD k 0).toNat
    let depth (v : Nat) : FVal := ffDecode f32 v
    let wins : Prop := fvIsNan (depth (new 1)) = false ∧ (fvIsNan (depth (old 1)) = true ∨ fvLt (depth (new 1)) (depth (old 1)) = true ∨
      (fvEq (depth (new 1)) (depth (old 1)) = true ∧ new 0 < old 0))
    ea % 16 = 0 → ea + 16 ≤ 65536 * e.count → ea < 2 ^ 64 →
    ∃ s' t', exec (.gwrite x) s = .next s' ∧ s'.troupe f.troupe = some t' ∧
      (¬ wins → t'.thread n = th) ∧ (wins → t'.thread n = { th with release := none }) ∧
      (∀ k, k ≠ n → t'.thread k = t.thread k) ∧ (∀ k, k ≠ f.troupe → s'.troupe k = s.troupe k) ∧ s'.mem = s.mem ∧ s'.focus = s.focus ∧
      (¬ wins → s'.scratch = s.scratch) ∧
      (wins → s'.scratch = writeNat s.scratch key 16 (new 0 + 2 ^ 32 * new 1 + 2 ^ 64 * new 2 + 2 ^ 96 * new 3))

/-! ## Control registers -/

/-- RP fields read 0 in a context that is not privileged (R403, R426). -/
def Sys2Proof.Claims.asPriv (ctx : Nat) (v : Dword) : Dword := if ctx < 16 then v else 0

/-- The registers that `xrd` reads, with the values that they have for a troupe at a focus. -/
def Sys2Proof.Claims.ctlTable (s : State) (f : Focus) (t : Troupe) : List (Nat × Dword) :=
  let l := f.latch
  let c := s.ctx t.ctx
  let rp := asPriv t.ctx
  [(0x00, BitVec.ofNat 64 ((if l.ctx < 16 then 2 ^ 31 else 0) + (if l.handler then 2 ^ 30 else 0) + l.slotResume.toNat * 2 ^ 16 +
      l.fpEnable.toNat * 2 ^ 11 + l.fpFlags.toNat * 2 ^ 6 + l.sat.toNat * 2 ^ 5)),
    (0x01, l.causeReg.setWidth 64), (0x02, BitVec.ofNat 64 (l.epc % 2 ^ 56)), (0x03, l.eslot.setWidth 64), (0x04, l.eaddr),
    (0x05, BitVec.ofNat 64 (l.redoPass.toNat * 2 ^ 16 + l.redo.toNat)), (0x10, (s.core (coreOf f.troupe)).fmtAt f.issue),
    (0x11, l.scopesel.setWidth 64), (0x20, BitVec.ofNat 64 f.issue), (0x32, BitVec.ofNat 64 t.comp), (0x50, rp c.ctxcfg),
    (0x51, rp c.ptroot), (0x52, rp c.pfring), (0x53, rp (c.pfhead.setWidth 64)), (0x54, c.pftail.setWidth 64), (0x55, rp c.swparea),
    (0x56, rp c.osspill), (0x60, rp c.trapvec)]

/-- R6, R138 to R140, R235, R246, R251, R254, R326, R402, R408, R426: a bundle with an `xrd` keeps the register's value as it stands when
the bundle issues, and `xrd` writes the value that its bundle kept, or else the present one, to D; `xwr` writes the fields that
software may write, leaves a read-only register as it is, raises PRIV on an RP field in a context that is not privileged, and FORMAT
on an illegal `fmt`, whose legal value takes effect four cycles after issue. -/
def Obligations.ControlRegistersReadAndWrite : Prop :=
  (∀ s f t (x : XrdF) v, At s f t → f.run ≠ 0 → HasRoom f x.d 1 t.thread →
    (64 * x.hi.toNat + x.lo.toNat, v) ∈ ctlTable s f t → Writes (.xrd x) s f t x.d t.thread (fun _ => f.ctl.getD v)) ∧
  (∀ s f l n k w v, s.focus = some f → scanBundle (wordAt s f.troupe f.latch f.base) 8 0 = some (l, n) →
    l.find? (fun p => classOf p.2 == 29 && fnOf p.2 == 4) = some (k, w) → (bitsAt w 8 12, v) ∈ ctlTable s f f.latch →
    (latchControl s).focus = some { f with ctl := some v }) ∧
  (∀ s f t (x : XwrF), At s f t → f.run ≠ 0 → PlainTrap f t → UName x.d →
    let n := 64 * x.hi.toNat + x.lo.toNat
    let v := gVal f x.d
    let core := s.core (coreOf f.troupe)
    let sets (c' : Ctx) : Prop := ∃ s', exec (.xwr x) s = .next s' ∧ s'.ctx t.ctx = c' ∧ (∀ k, k ≠ t.ctx → s'.ctx k = s.ctx k) ∧
      s'.troupes = s.troupes ∧ s'.mem = s.mem ∧ s'.focus = s.focus
    let c := s.ctx t.ctx
    let clamp : Word := if v.setWidth 32 ≠ c.pftail ∧ (v.setWidth 32 - c.pftail).toNat < 2 ^ 31 then c.pftail else v.setWidth 32
    (n ∈ [0x01, 0x02, 0x03, 0x04, 0x05, 0x20, 0x21, 0x30, 0x31, 0x32, 0x33, 0x34, 0x35, 0x41, 0x54] → exec (.xwr x) s = .next s) ∧
    (n = 0x00 → ∃ s', exec (.xwr x) s = .next s' ∧ OnlyTroupe s s' f.troupe
      { t with fpEnable := v.extractLsb' 11 5, fpFlags := v.extractLsb' 6 5, sat := v.extractLsb' 5 1 }) ∧
    (n = 0x11 → ∃ s', exec (.xwr x) s = .next s' ∧ OnlyTroupe s s' f.troupe { t with scopesel := v.setWidth 5 }) ∧
    (n = 0x10 →
      let p := v.toNat % 32
      let legal : Prop := 2 ≤ p ∧ p ≤ 17 ∧ v.toNat / 2 ^ 8 % 8 < 6 ∧ v.toNat / 2 ^ 12 % 8 < 6
      (legal → ∃ s' q, exec (.xwr x) s = .next s' ∧ s'.troupes = s.troupes ∧ s'.mem = s.mem ∧
        (s'.core (coreOf f.troupe)).fmtNext = q ++ [(f.issue + 4, v &&& 0xC771F)] ∧
        (s'.core (coreOf f.troupe)).fmt = core.fmtAt f.issue ∧ ∀ y, y ∈ q → y ∈ core.fmtNext) ∧
      (¬ legal → Traps (.xwr x) s f t 0x16 0 none f.run)) ∧
    (t.ctx < 16 →
      (n = 0x50 → sets { c with ctxcfg := v &&& 0xFFFFFFFF01 }) ∧ (n = 0x51 → sets { c with ptroot := v &&& 0xFFFFFFFFFFF001 }) ∧
      (n = 0x52 → c.pfheld = [] → c.pftail = c.pfhead → sets { c with pfring := v &&& 0xFFFFFFFFFFF00F }) ∧
      (n = 0x52 → c.pftail ≠ c.pfhead → exec (.xwr x) s = .next s) ∧
      (n = 0x53 → c.pfheld = [] → sets { c with pfhead := clamp }) ∧
      (n = 0x55 → sets { c with swparea := v &&& 0xFFFFFFFFFFFFFF }) ∧
      (n = 0x56 → (∀ e, e ∈ s.sections → e.ctx = t.ctx → e.spilled = none) → sets { c with osspill := v &&& 0xFFFFFFFFFFF00F }) ∧
      (n = 0x57 → sets { c with osquota := v.extractLsb' 32 32 }) ∧ (n = 0x40 → sets { c with pinQuota := v.extractLsb' 32 32 }) ∧
      (n = 0x60 → sets { c with trapvec := v &&& 0xFFFFFFFFFFFFFF })) ∧
    (16 ≤ t.ctx → n ∈ [0x40, 0x50, 0x51, 0x52, 0x53, 0x55, 0x56, 0x57, 0x60] → Traps (.xwr x) s f t 0x03 0 none f.run)) ∧
  (∀ s ctx v, (s.ctx ctx).pfheld = [] →
    ((s.ctx ctx).pftail = (s.ctx ctx).pfhead →
      ∃ s', exec (.pfringWrite ctx v) s = .next s' ∧ s'.ctx ctx = { s.ctx ctx with pfring := v &&& 0xFFFFFFFFFFF00F } ∧ s'.mem = s.mem ∧
        s'.troupes = s.troupes) ∧
    (∀ d, d = v.setWidth 32 - (s.ctx ctx).pftail → d ≠ 0 → d.toNat < 2 ^ 31 →
      ∃ s', exec (.pfheadWrite ctx v) s = .next s' ∧ s'.ctx ctx = { s.ctx ctx with pfhead := (s.ctx ctx).pftail } ∧ s'.mem = s.mem)) ∧
  (∀ s ctx e w v, 5 ≤ e → e < 32 → w < 18 →
    ∃ s', exec (.scopeTableWrite ctx e w v) s = .next s' ∧ s'.ctx ctx = { s.ctx ctx with scopes := kset (s.ctx ctx).scopes (32 * e + w) v } ∧
      s'.troupes = s.troupes ∧ s'.mem = s.mem)

/-! ## Traps, handlers and halts -/

/-- The only unresolved origin with this identifier is `o`, the one origin of troupe `tk`, which stands as `t`. -/
def Sys2Proof.Claims.OneOrigin (s : State) (tk : Nat) (t : Troupe) (o : Origin) : Prop :=
  s.troupe tk = some t ∧ t.origins = [o] ∧ o.res = none ∧ t.handler = false ∧ s.saved = [] ∧
  (∀ p, p ∈ s.troupes → (∃ x, x ∈ p.2.origins ∧ x.id = o.id) → p = (tk, t))

/-- R405, R407 to R411, R413 to R415, R421, R426: `trap` raises SOFTWARE with nothing committed; `halt` and `brk` commit and halt, or raise
PRIV or BREAK; `eret` and `resolve` settle origins in a handler troupe and raise PRIV in any other; an asynchronous trap is
raised before a bundle, the oldest first, unless the troupe consumes a sketch, which it awaits first (R377); origins reach the
collector, or are killed without a handler; a handler slot launches its troupe. -/
def Obligations.TrapsReachHandlersAndReturn : Prop :=
  (∀ s f t (x : TrapF) va th, At s f t → PlainTrap f t → f.run ≠ 0 → Reads1 f t x.a x.ka va th →
    Traps (.trap x) s f t 0x0E x.code.toNat (some (va (leaderOf f.run)).val) f.run) ∧
  (∀ s f t (x : StopF) (r : ResolveF), At s f t → f.run ≠ 0 → PlainTrap f t →
    let halts (i : Instr) : Prop := ∃ s' t', exec i s = .next s' ∧ s'.focus = none ∧ s'.troupe f.troupe = some t' ∧
      t'.halt = .halted ∧ t'.slotResume = 8 ∧ t'.split = none ∧ t'.g = t.g ∧ t'.active = t.active ∧ t'.maskStack = t.maskStack ∧
      t'.retStack = t.retStack ∧ (∀ a, f.target = some a → t'.pc = a) ∧
      (∀ k, k ≠ f.troupe → s'.troupe k = s.troupe k) ∧ s'.mem = s.mem ∧ s'.scratch = s.scratch
    (t.ctx < 16 → halts (.halt x)) ∧
    (16 ≤ t.ctx → Traps (.halt x) s f t 0x03 1 none f.run) ∧
    (s.dbg.en = true → s.dbg.ctx = t.ctx → halts (.brk x)) ∧
    (s.dbg.en = false → Traps (.brk x) s f t 0x0F 0 none f.run) ∧
    Traps (.eret x) s f t 0x03 1 none f.run ∧ Traps (.resolve r) s f t 0x03 1 none f.run) ∧
  (∀ s f t k tk u o, At s f t → f.run ≠ 0 → t.handler = true → t.spec.sketches = [] → t.tickets = [k] → tk ≠ f.troupe →
    OneOrigin s tk u o → k.id = o.id → (∀ p, p ∈ t.origins → p.id ≠ o.id) →
    let gone (s' : State) : Prop := s'.troupe f.troupe = none ∧ s'.focus = none ∧ s'.mem = s.mem
    (∀ x : StopF, ∃ s', exec (.eret x) s = .next s' ∧ gone s' ∧
      s'.troupe tk = some { u with origins := [{ o with res := some .retry }] }) ∧
    (∀ (x : ResolveF) n va vb m th, Alone f n → readSrc f (f.issue + n) n (t.thread n) x.a (x.ka == 1) = .ok (va, m) →
      readSrc f (f.issue + n) n m x.b (x.kb == 1) = .ok (vb, th) → va.lo = k.tag →
      (x.how = 1 → ∃ s', exec (.resolve x) s = .next s' ∧ gone s' ∧
        s'.troupe tk = some { u with origins := [{ o with res := some .retry }] }) ∧
      (x.how = 2 → u.active &&& ~~~(BitVec.ofNat 16 (2 ^ o.thread)) ≠ 0 → ∃ s' u', exec (.resolve x) s = .next s' ∧ gone s' ∧
        s'.troupe tk = some u' ∧ u'.active = u.active &&& ~~~(BitVec.ofNat 16 (2 ^ o.thread)) ∧
        (∀ c, s.comp u.comp = some c → ∃ c', s'.comp u.comp = some c' ∧
          c'.firstCause = (if c.firstCause = none then some o.cause else c.firstCause)) ∧ (o.thread < u.threads.length → (u'.thread o.thread).qs = []) ∧
        (∀ j, j ≠ o.thread → u'.thread j = u.thread j)) ∧
      (∀ w th' g, x.how = 0 → o.async = false → wordAt s tk u u.pc o.slot = some w → uniformWord w = false → s.focus = some f →
        supplyThread s.now w vb.lo (u.thread o.thread) = some (th', g) → o.thread < u.threads.length →
        ∃ s' u', exec (.resolve x) s = .next s' ∧ gone s' ∧ s'.troupe tk = some u' ∧ u'.thread o.thread = th' ∧
          (∀ j, j ≠ o.thread → u'.thread j = u.thread j) ∧ u'.active = u.active ∧
          u'.origins = [{ o with res := some .done }] ∧
          u'.g = (match g with
            | some (i, y) => if (List.range 16).any (fun j => decide (o.thread < j) && u.active.getLsbD j &&
                (match u.split with | some sp => sp.pass.getLsbD j | none => false)) then u.g else kset u.g i y
            | none => u.g)))) ∧
  (∀ s tk t, s.troupe tk = some t → t.handler = false → t.split = none → t.active ≠ 0 →
    let raises (cause : Nat) (value : Option Dword) (redo : BitVec 16) (late : List Late) (async : List Origin) : Prop :=
      ∃ s' t', exec (.asynchronousTrap tk) s = .next s' ∧ s'.troupe tk = some t' ∧ t'.causeReg.toNat = cause ∧ t'.late = late ∧
        t'.async = async ∧ t'.epc = t.pc ∧ t'.eslot = 0 ∧ t'.slotResume = 0 ∧ t'.redo = redo ∧ t'.redoPass = t.active ∧
        (∀ v, value = some v → t'.eaddr = v) ∧ t'.pc = t.pc ∧ t'.threads = t.threads ∧
        t'.origins.map (fun o => o.thread) = threadsOf redo ∧ (∀ k, k ≠ tk → s'.troupe k = s.troupe k) ∧ s'.mem = s.mem
    (∀ l rest, t.spec.sketches = [] → t.late = l :: rest → (∀ o, o ∈ t.async → l.id < o.id) → l.engine < 256 →
      raises (256 * l.engine + 0x10) (some (BitVec.ofNat 64 (l.promise % 2 ^ 32))) t.active rest t.async) ∧
    (∀ o rest, t.spec.sketches = [] → t.async = o :: rest → (∀ l, l ∈ t.late → o.id ≤ l.id) → o.cause < 256 → o.detail < 256 →
      t.active.getLsbD o.thread = true → o.thread < 16 →
      raises (256 * o.detail + o.cause) (some o.value) (BitVec.ofNat 16 (2 ^ o.thread)) t.late rest) ∧
    (t.spec.sketches ≠ [] → t.late ≠ [] ∨ t.async ≠ [] → ∃ s' t', exec (.asynchronousTrap tk) s = .next s' ∧ s'.troupe tk = some t' ∧
      t'.wait = some .commit ∧ t'.late = t.late ∧ t'.async = t.async ∧ t'.causeReg = t.causeReg ∧ t'.origins = t.origins ∧
      (∀ k, k ≠ tk → s'.troupe k = s.troupe k) ∧ s'.mem = s.mem)) ∧
  (∀ s tk t o, s.troupe tk = some t → t.origins = [o] → o.arrived = false → o.res = none → o.thread < 16 →
    let v := (s.ctx t.ctx).trapvec
    let core := coreOf tk
    (v.toNat / 2 ^ 12 % 2 ^ 44 ≠ 0 → ∃ s' k, exec (.originArrival tk) s = .next s' ∧
      (s'.core core).collector = (s.core core).collector ++ [k] ∧ k.id = o.id ∧ k.ctx = t.ctx ∧ k.cause = o.cause ∧ k.detail = o.detail ∧
      k.value = o.value ∧ k.slot = (if o.async then 0 else o.slot) ∧ k.arrived = s.now ∧
      k.tag = BitVec.ofNat 32 ((t.pc - t.text) / 4096 % 16 * 2 ^ 28 + (t.pc - t.text) % 4096 * 2 ^ 16 + s.genOf tk % 16 * 2 ^ 12 +
        o.thread * 2 ^ 8 + slotOf tk % 32 * 2 ^ 3) ∧
      s'.troupe tk = some { t with origins := [{ o with arrived := true }] } ∧ s'.mem = s.mem) ∧
    (v.toNat / 2 ^ 12 % 2 ^ 44 = 0 → OneOrigin s tk t o → t.active &&& ~~~(BitVec.ofNat 16 (2 ^ o.thread)) ≠ 0 →
      ∃ s' t', exec (.originArrival tk) s = .next s' ∧ s'.troupe tk = some t' ∧
        t'.active = t.active &&& ~~~(BitVec.ofNat 16 (2 ^ o.thread)) ∧ s'.mem = s.mem)) ∧
  (∀ s core ks k0 rest, s.troupe (64 * core + 32) = none → s.troupe (64 * core + 33) = none → (s.core core).hslots = [] →
    (s.core core).collector = ks → ks = k0 :: rest → ks.length ≤ 16 →
    let v := (s.ctx k0.ctx).trapvec
    let tk := 64 * core + 32
    (ks.length < 16 → s.now < k0.arrived + 3600 → ∃ s', exec (.handlerLaunch core) s = .next s' ∧ s'.troupes = s.troupes ∧
      (s'.core core).collector = [] ∧ kfind (s'.core core).hslots 32 = some ks) ∧
    (ks.length = 16 ∨ k0.arrived + 3600 ≤ s.now → ∃ s' t, exec (.handlerLaunch core) s = .next s' ∧ s'.troupe tk = some t ∧
      (s'.core core).collector = [] ∧ t.handler = true ∧ t.ctx = k0.ctx ∧ t.tickets = ks ∧ t.fpEnable = 0 ∧ t.readyAt = s.now + 1 ∧
      t.text = v.toNat / 2 ^ 12 % 2 ^ 44 * 4096 ∧ t.segs = v.toNat / 2 ^ 8 % 16 + 1 ∧ t.pc = t.text + 16 * (v.toNat % 256) ∧
      t.active.toNat = 2 ^ ks.length - 1 ∧ t.g = [] ∧ s'.mem = s.mem ∧
      ∀ i k, ks[i]? = some k →
        let e (w : Word) : List Entry := [{ pos := .filled w false, fresh := false }]
        (t.thread i).queue 0 = e k.tag ∧ (t.thread i).queue 1 = e (BitVec.ofNat 32 (256 * k.detail + k.cause)) ∧
        (t.thread i).queue 2 = e (k.value.setWidth 32) ++ e (BitVec.ofNat 32 (k.value.toNat / 2 ^ 32)) ∧
        (t.thread i).queue 3 = e (BitVec.ofNat 32 k.slot) ∧ (∀ q, 4 ≤ q → (t.thread i).queue q = []) ∧ (t.thread i).preds = 0))

/-! ## Caches and translation buffers -/

/-- The troupe stands at a MEMC or `tlbinv` slot that has not acted; no access of the unit and no transfer is on its way. -/
structure Sys2Proof.Claims.CacheReady (s : State) (f : Focus) (t : Troupe) : Prop where
  at_ : At s f t
  runs : f.run ≠ 0
  plain : PlainTrap f t
  fresh : f.acted = false
  quiet : Quiet s (unitOf f.troupe)
  noCopies : ∀ p, p ∈ s.agenda → ∀ c, p.2 ≠ Instr.copyPerform c

/-- The slot has acted and holds its bundle for its answer, with v in D; no memory, no scratch and no other troupe differs (R275). -/
def Sys2Proof.Claims.AnswersG (i : Instr) (s : State) (f : Focus) (t : Troupe) (d : BitVec 6) (v : Nat) (s' : State) : Prop :=
  exec i s = .next s' ∧ s'.focus = none ∧
  ∃ c, Stands s s' f { t with g := gSet t d (BitVec.ofNat 64 v), wait := some (.until c), readyAt := max t.readyAt (f.issue + 16) }

/-- The one entry of the core's L1 TLB maps address a of the troupe's context for loads and stores (R236, R238). -/
def Sys2Proof.Claims.Mapped (s : State) (f : Focus) (t : Troupe) (a : Dword) (e : Tlb) : Prop :=
  (s.core (coreOf f.troupe)).tlb = [e] ∧ (s.ctx t.ctx).ptroot.getLsbD 0 = true ∧ a.toNat < 2 ^ 56 ∧ e.ctx = t.ctx ∧ e.base ≤ a.toNat ∧
  a.toNat < e.base + e.span ∧ e.r = true ∧ e.w = true ∧ e.priv = false ∧ (s.key e.key).loaded = true

/-- An entry's page holds a line. -/
def Sys2Proof.Claims.holdsLine (e : Tlb) (line : Nat) : Prop := e.pa ≤ 128 * line ∧ 128 * line < e.pa + e.span

/-- The TLB entries that a `tlbinv` of a kind drops (R260). -/
def Sys2Proof.Claims.drops (kind ctx a : Nat) (e : Tlb) : Bool :=
  if kind = 0 then e.ctx == ctx && decide (e.base ≤ a) && decide (a < e.base + e.span) else if kind = 1 then e.ctx == ctx else true

/-- R260, R264 to R275: `pin` and `unpin` of one line reserve and release a way within the quota; `pfch` changes no memory; `flush` leaves no
dirty line of its page; `inval` drops the unit's copies of its page; `evload` loads or removes a schedule and raises PRIV in a
context that is not privileged; `pgmode` drops replicas, or reads and clears a count; a bad field gives STATUS 5 and an absent page 3,
with no pin changed. `tlbinv` drops the entries of its kind in its scope, or wakes the parked troupes of its region, and then holds
its bundle; when it goes on it gives 0.
What a cache holds is the model's (log 35). -/
def Obligations.CacheSlotsActOnLinesAndPages : Prop :=
  (∀ s f t (x : DabF), CacheReady s f t → UName x.a → UName x.b →
    let a := gVal f x.a
    let b := gVal f x.b
    let u := unitOf f.troupe
    let len := b.toNat % 2 ^ 32
    let legal : Prop := b.toNat / 2 ^ 33 = 0 ∧ 1 ≤ len ∧ len ≤ 2 ^ 24
    let l1 (s : State) : Cache := (s.tile u).l1
    let same (s' : State) : Prop := (∀ k, (s'.tile k).l1.pins = (s.tile k).l1.pins) ∧ s'.slices = s.slices
    let pins (s' : State) : Prop := (∀ k, (s'.tile k).l1.pins = (s.tile k).l1.pins) ∧ ∀ k, (s'.slice k).pins = (s.slice k).pins
    (¬ legal →
      (∃ s', AnswersG (.pin x) s f t x.d 5 s' ∧ same s') ∧ (∃ s', AnswersG (.unpin x) s f t x.d 5 s' ∧ same s') ∧
      (∃ s', exec (.pfch x) s = .next s' ∧ OnlyTroupe s s' f.troupe { t with g := gSet t x.d 5 })) ∧
    (legal → (∃ lv s₁, translateEa s (coreOf f.troupe) t.ctx a .read = (.absent lv, s₁)) → a.toNat < 2 ^ 56 →
      (∃ s', AnswersG (.pin x) s f t x.d 3 s' ∧ pins s') ∧ (∃ s', AnswersG (.unpin x) s f t x.d 3 s' ∧ pins s')) ∧
    (∀ e line, b.toNat / 2 ^ 32 = 0 → 1 ≤ len → Mapped s f t a e → e.span % 4096 = 0 → e.base % 4096 = 0 → e.pa % 4096 = 0 →
      line = (e.pa + (a.toNat - e.base)) / 128 → e.base % e.span = 0 → a.toNat % 128 + len ≤ 128 →
      let held (p : Pin) : Prop := p.ctx = t.ctx ∧ p.line = line
      ((∀ p, p ∈ (l1 s).pins → ¬ held p) → (s.ctx t.ctx).pinQuota.toNat ≤ pinsHeld s t.ctx →
        ∃ s', AnswersG (.pin x) s f t x.d 1 s' ∧ same s') ∧
      ((l1 s).pins = [] → (l1 s).sched = none → pinsHeld s t.ctx < (s.ctx t.ctx).pinQuota.toNat →
        ∃ s' p, AnswersG (.pin x) s f t x.d 0 s' ∧ (l1 s').pins = [p] ∧ held p) ∧
      (∀ p, (l1 s).pins = [p] → held p →
        (∃ s', AnswersG (.pin x) s f t x.d 0 s' ∧ (l1 s').pins = [p]) ∧
        (∃ s', AnswersG (.unpin x) s f t x.d 256 s' ∧ (l1 s').pins = [])) ∧
      ((∀ p, p ∈ (l1 s).pins → ¬ held p) → ∃ s', AnswersG (.unpin x) s f t x.d 0 s' ∧ same s') ∧
      (∃ s', exec (.pfch x) s = .next s' ∧ s'.focus = s.focus ∧ Stands s s' f { t with g := gSet t x.d 0 } ∧
        ∀ k, (s'.tile k).l1.pins = (s.tile k).l1.pins)) ∧
    (3 ≤ b.toNat → ∃ s', AnswersG (.pgmode x) s f t x.d 5 s' ∧ s'.replicas = s.replicas ∧ s'.remote = s.remote) ∧
    (∀ e, Mapped s f t a e → e.base % e.span = 0 →
      let pa := e.pa + (a.toNat - e.base)
      (b = 0 → ∃ s', AnswersG (.pgmode x) s f t x.d 0 s' ∧ s'.remote = s.remote ∧
        ∀ k, k ∈ s'.replicas ↔ k ∈ s.replicas ∧ ¬ holdsLine e (k / 2)) ∧
      (b = 1 → ∃ s', AnswersG (.pgmode x) s f t x.d (256 * remoteCount s pa) s' ∧ s'.remote = s.remote ∧ s'.replicas = s.replicas) ∧
      (b = 2 → ∃ s', AnswersG (.pgmode x) s f t x.d (256 * remoteCount s pa) s' ∧ remoteCount s' pa = 0 ∧ s'.replicas = s.replicas)) ∧
    (16 ≤ t.ctx → Traps (.evload x) s f t 0x03 1 none f.run) ∧
    (t.ctx < 16 →
      let ways := b.toNat / 2 ^ 8 % 2 ^ 16
      let bad : Prop := b.toNat / 2 ^ 2 % 2 ^ 6 ≠ 0 ∨ b.toNat / 2 ^ 24 ≠ 0 ∨ 2 ≤ b.toNat % 4 ∨ (b.toNat % 4 = 0 ∧ 256 ≤ ways) ∨ a.toNat % 16 ≠ 0 ∨ 2 ^ 56 ≤ a.toNat
      (bad → ∃ s', AnswersG (.evload x) s f t x.d 5 s' ∧ s'.slices = s.slices ∧ l1 s' = l1 s) ∧
      (¬ bad → b.toNat % 4 = 0 → ways = 0 → ∃ s', AnswersG (.evload x) s f t x.d 0 s' ∧ l1 s' = { l1 s with sched := none }) ∧
      (∀ rs n, ¬ bad → b.toNat % 4 = 0 → ways ≠ 0 → n = min (physNat s 0 a.toNat 2) 256 → memFault s a.toNat (16 * (n + 1)) = none →
        scheduleOf (physList s 0 a.toNat (16 * (n + 1))) = some rs →
        ∃ s', AnswersG (.evload x) s f t x.d 0 s' ∧ l1 s' = { l1 s with sched := some (b.extractLsb' 8 16, rs) })) ∧
    (16 ≤ t.ctx → Traps (.tlbinv x) s f t 0x03 1 none f.run) ∧
    (t.ctx < 16 →
      let kind := b.toNat / 2 ^ 12 % 4
      let scope := b.toNat / 2 ^ 14 % 4
      let ctx := b.toNat % 2 ^ 12
      let inside (k : Nat) : Bool := inScope u scope k
      let bad : Prop := b.toNat / 2 ^ 18 ≠ 0 ∨ scope = 3 ∨ ((kind = 0 ∨ kind = 3) ∧ 2 ^ 56 ≤ a.toNat)
      (bad → ∃ s', exec (.tlbinv x) s = .next s' ∧ OnlyTroupe s s' f.troupe { t with g := gSet t x.d 2 }) ∧
      let holds (s' : State) : Prop := exec (.tlbinv x) s = .next s' ∧ s'.focus = none ∧ s'.mem = s.mem ∧ s'.scratch = s.scratch ∧
        ∃ n cs, s'.troupe f.troupe = some { t with wait := some (.dropped u scope n cs), readyAt := max t.readyAt (f.issue + 16) }
      (¬ bad → kind < 3 → (∀ p, p ∈ s.units → p.2.partials = []) → ∃ s', holds s' ∧ (∀ k, k ≠ f.troupe → s'.troupe k = s.troupe k) ∧
        (∀ k, (s'.tile k).tlb = if inside k then (s.tile k).tlb.filter (fun e => !drops kind ctx a.toNat e) else (s.tile k).tlb) ∧
        (∀ k, (s'.core k).tlb = if inside (k / 4) then (s.core k).tlb.filter (fun e => !drops kind ctx a.toNat e) else (s.core k).tlb)) ∧
      (¬ bad → kind = 3 → t.replay = [] →
        let span := if b.toNat / 2 ^ 16 % 4 = 0 then 2 ^ 12 else if b.toNat / 2 ^ 16 % 4 = 1 then 2 ^ 16 else if b.toNat / 2 ^ 16 % 4 = 2 then 2 ^ 21 else 2 ^ 29
        ∃ s', holds s' ∧ (∀ k, (s'.tile k).tlb = (s.tile k).tlb) ∧
          ∀ k, k ≠ f.troupe → s'.troupe k = (s.troupe k).map (fun v => match v.replay with
            | r :: _ => if inside (unitOf k) = true ∧ v.ctx = ctx ∧ v.parkedAt.isSome = true ∧ (actEa r.act).toNat / span = a.toNat / span
                then { v with woken := true } else v
            | [] => v)))) ∧
  (∀ s f t (x : DabF), At s f t → f.run ≠ 0 → Plain t → f.acted = true →
    ∃ s', exec (.tlbinv x) s = .next s' ∧ OnlyTroupe s s' f.troupe { t with g := gSet t x.d 0 }) ∧
  (∀ s f t (x : DaF) e, CacheReady s f t → UName x.a → Mapped s f t (gVal f x.a) e → e.base % e.span = 0 →
    let u := unitOf f.troupe
    (∃ s', AnswersG (.inval x) s f t x.d 0 s' ∧ s'.slices = s.slices ∧ (s'.tile u).l1.pins = (s.tile u).l1.pins ∧
      ∀ w, w ∈ (s'.tile u).l1.ways ↔ w ∈ (s.tile u).l1.ways ∧ ¬ holdsLine e w.line) ∧
    (∃ s', AnswersG (.flush x) s f t x.d 0 s' ∧
      ∀ k w, w ∈ (s'.slice k).ways → holdsLine e w.line → w.dirty = false))

/-! ## Issue, waits, results and windows -/

/-- Nothing keeps a troupe from its next bundle: no pending asynchronous trap, none to settle, no queue entry that a debugger has
written, and its program counter in a segment that the one frame of its core holds. -/
structure Sys2Proof.Claims.MayFetch (s : State) (tk : Nat) (t : Troupe) : Prop where
  troupe : s.troupe tk = some t
  plain : Plain t
  sync : t.late = [] ∧ t.async = [] ∧ t.surfaced = false
  unedited : ∀ th, th ∈ t.threads → ∀ q, q ∈ th.qs → ∀ e, e ∈ q.2 → e.edited = false
  inside : t.fell = false ∧ inKernel t t.pc = true
  frame : ∃ r, (s.core (coreOf tk)).frames = [r] ∧ r.ctx = t.ctx ∧ r.text = t.text ∧ r.seg = (t.pc - t.text) / 4096 ∧ r.bad = false

/-- R36, R38, R39, R48, R68, R69, R92, R97, R104, R392, R406: a troupe issues its next bundle at slot 0 with its active threads, or
re-enters its split at its slot with the predicates and the `scopesel` of its first issue (R156, R290); an illegal bundle and a program counter outside the kernel trap at the issue with nothing
committed; a wait ends when its condition holds and not before; a result fills its reserved position once and ends its part
of the operation, and one of another generation changes nothing. -/
def Obligations.BundlesIssueAndResultsArrive : Prop :=
  (∀ s tk t, MayFetch s tk t →
    let w := wordAt s tk t t.pc
    let issued : Troupe := { resumeTagged s.now t with lastIssue := s.now, readyAt := s.now + 16, lane := s.now % 16, origins := [] }
    (legalBundle w = true → t.split = none → ∃ s' f, exec (.bundleReentry tk) s = .next s' ∧ s'.focus = some f ∧
      f.troupe = tk ∧ f.k = 0 ∧ f.base = t.pc ∧ f.issue = s.now ∧ f.pass = t.active ∧ f.run = t.active ∧ f.resuming = false ∧
      f.latch = issued ∧ s'.troupe tk = some issued ∧ (∀ k, k ≠ tk → s'.troupe k = s.troupe k) ∧ s'.mem = s.mem ∧
      s'.scratch = s.scratch) ∧
    (∀ p, legalBundle w = true → t.split = some p → t.origins = [] → ∃ s' f, exec (.bundleReentry tk) s = .next s' ∧
      s'.focus = some f ∧ f.troupe = tk ∧ f.k = p.slot ∧ f.base = t.pc ∧ f.pass = p.pass &&& t.active ∧ f.op = p.op ∧
      f.run = (if p.redo = 0 then p.pass &&& t.active else p.redo &&& t.active) ∧
      (∀ i, i < 16 → i < p.preds.length → some (f.latch.thread i).preds = p.preds[i]?) ∧ f.latch.scopesel = p.scopesel ∧
      s'.troupe tk = some { issued with split := none } ∧ (∀ k, k ≠ tk → s'.troupe k = s.troupe k) ∧ s'.mem = s.mem) ∧
    (legalBundle w = false → guardOf s tk t = none → t.active ≠ 0 → ∃ s' t', exec (.bundleReentry tk) s = .next s' ∧
      s'.focus = none ∧ s'.troupe tk = some t' ∧ t'.causeReg.toNat = 2 ∧ t'.epc = t.pc ∧ t'.eslot = 0 ∧ t'.slotResume = 0 ∧
      t'.redo = t.active ∧ t'.pc = t.pc ∧ t'.g = t.g ∧ t'.clause = t.clause ∧ t'.active = t.active ∧
      (∀ i, (t'.thread i).preds = (t.thread i).preds) ∧ s'.mem = s.mem ∧ s'.scratch = s.scratch)) ∧
  (∀ s tk t, s.troupe tk = some t → Plain t → t.late = [] → t.async = [] → inKernel t t.pc = false → t.active ≠ 0 →
    ∃ s' t', exec (.bundleReentry tk) s = .next s' ∧ s'.troupe tk = some t' ∧ t'.causeReg.toNat = 0x709 ∧
      t'.eaddr = BitVec.ofNat 64 t.pc ∧ t'.slotResume = 0 ∧ t'.redo = t.active ∧ t'.pc = t.pc ∧ t'.g = t.g ∧
      s'.mem = s.mem ∧ s'.scratch = s.scratch) ∧
  (∀ s tk t, s.troupe tk = some t → t.halt ≠ .halted → t.stopped = false → unitServes s (unitOf tk) t.ctx = true →
    (∀ m, t.wait = some (.header m) → kfind s.holds tk = none →
      ((∃ o, o ∈ t.outs ∧ o.flag < 12 ∧ m.getLsbD o.flag = true) → exec (.waitEnd tk) s = .next s) ∧
      ((∀ o, o ∈ t.outs → o.flag < 12 → m.getLsbD o.flag = false) →
        ∃ s', exec (.waitEnd tk) s = .next s' ∧ OnlyTroupe s s' tk { t with wait := none })) ∧
    (∀ f c, t.wait = some (.until c) → kfind s.holds tk = some { focus := f, wait := .until c } →
      (s.now < c → exec (.waitEnd tk) s = .next s) ∧
      (c ≤ s.now → ∃ s', exec (.waitEnd tk) s = .next s' ∧ s'.focus = some { f with resuming := true } ∧
        s'.troupe tk = some { t with wait := none } ∧ (∀ k, k ≠ tk → s'.troupe k = s.troupe k) ∧ kfind s'.holds tk = none ∧
        s'.mem = s.mem ∧ s'.scratch = s.scratch))) ∧
  (∀ s (a : Arrival), s.genOf a.troupe ≠ a.gen → exec (.resultArrival a) s = .next s) ∧
  (∀ s (a : Arrival) t i q id, s.genOf a.troupe = a.gen → s.troupe a.troupe = some t → t.drains = false → a.gdst = none →
    a.replayed = false → a.last = true → i < t.threads.length → t.outs = [{ op := a.op, flag := 0, pend := 1 }] →
    let lands (p : Pos) : Prop := ∃ s' t', exec (.resultArrival a) s = .next s' ∧ s'.troupe a.troupe = some t' ∧ t'.outs = [] ∧
      t'.fpFlags = t.fpFlags ||| a.fp ∧ t'.g = t.g ∧
      (t'.thread i).queue q = ((t.thread i).queue q).map (fun e => if e.pos = .reserved id then { e with pos := p } else e) ∧
      (∀ j r, j ≠ i ∨ r ≠ q → (t'.thread j).queue r = (t.thread j).queue r) ∧ (∀ k, k ≠ a.troupe → s'.troupe k = s.troupe k) ∧
      s'.mem = s.mem ∧ s'.scratch = s.scratch
    (∀ e, e ∈ (t.thread i).queue q → ∀ c v, e.pos ≠ .timed id c v ∧ e.pos ≠ .coming id c v) →
    (∀ v, a.fills = [{ thread := i, queue := q, id := id, val := .word v }] → lands (.filled v false)) ∧
    (∀ c ea, a.fills = [{ thread := i, queue := q, id := id, val := .error c ea }] → lands (.mark c ea)))

/-- The queue window address names queue q of thread i of the troupe, which is open to the context, on a unit whose partition runs
that context (R21, R116, R117). -/
def Sys2Proof.Claims.Names (s : State) (ctx a tk i q : Nat) (t : Troupe) : Prop :=
  a < 2 ^ 36 ∧ a / 2 ^ 18 % 512 < 300 ∧ a / 2 ^ 28 % 256 = s.mgmt.deviceNo.toNat ∧ unitServes s (a / 2 ^ 18 % 512) ctx = true ∧
  tk = 64 * (4 * (a / 2 ^ 18 % 512) + a / 2 ^ 16 % 4) + a / 2 ^ 11 % 32 ∧ i = a / 2 ^ 7 % 16 ∧ q = a / 4 % 32 ∧
  s.troupe tk = some t ∧ t.ctx = ctx ∧ t.wopen.getLsbD q = true ∧ t.threads.length = 16

/-- The pushes that wait at a core. -/
def Sys2Proof.Claims.waitingPushes (s : State) (core : Nat) : List PushReq := (s.core core).pushes

/-- R116 to R119, R230, R231: WINDOW_PUSH, WINDOW_LOAD, HELD_PUSH_ENTRY and SCRATCH_WINDOW_ACCESS answer a next state from every state:
an accepted push waits at the core of its target, behind those that wait there, until its queue has room, and then fills the youngest
positions; it is discarded for another generation or a closed queue; a window load returns free and filled counts and pops
nothing; a scratch-window access reads or writes the named unit's scratch.
That a push enters in an event of its own is the model's choice (log 46), and so is what becomes of one whose troupe has gone (log 55). -/
def Obligations.WindowsReachQueuesAndScratch : Prop :=
  let quiet (s s' : State) : Prop := s'.mem = s.mem ∧ s'.scratch = s.scratch
  (∀ s (p : PushReq), ∃ s', exec (.windowPush p) s = .next s' ∧ s'.troupes = s.troupes ∧ quiet s s') ∧
  (∀ s core, ∃ s', exec (.heldPushEntry core) s = .next s' ∧ quiet s s' ∧
    (waitingPushes s' core = waitingPushes s core ∨ waitingPushes s' core = (waitingPushes s core).tail)) ∧
  (∀ s (w : WinReq), ∃ s', exec (.windowLoad w) s = .next s' ∧ quiet s s' ∧ ∀ k, k ≠ w.troupe → s'.troupe k = s.troupe k) ∧
  (∀ s (w : WinReq), ∃ s', exec (.scratchWindowAccess w) s = .next s' ∧ s'.mem = s.mem ∧ (∀ k, k ≠ w.troupe → s'.troupe k = s.troupe k) ∧
    (w.store = true → s'.troupes = s.troupes) ∧ (w.store = false → s'.scratch = s.scratch)) ∧
  (∀ s (p : PushReq) tk i q t, Names s p.ctx p.addr tk i q t → p.gen < 16 → s.genOf tk < 16 →
    let entered : Troupe := t.setThread i ((t.thread i).setQueue q ((t.thread i).queue q ++
      p.words.map (fun w => { pos := .filled w false, fresh := false })))
    let room : Prop := ((t.thread i).queue q).length + p.words.length ≤ 4
    (s.genOf tk ≠ p.gen → exec (.windowPush p) s = .next s) ∧
    (s.genOf tk = p.gen → ∃ s', exec (.windowPush p) s = .next s' ∧ s'.troupes = s.troupes ∧ quiet s s' ∧
      waitingPushes s' (coreOf tk) = waitingPushes s (coreOf tk) ++ [p] ∧
      ∀ c, c ≠ coreOf tk → waitingPushes s' c = waitingPushes s c) ∧
    (∀ rest, waitingPushes s (coreOf tk) = p :: rest → s.genOf tk = p.gen →
      (room → ∃ s', exec (.heldPushEntry (coreOf tk)) s = .next s' ∧ s'.troupe tk = some entered ∧ waitingPushes s' (coreOf tk) = rest ∧
        (∀ k, k ≠ tk → s'.troupe k = s.troupe k) ∧ quiet s s') ∧
      (¬ room → exec (.heldPushEntry (coreOf tk)) s = .next s)) ∧
    (∀ rest, waitingPushes s (coreOf tk) = p :: rest → s.genOf tk ≠ p.gen →
      ∃ s', exec (.heldPushEntry (coreOf tk)) s = .next s' ∧ s'.troupes = s.troupes ∧ waitingPushes s' (coreOf tk) = rest ∧ quiet s s')) ∧
  (∀ s (p : PushReq), windowFar s p.addr = false → (∀ tk i q t, ¬ Names s p.ctx p.addr tk i q t) →
    (∀ k t, s.troupe k = some t → t.threads.length = 16) → exec (.windowPush p) s = .next s) ∧
  (∀ s (w : WinReq) u, s.troupe w.troupe = some u → w.thread < u.threads.length →
    let filled (s' : State) (v : Nat) : Prop :=
      s'.troupe w.troupe = some (u.setThread w.thread ((u.thread w.thread).fill w.queue w.id (.filled (BitVec.ofNat 32 v) false))) ∧
      (∀ k, k ≠ w.troupe → s'.troupe k = s.troupe k) ∧ quiet s s'
    (∀ tk i q t, Names s w.ctx w.addr tk i q t →
      ∃ s', exec (.windowLoad w) s = .next s' ∧ filled s' (16 * (4 - ((t.thread i).queue q).length) +
        ((t.thread i).queue q).countP (fun e => (e.pos.value s.now).isSome))) ∧
    (∀ v off, windowScratch s w.ctx w.addr = some (v, off) → s.badScr = [] →
      (w.store = false → ∃ s', exec (.scratchWindowAccess w) s = .next s' ∧
        filled s' (readNat s.scratch (scrKey v off) w.size)) ∧
      (w.store = true → ∃ s', exec (.scratchWindowAccess w) s = .next s' ∧ s'.troupes = s.troupes ∧ s'.mem = s.mem ∧
        s'.scratch = writeNat s.scratch (scrKey v off) w.size w.data.toNat)) ∧
    (windowScratch s w.ctx w.addr = none → w.store = false → ∃ s', exec (.scratchWindowAccess w) s = .next s' ∧
      s'.troupe w.troupe = some (u.setThread w.thread ((u.thread w.thread).fill w.queue w.id
        (.mark 0x0B (BitVec.ofNat 64 w.addr)))) ∧ quiet s s'))

/-! ## Page walks, replay, gaps and swaps -/

/-- The ensemble has the one troupe `tk`, which stands as `t`, not stopped, and waits for nothing; no ordered section exists, nothing
is on its way, no engine holds a command, and no matrix operation and no tracked tile is on its unit. -/
structure Sys2Proof.Claims.Still (s : State) (ek tk : Nat) (e : Ensemble) (t : Troupe) : Prop where
  ens : s.ens ek = some e
  one : e.troupes = [tk]
  troupe : s.troupe tk = some t
  plain : Plain t
  sections : s.sections = []
  runs : t.stopped = false ∧ t.wait = none
  quiet : Quiet s e.unit
  partials : ∀ p, p ∈ s.units → p.2.partials = []
  engines : ∀ p, p ∈ s.cores → p.2.engines = []
  agenda : s.agenda = []
  unit : (s.tile e.unit).running = [] ∧ (s.tile e.unit).rtab = [] ∧ (s.tile e.unit).tracked = []
  holds : kfind s.holds tk = none
  free : ∀ c, s.comp e.comp = some c → c.tt = none

/-- PARKT of a context, in cycles (R251). -/
def Sys2Proof.Claims.parkT (s : State) (ctx : Nat) : Nat := 1800 * ((s.ctx ctx).ctxcfg.toNat / 2 ^ 8 % 2 ^ 16)

/-- R232, R233, R237, R238: a walk that ends with a 4 KiB leaf puts its page in both TLBs, and one that ends in an invalid entry puts
nothing there. R243, R247, R249: a parked troupe stays until it is woken; a woken one performs its replay entries, and one that is
still absent stays with its count raised. R338: the waiter of an open gap traps with E. R252 to R254: an ensemble whose troupe has
been parked for more than PARKT is chosen, a timetabled one is not; a chosen one leaves its unit whole, and no byte of memory
outside the units that it takes in the save pool and the pool's map changes. R254, R258, R259: it returns with its state and its
scratch, and only the pool's map changes.
Readings of the model: logs 19 and 37. -/
def Obligations.WalksReplaysGapsAndSwapsAct : Prop :=
  (∀ s core ctx va, (s.ctx ctx).ptroot.getLsbD 0 = true →
    let root := (s.ctx ctx).ptroot.toNat / 2 ^ 12 % 2 ^ 44 * 4096
    let entry (table lo : Nat) : Nat := physNat s 0 (table + 8 * (va / 2 ^ lo % 512)) 8
    (entry root 48 % 2 = 0 → ∃ s', exec (.pageWalkComplete core ctx va) s = .next s' ∧ (∀ k, (s'.core k).tlb = (s.core k).tlb) ∧
      (∀ k, (s'.tile k).tlb = (s.tile k).tlb) ∧ s'.mem = s.mem ∧ s'.scratch = s.scratch ∧ s'.troupes = s.troupes) ∧
    (∀ a b c d p key r w u m, a < 2 ^ 44 → b < 2 ^ 44 → c < 2 ^ 44 → d < 2 ^ 44 → p < 2 ^ 44 → key < 256 → r < 2 → w < 2 → u < 2 → m < 2 →
      entry root 48 = 4096 * a + 1 → entry (4096 * a) 39 = 4096 * b + 1 → entry (4096 * b) 30 = 4096 * c + 1 →
      entry (4096 * c) 21 = 4096 * d + 1 →
      entry (4096 * d) 12 = 3 + 8 * r + 16 * w + 64 * u + 512 * m + 4096 * p + 2 ^ 56 * key →
      (∀ x, x ∈ [(root, 48), (4096 * a, 39), (4096 * b, 30), (4096 * c, 21), (4096 * d, 12)] →
        memFault s (x.1 + 8 * (va / 2 ^ x.2 % 512)) 8 = none) →
      ∃ s' e, exec (.pageWalkComplete core ctx va) s = .next s' ∧ e ∈ (s'.core core).tlb ∧ e ∈ (s'.tile (core / 4)).tlb ∧
        e = { ctx := ctx, base := va - va % 4096, span := 4096, pa := 4096 * p, key := key, pmode := m == 1, priv := u == 1,
              w := w == 1, r := r == 1 } ∧
        s'.mem = s.mem ∧ s'.scratch = s.scratch ∧ s'.troupes = s.troupes)) ∧
  (∀ s tk t r rest, s.troupe tk = some t → t.replay = r :: rest → r.faults ≠ 0 → t.woken = false → exec (.replay tk) s = .next s) ∧
  (∀ s tk t i n rest ea size q op ids wide l s₁, s.troupe tk = some t → Plain t → StoresDone s (unitOf tk) → t.woken = true → n ≠ 0 →
    t.replay = { thread := i, faults := n, act := .load ea size 1 q op ids wide } :: rest → ea.toNat % 2 ^ size = 0 →
    translateEa s (coreOf tk) t.ctx ea .read = (.absent l, s₁) → (s.ctx t.ctx).pfring.toNat / 2 ^ 12 % 2 ^ 44 = 0 →
    ∃ s' t', exec (.replay tk) s = .next s' ∧ s'.troupe tk = some t' ∧
      t' = { t with replay := { thread := i, faults := min (n + 1) 255, act := .load ea size 1 q op ids wide, level := l } :: rest,
                    woken := false, parkedAt := some s.now } ∧
      (s'.ctx t.ctx).pfheld.length = (s.ctx t.ctx).pfheld.length + 1 ∧ (∀ k, k ≠ tk → s'.troupe k = s.troupe k) ∧
      s'.mem = s.mem ∧ s'.scratch = s.scratch) ∧
  (∀ s tk t i n ea size data mca pa key pm s₁, s.troupe tk = some t → Plain t → Quiet s (unitOf tk) → t.woken = true →
    t.replay = [{ thread := i, faults := n, act := .store ea size 1 data mca none }] → ea.toNat % 2 ^ size = 0 →
    translateEa s (coreOf tk) t.ctx ea .write = (.ok pa key pm, s₁) →
    ∃ s' w, exec (.replay tk) s = .next s' ∧ s'.troupe tk = some { t with replay := [], woken := false, parkedAt := none,
                                                                          surfaced := t.surfaced || !t.late.isEmpty } ∧
      s'.storeQ = [w] ∧ w.troupe = tk ∧ w.thread = i ∧ w.ea = ea ∧ w.pa = pa ∧ w.key = key ∧ w.size = 2 ^ size ∧ w.data = data.toNat ∧ w.mca = mca ∧
      (∀ k, k ≠ tk → s'.troupe k = s.troupe k) ∧ s'.mem = s.mem ∧ s'.scratch = s.scratch) ∧
  (∀ s, (∀ e, e ∈ s.sections → e.spilled = none ∧ e.gapStart = none) → exec .gapTimeout s = .next s) ∧
  (∀ s tk t h e t0 n num va vb m th, s.troupe tk = some t → t.threads.length = 16 → Plain t → s.sections = [e] → s.holds = [(tk, h)] →
    h.wait = .osenter [(n, e.key, num)] → h.focus.sent = [] → h.focus.troupe = tk → h.focus.latch.ctx = e.ctx → t.ctx = e.ctx → h.focus.k < 8 →
    Alone h.focus n → e.spilled = none → e.held = false → e.abandoned = false → e.gapStart = some t0 →
    let g := (s.ctx e.ctx).ctxcfg.toNat / 2 ^ 24 % 2 ^ 16
    0 < g → t0 + 1800 * g < s.now → num ≠ e.e → (num - e.e).toNat < 2 ^ 31 →
    let f := h.focus
    let x := enterFields f.word
    readSrc f (f.issue + n) n (t.thread n) x.a (x.ka == 1) = .ok (va, m) → readSrc f (f.issue + n) n m x.b (x.kb == 1) = .ok (vb, th) →
    va.lo = e.key → vb.lo = num →
    ∃ s' t', exec .gapTimeout s = .next s' ∧ s'.troupe tk = some t' ∧ t'.causeReg.toNat = 0x12 ∧ t'.eaddr = e.e.setWidth 64 ∧
      t'.redo = f.run ∧ t'.wait = none ∧ t'.threads = t.threads ∧ t'.g = t.g ∧ s'.holds = [] ∧ s'.mem = s.mem ∧
      s'.scratch = s.scratch) ∧
  (∀ s ek tk e t since, Still s ek tk e t → s.enss = [(ek, e)] → t.halt ≠ .halted → t.parkedAt = some since → e.size = 3 →
    let due (s' : State) : Prop := s'.agenda = [(s.now, .ensembleSwapOut ek)] ∧ s'.troupes = s.troupes ∧ s'.enss = s.enss ∧ s'.mem = s.mem
    let kept (s' : State) : Prop := s'.agenda = [] ∧ s'.troupes = s.troupes ∧ s'.enss = s.enss ∧ s'.mem = s.mem
    (t.replay ≠ [] → 0 < parkT s e.ctx → since + parkT s e.ctx < s.now → ∃ s', exec .swapOutTest s = .next s' ∧ due s') ∧
    (t.replay = [] ∨ s.now ≤ since + parkT s e.ctx → ∃ s', exec .swapOutTest s = .next s' ∧ kept s')) ∧
  (∀ s ek e c, s.ens ek = some e → s.comp e.comp = some c → c.tt ≠ none →
    (∀ k t, k ∈ e.troupes → s.troupe k = some t → t.stopping = false ∧ t.stopped = false) → exec (.ensembleSwapOut ek) s = .next s) ∧
  (∀ s ek tk e t first, Still s ek tk e t → t.split = none ∨ t.replay ≠ [] ∨ t.origins ≠ [] ∨ t.halt = .halted → e.desc.barriers = 0 → e.banks = [] → s.memOk = true →
    saveRun s e.ctx ((saveBytes s e + 65535) / 65536) = some first →
    let at_ (off : Nat) : Nat := scrKey e.unit (65536 * e.base + off)
    ∃ s' v u, exec (.ensembleSwapOut ek) s = .next s' ∧ s'.ens ek = none ∧ s'.troupe tk = none ∧ kfind s'.saved ek = some v ∧
      v.ens = e ∧ v.troupes = [(tk, u)] ∧ v.first = first ∧ u = drainTroupe s.now { t with stopping := true, stopped := true } ∧
      (∀ k, k ≠ tk → s'.troupe k = s.troupe k) ∧
      (let pool := (s.ctx e.ctx).swparea.toNat / 2 ^ 16 % 2 ^ 40 * 65536
       ∀ a, ¬ (pool ≤ a ∧ a < pool + 65536) → ¬ (pool + 65536 * first ≤ a ∧ a < pool + 65536 * first + (saveBytes s e + 65535) / 65536 * 65536) →
         readByte s'.mem a = readByte s.mem a) ∧
      ∀ off, off < 65536 * e.count → readByte v.scratch off = readByte s.scratch (at_ off) ∧ readByte s'.scratch (at_ off) = 0) ∧
  (∀ s ek, savedPlace s ek = none → exec (.readmission ek) s = .next s) ∧
  (∀ s ek v part u k base k₀ t, savedPlace s ek = some (v, part, u, [k], base) → v.troupes = [(k₀, t)] → v.holds = [] → v.banks = [] →
    v.ops = [] → v.tracked = [] → s.troupe k = none → s.memOk = true → Memory.wf v.scratch = true →
    (∀ c, c ∈ v.scratch → c.1 < 65536 * v.ens.count) → t.replay = [] → t.origins = [] → t.late = [] →
    ∃ s' e', exec (.readmission ek) s = .next s' ∧ s'.ens ek = some e' ∧ e'.unit = u ∧ e'.base = base ∧ e'.troupes = [k] ∧
      e'.sems = v.ens.sems ∧ e'.accs = v.ens.accs ∧ kfind s'.saved ek = none ∧ s'.genOf k = (s.genOf k + 1) % 16 ∧
      s'.troupe k = some { t with woken := false, stopping := false, stopped := false, readyAt := s.now } ∧
      (∀ j, j ≠ k → s'.troupe j = s.troupe j) ∧
      (let pool := (s.ctx v.ens.ctx).swparea.toNat / 2 ^ 16 % 2 ^ 40 * 65536
       ∀ a, ¬ (pool ≤ a ∧ a < pool + 65536) → readByte s'.mem a = readByte s.mem a) ∧
      ∀ off, off < 65536 * v.ens.count → readByte s'.scratch (scrKey u (65536 * base) + off) = readByte v.scratch off)

/-! ## The sequencer -/

/-- The record of a partition as it stands in memory: its bytes are `bs`. -/
def Sys2Proof.Claims.HasRecord (s : State) (part : Nat) (bs : List Byte) : Prop :=
  memFault s (s.ptbase.toNat + 64 * part) 64 = none ∧ bs = physList s 0 (s.ptbase.toNat + 64 * part) 64 ∧
  Held s 0 (s.ptbase.toNat + 64 * part) 64 ∧ s.ptbase.toNat % 1024 = 0 ∧ s.ptbase.toNat < 2 ^ 56

/-- The record can be taken: it is enabled and legal, its dies are ready, no other record is enabled, and the device is not drained. -/
def Sys2Proof.Claims.Takes (s : State) (part : Nat) (bs : List Byte) : Prop :=
  HasRecord s part bs ∧ (partRec bs).en = true ∧ (partRec bs).legal = true ∧ rowsReady s (partRec bs).rows = true ∧
  (∀ q, q < 16 → q ≠ part → ∀ r, readPart s q = some r → r.en = false) ∧ s.mgmt.drained = []

/-- R85, R88, R104, R391, R392: an admitted ensemble stands on its unit with fresh troupes at the entry of its kernel. R400: the top
waiter of 100 µs holds back the others. R393: a segment is read into a frame, or its troupe traps. R87, R89: an ensemble whose
troupes have exited and a company whose ensembles have retired end. R385 to R388: a pass starts, stops or refuses a partition and
marks its blocks; a reported TAIL is seen. R417, R418: a swap puts the partition's units under the new context.
Readings of the model: logs 36 and 37. -/
def Obligations.SequencerAdmitsAndRetires : Prop :=
  (∀ s id, companyRoom s id = none → exec (.ensembleAdmission id) s = .next s) ∧
  (∀ s id c u slots base, companyRoom s id = some (c, u, slots, base) → c.parent = none → slots.Nodup →
    ∃ s' ek e, exec (.ensembleAdmission id) s = .next s' ∧ s'.ens ek = some e ∧ e.ctx = c.ctx ∧ e.comp = id ∧ e.linear = c.next ∧
      e.unit = u ∧ e.base = base ∧ e.count = c.desc.scratch ∧ e.size = c.desc.troupes ∧ e.troupes = slots ∧ e.exited = 0 ∧
      s'.comp id = some { c with next := c.next + 1, since := s.now } ∧
      (∀ i k, slots[i]? = some k → s'.genOf k = (s.genOf k + 1) % 16 ∧ ∃ t, s'.troupe k = some t ∧ t.ctx = c.ctx ∧ t.ens = ek ∧
        t.comp = id ∧ t.eix = i ∧ t.pc = c.desc.entry ∧ t.text = c.desc.text ∧ t.segs = c.desc.segs ∧ t.active = 0xFFFF ∧
        t.vclaim = c.desc.vregs ∧ t.scopesel = 3 ∧ t.wopen = 0 ∧ t.clause = Clause.none ∧
        (∀ j, t.gread j = (if j = 0 ∨ j = 8 then c.desc.args else if j = 1 then BitVec.ofNat 64 c.next
          else if j = 2 then BitVec.ofNat 64 id else 0)) ∧
        (∀ j q, (t.thread j).queue q = []) ∧ ∀ j, (t.thread j).preds = 0) ∧
      (∀ k, k ∉ slots → s'.troupe k = s.troupe k) ∧ s'.mem = s.mem ∧
      ∀ off, off < 65536 * c.desc.scratch → readByte s'.scratch (scrKey u (65536 * base) + off) = 0) ∧
  (∀ s part w p, s.saved = [] → waitersIn s part = [w] → kfind s.parts part = some p → p.holds = [] →
    (s.now < w.since + 180000 → exec (.admissionHold part) s = .next s) ∧
    (w.since + 180000 ≤ s.now → ∃ s', exec (.admissionHold part) s = .next s' ∧
      kfind s'.parts part = some { p with holds := [(w.readmit, w.key)] } ∧ s'.troupes = s.troupes ∧ s'.enss = s.enss ∧ s'.mem = s.mem)) ∧
  (∀ s core ctx text seg, (s.core core).frames = [] →
    (∀ bs, (virtFetch s core ctx (text + 4096 * seg) 4096).1 = .ok bs → ∃ s' r, exec (.segmentExpansion core ctx text seg) s = .next s' ∧
      (s'.core core).frames = [r] ∧ r.ctx = ctx ∧ r.text = text ∧ r.seg = seg ∧ r.words.length ≤ 1024 ∧ r.words.getLast? ≠ some 0 ∧
      (∀ i, i < 1024 → r.words.getD i 0 = BitVec.ofNat 32 (leAt bs (4 * i) 4)) ∧ s'.troupes = s.troupes ∧ s'.mem = s.mem) ∧
    (∀ e tk t, (virtFetch s core ctx (text + 4096 * seg) 4096).1 = .error e → e.kind ≠ 3 → s.troupes = [(tk, t)] → coreOf tk = core →
      Plain t → needsSegment s tk t = true → segmentOf t = (ctx, text, seg) → t.active ≠ 0 →
      ∃ s' t', exec (.segmentExpansion core ctx text seg) s = .next s' ∧ s'.troupe tk = some t' ∧ t'.causeReg.toNat = 0x709 ∧
        t'.eaddr = BitVec.ofNat 64 t.pc ∧ t'.pc = t.pc ∧ t'.redo = t.active ∧ t'.g = t.g ∧ (s'.core core).frames = [] ∧ s'.mem = s.mem)) ∧
  (∀ s ek e, s.ens ek = some e →
    (e.exited < e.size → exec (.ensembleRetirement ek) s = .next s) ∧
    (∀ c, retirable s ek e = true → Quiet s e.unit → s.comp e.comp = some c → (s.tile e.unit).rtab = [] → e.joins = [] → e.banks = [] →
      ∃ s', exec (.ensembleRetirement ek) s = .next s' ∧ s'.ens ek = none ∧ (∀ j, j ≠ ek → s'.ens j = s.ens j) ∧
        s'.comp e.comp = some { c with retired := c.retired + 1 } ∧ (∀ k, s'.troupe k = s.troupe k) ∧ s'.mem = s.mem ∧
        ∀ off, off < 65536 * e.count → readByte s'.scratch (scrKey e.unit (65536 * e.base) + off) = 0)) ∧
  (∀ s id c, s.comp id = some c →
    let status : Dword := BitVec.ofNat 64 (c.firstCause.getD 0)
    (c.retired < c.total ∨ (∃ k, k ∈ c.kids ∧ k.status = none) → exec (.companyRetirement id) s = .next s) ∧
    (∀ p q, c.total ≤ c.retired → (∀ k, k ∈ c.kids → k.status ≠ none) → c.desc.done = 0 → c.parent = some p → p ≠ id →
      s.comp p = some q → q.kids = [{ comp := id, status := none }] →
      ∃ s', exec (.companyRetirement id) s = .next s' ∧ s'.comp id = none ∧
        s'.comp p = some { q with kids := [{ comp := id, status := some status }] } ∧ s'.mem = s.mem ∧ s'.troupes = s.troupes) ∧
    (∀ pa key pm, c.total ≤ c.retired → (∀ k, k ∈ c.kids → k.status ≠ none) → c.parent = none → c.desc.done ≠ 0 →
      c.desc.done.toNat % 8 = 0 → (walkTranslate s noCore c.ctx c.desc.done .write).1 = .ok pa key pm → s.storeQ = [] → inBlocks pa = false →
      pa % 8 = 0 → memFault s pa 8 = none → Held s key pa 8 → (s.tile (noCore / 4)).partials = [] →
      ∃ s', exec (.companyRetirement id) s = .next s' ∧ s'.comp id = none ∧ s'.troupes = s.troupes ∧ s'.scratch = s.scratch ∧
        s'.mem = writeNat s.mem pa 8 status.toNat)) ∧
  (∀ s part, s.seqEn = false → exec (.sequencerPass part) s = .next s) ∧
  (∀ s part bs, s.seqEn = true → part < 16 → HasRecord s part bs → s.memOk = true →
    let r := partRec bs
    let flag := s.ptbase.toNat + 64 * part + 6
    let goesOn (s' : State) : Prop := (∃ c, s.now < c ∧ (c, Instr.sequencerPass ((part + 1) % 16)) ∈ s'.agenda) ∧
      s'.passNo = (if part = 15 then s.passNo + 1 else s.passNo) ∧ s'.troupes = s.troupes ∧ s'.comps = s.comps
    (r.en = false → kfind s.parts part = none → ∃ s', exec (.sequencerPass part) s = .next s' ∧ goesOn s' ∧ s'.mem = s.mem ∧ s'.parts = s.parts) ∧
    (∀ p, r.en = false → kfind s.parts part = some p → p.running = true → ∃ s', exec (.sequencerPass part) s = .next s' ∧ goesOn s' ∧
      kfind s'.parts part = some { p with running := false } ∧ (readByte s'.mem flag).getLsbD 2 = false) ∧
    (r.en = true → r.legal = false → ∃ s', exec (.sequencerPass part) s = .next s' ∧ goesOn s' ∧ s'.parts = s.parts ∧
      s'.mem = writeNat s.mem flag 1 (r.flags ||| 2)) ∧
    (Takes s part bs → kfind s.parts part = none → s.rowCtx = [] → s.savedUnits = [] → r.qhead = 0 → ∃ s', exec (.sequencerPass part) s = .next s' ∧ goesOn s' ∧
      kfind s'.parts part = some { running := true, ctx := r.ctx, rows := r.rows, refused := none, holds := [] } ∧
      s'.mem = writeNat s.mem flag 1 (r.flags ||| 4)) ∧
    (∀ p, Takes s part bs → kfind s.parts part = some p → p.running = true → p.ctx ≠ r.ctx → p.refused = none → p.incoming = none →
      ∃ s', exec (.sequencerPass part) s = .next s' ∧
      goesOn s' ∧ (s.now, Instr.partitionSwap part) ∈ s'.agenda ∧ s'.parts = s.parts ∧ s'.mem = s.mem) ∧
    (∀ p blk, Takes s part bs → kfind s.parts part = some p → p.running = true → p.incoming = none → p.ctx = r.ctx → p.rows = r.rows → r.qhead ≠ 0 →
      r.qhead % 128 = 0 → memFault s r.qhead 64 = none → Held s 0 r.qhead 64 → blk = physList s 0 r.qhead 64 → blockLegal blk = true →
      leAt blk 9 1 = 1 → leAt blk 16 8 = leAt blk 24 8 → leAt blk 32 8 = 0 → kfind s.tails r.qhead = none →
      ∃ s', exec (.sequencerPass part) s = .next s' ∧ goesOn s' ∧ s'.parts = s.parts ∧
        s'.mem = writeNat s.mem (r.qhead + 40) 8 s.passNo.toNat)) ∧
  (∀ s a, memFault s a 64 = none → ∃ s', exec (.tailReport a) s = .next s' ∧
    kfind s'.tails a = some (BitVec.ofNat 64 (leAt (physList s 0 a 64) 24 8)) ∧ s'.mem = s.mem ∧ s'.troupes = s.troupes) ∧
  (∀ s part bs p, HasRecord s part bs → kfind s.parts part = some p → p.incoming = none →
    let r := partRec bs
    (p.ctx = r.ctx → exec (.partitionSwap part) s = .next s) ∧
    (p.ctx ≠ r.ctx → p.running = true → s.savedUnits = [] → s.rowCtx = [] → 300 ≤ s.shovf.toNat % 2 ^ 16 → s.agenda = [] → s.storeQ = [] → s.waitQ = [] →
      s.units = [] → s.cores = [] → (∀ q, q ∈ s.troupes → stands q.2 = true) →
      ∃ s', exec (.partitionSwap part) s = .next s' ∧
        kfind s'.parts part = some { running := true, ctx := r.ctx, rows := r.rows, refused := none, holds := [] } ∧
        ∀ u, u ∈ unitsIn p.rows → (∃ x, x ∈ s'.savedUnits ∧ x.ctx = p.ctx ∧ x.unit = u) ∧
          ∀ tk, unitOf tk = u → s'.troupe tk = none))

/-! ## Frames and timetables -/

/-- The company runs its admitted timetable, with one ensemble on its partition that has troupes. -/
structure Sys2Proof.Claims.Timed (s : State) (id : Nat) (c : Company) (tt : Timetable) (ek : Nat) (e : Ensemble) : Prop where
  comp : s.comp id = some c
  timed : c.tt = some tt
  admitted : tt.admitted = true
  en : s.frame.en = true
  runs : compRuns s c = true
  one : s.enss = [(ek, e)]
  mine : e.comp = id
  troupes : e.troupes ≠ []

/-- The step has the given BUDGET and DROP rank. -/
def Sys2Proof.Claims.aStep (budget drop : Nat) : TStep := { entry := 0, alt := 0, release := 0, budget := budget, drop := drop }

/-- The company's timetable after the event, with nothing else of it changed. -/
def Sys2Proof.Claims.TtAfter (s s' : State) (id : Nat) (c : Company) (tt' : Timetable) : Prop :=
  s'.comp id = some { c with tt := some tt' } ∧ s'.troupes = s.troupes

/-- R397, R398, R445 to R449, R452: a frame start advances NUMBER, takes PERIOD as the length, sends the presented image of the frame
that ends or substitutes it, and begins the frame of a finished timetable; a measurement within 90 cycles locks, one above 180 loses
lock, and so does 1 ms without one. A step is released when due, with CUE and a count on semaphore 0, and late with a slip
record; it completes with barrier 0, and the governor drops the step with the smallest rank when the projection exceeds DEADLINE −
MARGIN; a deadline that passes without the last step's completion fails the frame for the outputs that have the context at its scan-out.
Readings of the model: log 39. -/
def Obligations.FramesRunTimetables : Prop :=
  (∀ s, s.frame.en = false → exec .frameStart s = .next s) ∧
  (∀ s, s.frame.en = true → s.frame.lock = false → s.comps = [] →
    let f := s.frame.number
    let started (s' : State) (subst : Nat) : Prop := s'.frame.number = f + 1 ∧ s'.frame.start = s.now ∧ s'.frame.length = s.frame.period ∧
      s'.frame.period = s.frame.period ∧ s'.frame.subst = s.frame.subst + BitVec.ofNat 32 subst ∧ s'.troupes = s.troupes ∧ s'.mem = s.mem
    (s.outputs = [] → ∃ s', exec .frameStart s = .next s' ∧ started s' 0) ∧
    (∀ n o, s.outputs = [(n, o)] → o.cfg.getLsbD 32 = true →
      let fails := ((o.cfg.extractLsb' 48 12).toNat, f)
      (∀ img, o.presents = [(f, img)] → fails ∉ s.frame.failed → ∃ s' o', exec .frameStart s = .next s' ∧ started s' 0 ∧
        s'.outputs = [(n, o')] ∧ o'.last = some (sentImage img) ∧ o'.substituted = o.substituted ∧ o'.presents = []) ∧
      ((∀ p, p ∈ o.presents → p.1 ≠ f) ∨ fails ∈ s.frame.failed → ∃ s' o', exec .frameStart s = .next s' ∧ started s' 1 ∧
        s'.outputs = [(n, o')] ∧ o'.substituted = o.substituted ++ [f] ∧ fails ∉ s'.frame.failed ∧
        (o.last = none → o'.last = none) ∧ (∀ i, o.last = some i → o'.last = some (reproject s o i))))) ∧
  (∀ s id c tt, s.frame.en = true → s.frame.lock = false → s.outputs = [] → s.comps = [(id, c)] → c.tt = some tt → tt.admitted = true →
    compRuns s c = true →
    (tt.finished = true → ∃ s' tt', exec .frameStart s = .next s' ∧ TtAfter s s' id c tt' ∧ tt'.frame = s.frame.number + 1 ∧
      tt'.start = s.now ∧ tt'.step = 0 ∧ tt'.released = false ∧ tt'.held = false ∧ tt'.dropped = [] ∧ tt'.switched = [] ∧ tt'.done = [] ∧
      tt'.finished = false ∧ tt'.missed = false ∧ s'.mem = s.mem) ∧
    (tt.finished = false → allExited s id = false → ∃ s', exec .frameStart s = .next s' ∧ TtAfter s s' id c { tt with overrun := true } ∧
      s'.mem = s.mem ∧ s'.frame.failed = s.frame.failed.filter (fun x => x.2 != s.frame.number))) ∧
  (∀ s m (k : Word),
    (s.frame.lock = false ∨ (s.frame.en = true ∧ s.mgmt.deviceNo.toNat < m) → exec (.lockMeasurement m k) s = .next s) ∧
    (s.frame.lock = true → s.frame.en = false ∨ m ≤ s.mgmt.deviceNo.toNat → ∃ s', exec (.lockMeasurement m k) s = .next s' ∧ s'.frame.skew = k ∧ s'.frame.master = m ∧
      s'.frame.lastMeasure = s.now ∧ s'.frame.number = s.frame.number ∧ s'.frame.start = s.frame.start ∧
      (k.toInt.natAbs ≤ 90 → s'.frame.locked = true ∧ s'.frame.lost = s.frame.lost) ∧
      (90 < k.toInt.natAbs → k.toInt.natAbs ≤ 180 → s'.frame.locked = s.frame.locked ∧ s'.frame.lost = s.frame.lost) ∧
      (180 < k.toInt.natAbs → s'.frame.locked = false ∧ s'.frame.lost = true) ∧ s'.troupes = s.troupes ∧ s'.mem = s.mem)) ∧
  (∀ s, s.frame.lock = true → s.frame.en = true → s.frame.master ≠ s.mgmt.deviceNo.toNat →
    (s.now < s.frame.lastMeasure + 1800000 → exec .lockLoss s = .next s) ∧
    (s.frame.lastMeasure + 1800000 ≤ s.now → exec .lockLoss s = .next
      { s with frame := { s.frame with locked := false, lost := true, lastMeasure := s.now } })) ∧
  (∀ s id c tt ek e, Timed s id c tt ek e → tt.finished = false → tt.released = false → 16 ≤ c.ctx →
    (s.tile (noCore / 4)).partials = [] →
    ∀ x, tt.steps[tt.step]? = some x → tt.start ≤ s.now →
    let tick := s.now - tt.start
    let cue : List Byte := numBytes 2 tt.step ++ numBytes 2 0 ++ numBytes 4 tt.frame.toNat ++
      numBytes 8 (if tt.step ∈ tt.switched then x.alt.toNat else 0)
    let released (s' : State) (tt₁ : Timetable) : Prop := ∃ e', s'.ens ek = some e' ∧ (e'.sem 0).count = (e.sem 0).count + 1 ∧
      (∀ i, i ≠ 0 → e'.sem i = e.sem i) ∧ TtAfter s s' id c { tt₁ with released := true, phases := [(ek, (e.bar 0).phases)] }
    (tick < x.release → exec (.stepRelease id) s = .next s) ∧
    (tick = x.release → tt.held = false → ∃ s', exec (.stepRelease id) s = .next s' ∧ released s' tt ∧
      s'.mem = (virtWrite s noCore c.ctx (tt.addr + 48) cue).2.mem) ∧
    (x.release < tick → ∃ s', exec (.stepRelease id) s = .next s' ∧ released s' { tt with slipCnt := tt.slipCnt + 1 } ∧
      (let slip : List Byte := numBytes 4 tt.frame.toNat ++ numBytes 2 tt.step ++ numBytes 1 0 ++ numBytes 1 0 ++ numBytes 8 s.now
       let s₁ := if tt.slipOff = 0 then s
         else (virtWrite s noCore c.ctx (tt.addr + tt.slipOff + 16 * (tt.slipCnt.toNat % tt.slipCap)) slip).2
       let s₂ := (virtWrite s₁ noCore c.ctx (tt.addr + 36) (numBytes 4 (tt.slipCnt + 1).toNat)).2
       s'.mem = (virtWrite s₂ noCore c.ctx (tt.addr + 48) cue).2.mem))) ∧
  (∀ s id c tt ek e, Timed s id c tt ek e → tt.released = true →
    let t := s.now - tt.start
    (tt.phases = [(ek, (e.bar 0).phases)] → exec (.stepCompletion id) s = .next s) ∧
    (∀ p, tt.phases = [(ek, p)] → p ≠ (e.bar 0).phases → tt.steps = [aStep 10000 0, aStep 10000 2, aStep 10000 1, aStep 10000 0] →
      tt.deadline = 44000 → tt.margin = 2000 → tt.dropped = [] → tt.switched = [] →
      (tt.done = [] → tt.step = 0 → t ≤ 10500 → ∃ s', exec (.stepCompletion id) s = .next s' ∧ s'.mem = s.mem ∧
        TtAfter s s' id c { tt with done := [(t, 0)], released := false, step := 1 }) ∧
      (tt.done = [(10500, 0)] → tt.step = 1 → t = 23000 → ∃ s', exec (.stepCompletion id) s = .next s' ∧ s'.mem = s.mem ∧
        TtAfter s s' id c { tt with done := [(10500, 0), (23000, 1)], released := false, dropped := [2], switched := [3], step := 3 })) ∧
    (∀ p b d, tt.phases = [(ek, p)] → p ≠ (e.bar 0).phases → tt.steps = [aStep b d] → tt.step = 0 → tt.done = [] → tt.overrun = false →
      ∃ s', exec (.stepCompletion id) s = .next s' ∧ s'.mem = s.mem ∧
        TtAfter s s' id c { tt with done := [(t, 0)], released := false, finished := true })) ∧
  (∀ s id c tt ek e, Timed s id c tt ek e → tt.finished = false → tt.missed = false →
    (s.now - tt.start < tt.deadline → exec (.deadlineMiss id) s = .next s) ∧
    (tt.deadline ≤ s.now - tt.start → (tt.frame - s.frame.number).toNat < 2 ^ 31 →
      ∃ s', exec (.deadlineMiss id) s = .next s' ∧ TtAfter s s' id c { tt with missed := true } ∧
        (∀ x, x ∈ s'.frame.failed ↔ x ∈ s.frame.failed ∨ x = (c.ctx, tt.frame)) ∧ s'.outputs = s.outputs ∧ s'.mem = s.mem))

/-! ## Device services and the debug block -/

/-- Only the management controller's state differs; the response begins with the given code. -/
def Sys2Proof.Claims.Responds (i : Instr) (s : State) (code : Nat) (p : Mgmt → Prop) : Prop :=
  ∃ s', exec i s = .next s' ∧ { s' with mgmt := s.mgmt } = s ∧ s'.mgmt.response.length = 7 ∧
    s'.mgmt.response.head? = some (BitVec.ofNat 64 code) ∧ p { s'.mgmt with response := s.mgmt.response }

/-- Only the management controller's state differs, and it becomes `m`. -/
def Sys2Proof.Claims.MgmtOnly (i : Instr) (s : State) (m : Mgmt) : Prop := exec i s = .next { s with mgmt := m }

/-- R6, R240, R384, R418, R422, R443, R445, R450, R453 to R457: reset, throttling, readiness, the stages of boot with recovery and
firmware update, the SPDM requests (their order and response codes are those of SPDM, log 13), key slots inside a session only,
drain and join, and writes of the register blocks. -/
def Obligations.ServicesActOnDevice : Prop :=
  (∀ s, ∃ s', exec .deviceReset s = .next s' ∧ s'.now = 0 ∧ s'.troupes = [] ∧ s'.enss = [] ∧ s'.comps = [] ∧ s'.parts = [] ∧ s'.keys = [] ∧
    s'.seqEn = false ∧ s'.frame = FrameBlock.init ∧ s'.dbg = Debug.init ∧ s'.mgmt.firmware = s.mgmt.firmware ∧ s'.mgmt.bootNext = 0) ∧
  (∀ s vec u, s.mgmt.matHold ≤ s.now → s.mgmt.vecHold ≤ s.now → s.now ≤ u →
    let held : Mgmt := { s.mgmt with throttle := s.mgmt.throttle + BitVec.ofNat 32 (u - s.now) }
    MgmtOnly (.powerThrottle vec u) s (if vec then { held with vecHold := u } else { held with matHold := u })) ∧
  (∀ s b, b < 33 → let set : Mgmt := { s.mgmt with ready := s.mgmt.ready ||| BitVec.ofNat 35 (2 ^ b) }
    (s.mgmt.recovery = false → Config.stageOf b < s.mgmt.bootNext → MgmtOnly (.functionReady b) s set) ∧
    (b = 32 → MgmtOnly (.functionReady b) s set) ∧
    (s.mgmt.recovery = true ∨ s.mgmt.bootNext ≤ Config.stageOf b → b ≠ 32 → exec (.functionReady b) s = .next s)) ∧
  (∀ s n img, s.mgmt.recovery = false → s.mgmt.bootNext = n → n ≤ 5 →
    let x := (kfind s.mgmt.firmware n).getD img
    let digest := if n = 0 then Config.fusedDigest else x.digest
    let sum := Config.extend (kget 0 s.mgmt.measurements n) digest
    let logged : Mgmt := { s.mgmt with log := s.mgmt.log ++ [(n, digest)] }
    let measured : Mgmt := { logged with bootNext := n + 1, measurements := kset s.mgmt.measurements n sum }
    (n ≠ 0 → x.rsaOk = true → x.slhOk = true → Config.fusedVersion n ≤ x.version → MgmtOnly (.bootStage n img) s measured) ∧
    (n ≠ 0 → x.rsaOk = false ∨ x.slhOk = false ∨ x.version < Config.fusedVersion n →
      MgmtOnly (.bootStage n img) s { s.mgmt with recovery := true }) ∧
    (n = 0 → ∃ s', exec (.bootStage n img) s = .next s' ∧ s'.mgmt = measured ∧ (s'.key 0).loaded = true ∧
      (∀ k, k ≠ 0 → s'.key k = s.key k) ∧ s'.mem = s.mem)) ∧
  (∀ s n img, (s.mgmt.recovery = true → exec (.bootStage n img) s = .next s) ∧
    (s.mgmt.recovery = true → n ≠ 0 → MgmtOnly (.firmwareUpdate n img) s { s.mgmt with firmware := kset s.mgmt.firmware n img }) ∧
    (s.mgmt.recovery = false ∨ n = 0 → exec (.firmwareUpdate n img) s = .next s)) ∧
  (∀ s, Responds .getVersion s 0x04 (fun m => m.spdmVersion = true ∧ m.spdmCaps = false ∧ m.spdmAlgs = false ∧ m.handshake = none ∧
      m.session = none ∧ m.measurements = s.mgmt.measurements ∧ m.ready = s.mgmt.ready) ∧
    (∃ s', exec .getVersion s = .next s' ∧ s'.mgmt.response[1]? = some spdmVersionEntry) ∧
    (s.mgmt.spdmCaps = true → ∃ s', exec .negotiateAlgorithms s = .next s' ∧ s'.mgmt.response[1]? = some spdmAlgorithm) ∧
    (s.mgmt.spdmVersion = true → Responds .getCapabilities s 0x61 (fun m => m = { s.mgmt with spdmCaps := true })) ∧
    (s.mgmt.spdmVersion = false → Responds .getCapabilities s 0x7F (fun m => m = s.mgmt)) ∧
    (s.mgmt.spdmCaps = true → Responds .negotiateAlgorithms s 0x63 (fun m => m = { s.mgmt with spdmAlgs := true })) ∧
    (s.mgmt.spdmCaps = false → Responds .negotiateAlgorithms s 0x7F (fun m => m = s.mgmt))) ∧
  (∀ s n b w, s.mgmt.spdmAlgs = true → Responds .getDigests s 0x01 (fun m => m = s.mgmt) ∧
    Responds (.getCertificate n) s 0x02 (fun m => m = s.mgmt) ∧ Responds (.challenge b) s 0x03 (fun m => m = s.mgmt) ∧
    (n ≤ 5 → Responds (.getMeasurements n) s 0x60 (fun m => m = s.mgmt) ∧ ∃ s', exec (.getMeasurements n) s = .next s' ∧
      ∀ i, i < 6 → s'.mgmt.response[i + 1]? = some ((kget 0 s.mgmt.measurements n).extractLsb' (64 * i) 64)) ∧
    (5 < n → Responds (.getMeasurements n) s 0x7F (fun m => m = s.mgmt)) ∧
    Responds (.keyExchange w) s 0x64 (fun m => m = { s.mgmt with handshake := some w })) ∧
  (∀ s n b w, s.mgmt.spdmAlgs = false → ∀ i, i ∈ [Instr.getDigests, .getCertificate n, .challenge b, .getMeasurements n, .keyExchange w] →
    Responds i s 0x7F (fun m => m = s.mgmt)) ∧
  (∀ s w, (s.mgmt.handshake = some w → Responds (.finish w) s 0x65 (fun m => m = { s.mgmt with handshake := none, session := some w })) ∧
    (s.mgmt.handshake ≠ some w → Responds (.finish w) s 0x7F (fun m => m = s.mgmt)) ∧
    (s.mgmt.session = some w → Responds (.endSession w) s 0x6C (fun m => m = { s.mgmt with session := none })) ∧
    (s.mgmt.session ≠ some w → Responds (.endSession w) s 0x7F (fun m => m = s.mgmt))) ∧
  (∀ s w k key, ∀ (i : Instr) (v : KeySlot),
    (i, v) ∈ ([(.keySlotLoad w { slot := k, key := key }, { loaded := true, key := key }), (.keySlotClear w k, { loaded := false, key := 0 })] : List (Instr × KeySlot)) →
    (s.mgmt.session = some w → 1 ≤ k → k ≤ 255 → ∃ s', exec i s = .next s' ∧ s'.key k = v ∧
      (∀ j, j ≠ k → s'.key j = s.key j) ∧ s'.mem = s.mem ∧ s'.troupes = s.troupes ∧
      (∀ n c, kfind s'.slices n = some c → ∀ x, x ∈ c.ways → x.key ≠ k)) ∧
    (s.mgmt.session ≠ some w ∨ k = 0 ∨ 255 < k → ∃ s', exec i s = .next s' ∧ s'.keys = s.keys ∧ s'.slices = s.slices)) ∧
  (∀ s d, (d ∉ s.mgmt.drained → (∀ p, p ∈ s.cores → headCmd s p.1 3 = none) →
      MgmtOnly (.deviceDrain d) s { s.mgmt with drained := s.mgmt.drained ++ [d] }) ∧
    (∀ c x cmd, s.mgmt.drained = [] → s.mgmt.member = true → s.linked = true → s.cores = [(c, x)] → headCmd s c 3 = some cmd →
      wordN cmd.words 10 = 4 → ∃ s' at_, exec (.deviceDrain d) s = .next s' ∧ s'.mgmt = { s.mgmt with drained := [d] } ∧ s.now < at_ ∧
        (at_, cmdEvent c 3 cmd.words) ∈ s'.agenda ∧ s'.troupes = s.troupes ∧ s'.mem = s.mem) ∧
    (d ∈ s.mgmt.drained → exec (.deviceDrain d) s = .next s) ∧
    (s.mgmt.member = true → s.mgmt.deviceNo.toNat ∉ s.mgmt.drained →
      MgmtOnly (.deviceJoin d) s { s.mgmt with drained := s.mgmt.drained.filter (fun x => x != d) }) ∧
    (s.mgmt.member = false ∨ s.mgmt.deviceNo.toNat ∈ s.mgmt.drained → MgmtOnly (.deviceJoin d) s
      { s.mgmt with member := true, joined := !s.frame.locked, deviceNo := BitVec.ofNat 8 d,
                    drained := (s.mgmt.drained.filter (fun x => x != d)).filter (fun x => x != s.mgmt.deviceNo.toNat) })) ∧
  (∀ s (v : Dword),
    let w (off : Nat) : Instr := .registerWrite (0xFFFFFE00000000 + off) { v := v, n := 8 }
    (∀ pa n, pa < 0xFFFFFE00000000 ∨ 0xFFFFFE00004000 ≤ pa → exec (.registerWrite pa { v := v, n := n }) s = .next s) ∧
    (exec (.registerWrite 0xFFFFFE00002008 { v := v, n := 4 }) s = .next s) ∧
    (s.seqEn = false → v.getLsbD 0 = true → ∃ s', exec (w 0) s = .next s' ∧ s'.seqEn = true ∧ s'.ptbase = v &&& 0xFFFFFFFFFFFC00 ∧
      (s.now, Instr.sequencerPass 0) ∈ s'.agenda ∧ s'.troupes = s.troupes ∧ s'.mem = s.mem) ∧
    (exec (w 0x10) s = .next { s with shovf := v &&& 0xFFFFFFFF80FFFF }) ∧
    (exec (w 0x1000) s = .next { s with dbg := { s.dbg with en := v.getLsbD 12, ctx := v.toNat % 4096 } }) ∧
    (exec (w 0x1018) s = .next { s with dbg := { s.dbg with data := v } }) ∧
    (s.frame.en = false → v.getLsbD 32 = true → ∃ s', exec (w 0x2000) s = .next s' ∧ s'.frame.en = true ∧ s'.frame.number = 0 ∧
      s'.frame.start = s.now ∧ s'.frame.period = max 1800 (v.toNat % 2 ^ 32) ∧ s'.frame.length = s'.frame.period ∧
      s'.frame.lock = v.getLsbD 33) ∧
    (s.frame.en = true → v.getLsbD 32 = true → ∃ s', exec (w 0x2000) s = .next s' ∧ s'.frame.number = s.frame.number ∧
      s'.frame.start = s.frame.start ∧ s'.frame.length = s.frame.length ∧ s'.frame.period = max 1800 (v.toNat % 2 ^ 32)) ∧
    (v.getLsbD 32 = false → ∃ s', exec (w 0x2000) s = .next s' ∧ s'.frame.en = false ∧ s'.frame.number = 0 ∧
      (∀ id c tt, s'.comp id = some c → c.tt = some tt → tt.waiting = false)) ∧
    (exec (w 0x2008) s = .next { s with frame := { s.frame with lost := s.frame.lost && !v.getLsbD 33 } }) ∧
    (exec (w 0x3000) s = .next s) ∧ (exec (w 0x3008) s = .next s))

/-- The debug block selects thread i of troupe `tk` of its own context, KIND 0; the troupe stands as `t`. -/
structure Sys2Proof.Claims.Selects (s : State) (tk i : Nat) (t : Troupe) : Prop where
  en : s.dbg.en = true
  kind : s.dbg.sel.toNat / 2 ^ 27 % 4 = 0
  slot : tk = 64 * (s.dbg.sel.toNat % 2 ^ 11) + s.dbg.sel.toNat / 2 ^ 11 % 32
  thread : i = s.dbg.sel.toNat / 2 ^ 16 % 16
  troupe : s.troupe tk = some t
  ctx : t.ctx = s.dbg.ctx
  threads : t.threads.length = 16

/-- The command has ended with an ERR value and DATA, and the selected troupe stands as `t'`; nothing else differs. -/
def Sys2Proof.Claims.Ended (i : Instr) (s : State) (tk : Nat) (err : Nat) (data : Dword) (t' : Troupe) : Prop :=
  ∃ s', exec i s = .next s' ∧ s'.dbg = { s.dbg with err := BitVec.ofNat 2 err, busy := false, data := data } ∧
    s'.troupe tk = some t' ∧ (∀ k, k ≠ tk → s'.troupe k = s.troupe k) ∧ s'.mem = s.mem ∧ s'.scratch = s.scratch

/-- R419 to R424: HALT halts the troupe, with SLOT_RESUME 8 between bundles and its slot at a split, and drains its results; every other command sets ERR 1 on a running troupe, and all set
ERR 2 without a troupe of CTX and ERR 3 for KIND 3; RESUME and STEP let it go on; the reads put a register in DATA, and the
writes change the one register that the selection names; a write of the resume PC within a bundle ends that bundle.
Readings of the model: log 33. -/
def Obligations.DebuggerReadsAndWrites : Prop :=
  let others : List Instr := [.resume, .stepDbg, .qread, .qwrite, .gread, .debugGwrite, .sread, .swrite]
  (∀ s i, i ∈ Instr.debugHalt :: others →
    (s.dbg.sel.toNat / 2 ^ 27 % 4 = 3 → exec i s = .next { s with dbg := { s.dbg with err := 3, busy := false } }) ∧
    (s.dbg.en = false → s.dbg.sel.toNat / 2 ^ 27 % 4 ≠ 3 → exec i s = .next { s with dbg := { s.dbg with err := 2, busy := false } })) ∧
  (∀ s tk n t, Selects s tk n t →
    let d := s.dbg.data
    let idx := s.dbg.sel.toNat / 2 ^ 20 % 32
    let pos := s.dbg.sel.toNat / 2 ^ 25 % 4
    (t.halt ≠ .halted → (∀ i, i ∈ others → Ended i s tk 1 d t) ∧
      (∃ t', Ended .debugHalt s tk 0 d t' ∧ t'.halt = .halted ∧ t'.pc = t.pc ∧ t'.g = t.g ∧ t'.active = t.active ∧ t'.split = t.split) ∧
      (t.split = none → kfind s.holds tk = none → t.replay = [] → t.origins = [] →
        Ended .debugHalt s tk 0 d (drainTroupe s.now { t with halt := .halted, slotResume := 8 })) ∧
      (∀ p, t.split = some p → kfind s.holds tk = none → t.replay = [] → t.origins = [] →
        ∃ t', Ended .debugHalt s tk 0 d t' ∧ t'.slotResume = BitVec.ofNat 4 p.slot ∧ t'.redo = p.redo ∧ t'.redoPass = p.pass)) ∧
    (t.halt = .halted → Ended .debugHalt s tk 0 d t ∧
      (t.late = [] →
        Ended .resume s tk 0 d { t with halt := .running } ∧ Ended .stepDbg s tk 0 d { t with halt := .stepping }) ∧
      (t.late ≠ [] → t.wait = none → kfind s.holds tk = none →
        Ended .resume s tk 0 d { t with halt := .running, surfaced := true } ∧
        Ended .stepDbg s tk 0 d { t with halt := .stepping, surfaced := true }) ∧
      (((t.thread n).queue idx)[pos]? = none → Ended .qread s tk 0 0 t ∧ Ended .qwrite s tk 3 d t)) ∧
    (t.halt = .halted → ∀ e, ((t.thread n).queue idx)[pos]? = some e →
      (∀ v b, e.pos = .filled v b → Ended .qread s tk 0 (BitVec.ofNat 64 (v.toNat + 2 ^ 32)) t ∧
        ∃ t', Ended .qwrite s tk 0 d t' ∧ t'.g = t.g ∧ t'.active = t.active ∧ t'.pc = t.pc ∧
          ((t'.thread n).queue idx)[pos]? = some { e with pos := .filled (d.setWidth 32) false, edited := true } ∧
          (∀ k, k ≠ pos → ((t'.thread n).queue idx)[k]? = ((t.thread n).queue idx)[k]?) ∧
          (∀ j q, j ≠ n ∨ q ≠ idx → (t'.thread j).queue q = (t.thread j).queue q)) ∧
      (∀ c ea, e.pos = .mark c ea → ∃ t', Ended .qwrite s tk 0 d t' ∧
        ((t'.thread n).queue idx)[pos]? = some { e with pos := .filled (d.setWidth 32) false, edited := true }) ∧
      (∀ id, e.pos = .reserved id → Ended .qread s tk 0 0 t ∧ Ended .qwrite s tk 3 d t) ∧
      (∀ id l v, e.pos = .tagged id l (.word v) → l < 256 → Ended .qread s tk 0 (BitVec.ofNat 64 (v.toNat + 2 ^ 33 + l * 2 ^ 40)) t)) ∧
    (t.halt = .halted →
      (idx < 16 → Ended .gread s tk 0 (t.gread idx) t ∧ Ended .debugGwrite s tk 0 d { t with g := kset t.g idx d }) ∧
      (idx = 0 → Ended .sread s tk 0 (BitVec.ofNat 64 t.pc) t ∧
        (t.split = none → kfind s.holds tk = none →
          Ended .swrite s tk 0 d { t with pc := d.toNat % 2 ^ 56, fell := false, split := none, wait := none, slotResume := 0, redo := 0 }) ∧
        (∀ p, t.split = some p → kfind s.holds tk = none → ∃ t', Ended .swrite s tk 0 d t' ∧ t'.pc = d.toNat % 2 ^ 56 ∧ t'.split = none ∧
          t'.wait = none ∧ t'.slotResume = 0 ∧ t'.redo = 0 ∧ (p.slot ≠ 0 ∨ t.origins = [] → t'.clause = t.clause.step) ∧
          (p.slot = 0 → (∃ o, o ∈ t.origins ∧ o.async = false ∧ o.cause = 0x02) → t'.clause = t.clause) ∧
          t'.g = t.g ∧ t'.active = t.active)) ∧
      (idx = 1 → Ended .sread s tk 0 ((t.thread n).preds.setWidth 64) t ∧
        Ended .swrite s tk 0 d (t.setThread n { t.thread n with preds := d.setWidth 7 })) ∧
      (idx = 2 → Ended .sread s tk 0 (t.active.setWidth 64) t ∧ Ended .swrite s tk 0 d { t with active := d.setWidth 16 }) ∧
      (idx = 3 → Ended .sread s tk 0 (statValue t) t ∧
        Ended .swrite s tk 0 d { t with fpEnable := d.extractLsb' 11 5, fpFlags := d.extractLsb' 6 5, sat := d.extractLsb' 5 1 })))

/-! ## The machine as a whole -/

/-- R72, R87, R138, R217, R251, R269, R325, R384, R402, R422, R443 to R445, R455: what the manual gives for reset. Memory and scratch
list nothing (what memory reads then is the model's choice, log 1), and no troupe, company or event is there. -/
def Obligations.ResetHoldsSpecValues : Prop :=
  let s := State.reset
  s.now = 0 ∧ s.mem = [] ∧ s.scratch = [] ∧ s.memOk = true ∧ s.troupes = [] ∧ s.comps = [] ∧ s.enss = [] ∧ s.focus = none ∧ s.agenda = [] ∧
  s.ptbase = 0 ∧ s.seqEn = false ∧ s.passNo = 0 ∧ s.shovf = 0 ∧ s.dbg = { en := false, ctx := 0, sel := 0, data := 0, err := 0, busy := false } ∧
  s.frame.number = 0 ∧ s.tick = 0 ∧ s.frame.period = 1800 ∧ s.frame.en = false ∧ s.frame.lock = false ∧ s.frame.locked = false ∧
  s.frame.lost = false ∧ s.frame.subst = 0 ∧ readyBits s = 0 ∧ s.mgmt.throttle = 0 ∧
  (∀ k, readByte s.scratch k = 0) ∧
  (∀ c, (s.core c).fmt.toNat % 8 = 5 ∧ (s.core c).conflicts = 0 ∧ (s.core c).bypass = 0) ∧
  (∀ c, (s.ctx c).ctxcfg.toNat / 2 ^ 24 % 2 ^ 16 = 1000 ∧ (s.ctx c).ctxcfg.toNat / 2 ^ 8 % 2 ^ 16 = 40 ∧ (s.ctx c).pinQuota = 4096 ∧
    (s.ctx c).osquota = 1024 ∧ (s.ctx c).ptroot = 0 ∧ (s.ctx c).trapvec = 0 ∧ (s.ctx c).pftail = 0)

/-- R25, R31, R51: words written out from the forms and function codes of the opcode map, with the slots that they are. -/
def Obligations.SpecWordsDecode : Prop :=
  decodeWord 0x08306400 = .ok (.add ⟨0, 3, 1, 36, 0, 0, 0⟩) ∧
  decodeWord 0x3C5080D1 = .ok (.ldG ⟨0, 0, 5, 2, 0, 1, 2, 2⟩) ∧
  decodeWord 0x00008BC0 = .ok (.clause ⟨0, 2, 2, 15, 0⟩) ∧
  decodeWord 0x14100062 = .ok (.sari ⟨0, 1, 0, 3, 0, 0⟩) ∧
  decodeWord 0xB0BFFF49 = .ok (.loopG ⟨1, 1, 0x3FFF4⟩) ∧
  decodeWord 0x4F80B803 = .ok (.osleave ⟨0, 2, 0, 0⟩) ∧
  decodeWord 0x50108323 = .ok (.cpyG2s32 ⟨0, 1, 2, 3, 0, 1, 0⟩) ∧
  decodeWord 0x5C400803 = .ok (.vfma ⟨0, 2, 0, 1, 0, 0⟩) ∧
  decodeWord 0x57893801 = .ok (.sleepto ⟨0, 56, 36, 0, 0⟩) ∧
  decodeWord 0xF7894301 = .ok (.trap ⟨1, 37, 3, 0, 0⟩) ∧
  decodeWord 0xF6501005 = .ok (.xwr ⟨1, 37, 0, 16, 0⟩) ∧
  decodeWord 0xF4000403 = .ok (.resolve ⟨1, 0, 0, 4, 0, 0, 0⟩) ∧
  (∃ e, decodeWord 0x7C000000 = .reject e) ∧ (∃ e, decodeWord 0x0830640F = .reject e)

/-- R29, R41, R49, R51: when the word at the slot decodes to a well-formed instruction that the core has, a step is that instruction and
then the next slot, the branch target, or the end of the bundle; any other word raises ILLEGAL_SLOT there with nothing else done, in
the threads that run the slot or, at a header, in those that the bundle's guard passes. A slot that completes a hold has been read. -/
def Obligations.StepRunsDecodedSlot : Prop :=
  ∀ s f w, s.focus = some f → (f.resuming = false → wordAt s f.troupe f.latch f.base f.k = some w) → (f.resuming = true → f.word = w) →
    let g := (readSlot s f).1
    let s₀ : State := { s with focus := some g }
    (g.k = f.k ∧ g.troupe = f.troupe ∧ g.base = f.base ∧ g.pass = f.pass ∧ g.run = f.run) ∧
    (∀ i, decodeWord w = .ok i → slotRuns g w i = true →
      (∀ e, exec i s₀ = .fault e → step s = .fault e) ∧ (∀ r, exec i s₀ = .refused r → step s = .refused r) ∧
      (∀ t, exec i s₀ = .next t →
        (t.focus = none → step s = .next t) ∧
        (∀ h, t.focus = some h → h.troupe = f.troupe → h.last = false → h.resuming = false →
          step s = .next { t with focus := some { h with k := h.k + h.width, run := h.pass, op := none, acted := false, sent := [], answer := none } }) ∧
        (∀ h u a, t.focus = some h → h.troupe = f.troupe → h.last = true → h.target = some a → t.troupe f.troupe = some u →
          u.halt = .running → ∃ s' u', step s = .next s' ∧ s'.focus = none ∧ s'.troupe f.troupe = some u' ∧ u'.pc = a ∧ u'.fell = false ∧
            u'.g = u.g ∧ u'.active = u.active ∧ (∀ k, k ≠ f.troupe → s'.troupe k = t.troupe k) ∧ s'.mem = t.mem ∧ s'.scratch = t.scratch))) ∧
    ((∃ r, decodeWord w = .reject r) ∨ (∃ i, decodeWord w = .ok i ∧ slotRuns g w i = false) →
      ∀ t, s.troupe f.troupe = some t → PlainTrap f t →
        let traps (h : Focus) : Prop := ∃ s' t', step s = .next s' ∧ s'.focus = none ∧ s'.troupe f.troupe = some t' ∧
          TrapTaken h t t' 0x01 0 none h.run ∧ (∀ k, k ≠ f.troupe → s'.troupe k = s.troupe k) ∧ s'.mem = s.mem ∧ s'.scratch = s.scratch
        let header : Prop := f.first = true ∧ f.k = 0 ∧ classOf w = 0
        (¬ header ∨ guardOf s f.troupe f.latch = none → f.run ≠ 0 → traps f) ∧
        (∀ p n r, header → guardOf s f.troupe f.latch = some (p, n) → r = passing f.latch f.pass p n → r ≠ 0 →
          traps { f with pass := r, run := r }))

/-- R31, R51: decoding the word of a well-formed slot gives the slot back, with every field at every value; and the word that decodes
to a slot is the slot's one word, so no bit of a word is dropped. -/
def Obligations.EncodeDecodeRoundTrip : Prop :=
  (∀ i w, wellFormed i = true → encode i = some w → decodeWord w = .ok i) ∧
  (∀ i w, decodeWord w = .ok i → encode i = some w)

/-- From every state whose memory and scratch are in canonical form, a step leads to such a state. -/
def Obligations.StepKeepsMemoryCanonical : Prop :=
  ∀ s s', s.memOk = true → step s = .next s' → s'.memOk = true
end

