-- ==== Sys2Proof/Laws/Keyed.lean ====
section
/-! SUPPORT. Laws of keyed lists, and what they give for the parts of the state that are kept in them. -/

namespace Sys2Proof.Laws

open Sys2Proof.Machine

/-! ## Keyed lists -/

section Lists
variable {α : Type}

@[simp] theorem kfind_kset_same (l : KV α) (k : Nat) (v : α) : kfind (kset l k v) k = some v := by
  induction l with
  | nil => simp [kset, kfind]
  | cons p r ih => obtain ⟨j, w⟩ := p; by_cases h : j = k <;> simp [kset, kfind, h, ih]

theorem kfind_kset_other (l : KV α) {k m : Nat} (v : α) (h : m ≠ k) : kfind (kset l k v) m = kfind l m := by
  induction l with
  | nil => simp [kset, kfind, h.symm]
  | cons p r ih =>
    obtain ⟨j, w⟩ := p
    by_cases e : j = k
    · subst e; simp [kset, kfind, h.symm]
    · simp [kset, kfind, e, ih]

theorem kfind_kset (l : KV α) (k m : Nat) (v : α) : kfind (kset l k v) m = if m = k then some v else kfind l m := by
  split
  · next h => subst h; simp
  · next h => exact kfind_kset_other l v h

@[simp] theorem kget_kset_same (d : α) (l : KV α) (k : Nat) (v : α) : kget d (kset l k v) k = v := by simp [kget]

theorem kget_kset_other (d : α) (l : KV α) {k m : Nat} (v : α) (h : m ≠ k) : kget d (kset l k v) m = kget d l m := by
  simp [kget, kfind_kset_other l v h]

theorem kfind_kupd (l : KV α) (k m : Nat) (g : α → α) :
    kfind (kupd l k g) m = if m = k then (kfind l m).map g else kfind l m := by
  induction l with
  | nil => simp [kupd, kfind]
  | cons p r ih =>
    obtain ⟨j, w⟩ := p
    by_cases h : j = k
    · subst h
      by_cases e : j = m
      · subst e; simp [kupd, kfind]
      · have e' : ¬ m = j := fun x => e x.symm
        simp [kupd, kfind, e, e'] at ih ⊢
        exact ih
    · by_cases e : j = m
      · subst e; simp [kupd, kfind, h]
      · simp [kupd, kfind, h, e] at ih ⊢
        exact ih

@[simp] theorem kfind_kupd_same (l : KV α) (k : Nat) (g : α → α) : kfind (kupd l k g) k = (kfind l k).map g := by
  simp [kfind_kupd]

theorem kfind_kupd_other (l : KV α) {k m : Nat} (g : α → α) (h : m ≠ k) : kfind (kupd l k g) m = kfind l m := by
  simp [kfind_kupd, h]

theorem kfind_kdel (l : KV α) (k m : Nat) : kfind (kdel l k) m = if m = k then none else kfind l m := by
  induction l with
  | nil => simp [kdel, kfind]
  | cons p r ih =>
    obtain ⟨j, w⟩ := p
    by_cases h : j = k
    · subst h
      by_cases e : m = j
      · subst e; simpa [kdel] using ih
      · have e' : ¬ j = m := fun x => e x.symm
        simp [kdel, kfind, e, e'] at ih ⊢; exact ih
    · by_cases e : m = k
      · subst e; simp [kdel, kfind, h] at ih ⊢; exact ih
      · simp [kdel, kfind, h, e] at ih ⊢; simp [ih]

@[simp] theorem length_lset (l : List α) (i : Nat) (v : α) : (lset l i v).length = l.length := by
  induction l generalizing i with
  | nil => rfl
  | cons x r ih => cases i <;> simp [lset, ih]

theorem getElem?_lset (l : List α) (i j : Nat) (v : α) :
    (lset l i v)[j]? = if i = j ∧ i < l.length then some v else l[j]? := by
  induction l generalizing i j with
  | nil => simp [lset]
  | cons x r ih =>
    cases i with
    | zero => cases j <;> simp [lset]
    | succ i =>
      cases j with
      | zero => simp [lset]
      | succ j => simp [lset, ih]

end Lists

/-! ## Parts of the state -/

@[simp] theorem setTroupe_troupe (s : State) (k : Nat) (t : Troupe) : (s.setTroupe k t).troupe k = some t := by
  simp [State.troupe, State.setTroupe]

theorem modTroupe_troupe (s : State) (k m : Nat) (g : Troupe → Troupe) :
    (s.modTroupe k g).troupe m = if m = k then (s.troupe m).map g else s.troupe m := kfind_kupd _ _ _ _

@[simp] theorem modTroupe_troupe_same (s : State) (k : Nat) (g : Troupe → Troupe) :
    (s.modTroupe k g).troupe k = (s.troupe k).map g := by simp [modTroupe_troupe]

theorem modTroupe_troupe_other (s : State) {k m : Nat} (g : Troupe → Troupe) (h : m ≠ k) :
    (s.modTroupe k g).troupe m = s.troupe m := by simp [modTroupe_troupe, h]

theorem modEns_ens (s : State) (k m : Nat) (g : Ensemble → Ensemble) :
    (s.modEns k g).ens m = if m = k then (s.ens m).map g else s.ens m := kfind_kupd _ _ _ _

@[simp] theorem modEns_ens_same (s : State) (k : Nat) (g : Ensemble → Ensemble) :
    (s.modEns k g).ens k = (s.ens k).map g := by simp [modEns_ens]

theorem modComp_comp (s : State) (k m : Nat) (g : Company → Company) :
    (s.modComp k g).comp m = if m = k then (s.comp m).map g else s.comp m := kfind_kupd _ _ _ _

@[simp] theorem modCore_core_same (s : State) (k : Nat) (g : Core → Core) : (s.modCore k g).core k = g (s.core k) := by
  simp [State.core, State.modCore]

theorem modCore_core_other (s : State) {k m : Nat} (g : Core → Core) (h : m ≠ k) : (s.modCore k g).core m = s.core m := by
  simp [State.core, State.modCore, kget_kset_other _ _ _ h]

@[simp] theorem modUnit_tile_same (s : State) (k : Nat) (g : TileUnit → TileUnit) : (s.modUnit k g).tile k = g (s.tile k) := by
  simp [State.tile, State.modUnit]

theorem modUnit_tile_other (s : State) {k m : Nat} (g : TileUnit → TileUnit) (h : m ≠ k) : (s.modUnit k g).tile m = s.tile m := by
  simp [State.tile, State.modUnit, kget_kset_other _ _ _ h]

@[simp] theorem modCtx_ctx_same (s : State) (k : Nat) (g : Ctx → Ctx) : (s.modCtx k g).ctx k = g (s.ctx k) := by
  simp [State.ctx, State.modCtx]

/-- An update that changes no troupe list leaves every troupe. -/
theorem troupe_congr {s s' : State} (h : s'.troupes = s.troupes) (k : Nat) : s'.troupe k = s.troupe k := by simp [State.troupe, h]

end Sys2Proof.Laws
end

