-- ==== Sys2Proof/Laws/State.lean ====
section
/-! SUPPORT. What each update of the state does to each field: one lemma a field, true by `rfl`, for `simp`. -/

namespace Sys2Proof.Laws

open Sys2Proof.Machine

/-! ## `State.setTroupe` -/

@[simp] theorem setTroupe_now (s : State) (k : Nat) (t : Troupe) : (s.setTroupe k t).now = s.now := rfl
@[simp] theorem setTroupe_mem (s : State) (k : Nat) (t : Troupe) : (s.setTroupe k t).mem = s.mem := rfl
@[simp] theorem setTroupe_memTag (s : State) (k : Nat) (t : Troupe) : (s.setTroupe k t).memTag = s.memTag := rfl
@[simp] theorem setTroupe_keys (s : State) (k : Nat) (t : Troupe) : (s.setTroupe k t).keys = s.keys := rfl
@[simp] theorem setTroupe_badMem (s : State) (k : Nat) (t : Troupe) : (s.setTroupe k t).badMem = s.badMem := rfl
@[simp] theorem setTroupe_badScr (s : State) (k : Nat) (t : Troupe) : (s.setTroupe k t).badScr = s.badScr := rfl
@[simp] theorem setTroupe_scratch (s : State) (k : Nat) (t : Troupe) : (s.setTroupe k t).scratch = s.scratch := rfl
@[simp] theorem setTroupe_storeQ (s : State) (k : Nat) (t : Troupe) : (s.setTroupe k t).storeQ = s.storeQ := rfl
@[simp] theorem setTroupe_waitQ (s : State) (k : Nat) (t : Troupe) : (s.setTroupe k t).waitQ = s.waitQ := rfl
@[simp] theorem setTroupe_units (s : State) (k : Nat) (t : Troupe) : (s.setTroupe k t).units = s.units := rfl
@[simp] theorem setTroupe_cores (s : State) (k : Nat) (t : Troupe) : (s.setTroupe k t).cores = s.cores := rfl
@[simp] theorem setTroupe_holds (s : State) (k : Nat) (t : Troupe) : (s.setTroupe k t).holds = s.holds := rfl
@[simp] theorem setTroupe_enss (s : State) (k : Nat) (t : Troupe) : (s.setTroupe k t).enss = s.enss := rfl
@[simp] theorem setTroupe_comps (s : State) (k : Nat) (t : Troupe) : (s.setTroupe k t).comps = s.comps := rfl
@[simp] theorem setTroupe_ctxs (s : State) (k : Nat) (t : Troupe) : (s.setTroupe k t).ctxs = s.ctxs := rfl
@[simp] theorem setTroupe_sections (s : State) (k : Nat) (t : Troupe) : (s.setTroupe k t).sections = s.sections := rfl
@[simp] theorem setTroupe_doneAt (s : State) (k : Nat) (t : Troupe) : (s.setTroupe k t).doneAt = s.doneAt := rfl
@[simp] theorem setTroupe_slices (s : State) (k : Nat) (t : Troupe) : (s.setTroupe k t).slices = s.slices := rfl
@[simp] theorem setTroupe_replicas (s : State) (k : Nat) (t : Troupe) : (s.setTroupe k t).replicas = s.replicas := rfl
@[simp] theorem setTroupe_remote (s : State) (k : Nat) (t : Troupe) : (s.setTroupe k t).remote = s.remote := rfl
@[simp] theorem setTroupe_shells (s : State) (k : Nat) (t : Troupe) : (s.setTroupe k t).shells = s.shells := rfl
@[simp] theorem setTroupe_saved (s : State) (k : Nat) (t : Troupe) : (s.setTroupe k t).saved = s.saved := rfl
@[simp] theorem setTroupe_savedUnits (s : State) (k : Nat) (t : Troupe) : (s.setTroupe k t).savedUnits = s.savedUnits := rfl
@[simp] theorem setTroupe_rowCtx (s : State) (k : Nat) (t : Troupe) : (s.setTroupe k t).rowCtx = s.rowCtx := rfl
@[simp] theorem setTroupe_dbg (s : State) (k : Nat) (t : Troupe) : (s.setTroupe k t).dbg = s.dbg := rfl
@[simp] theorem setTroupe_mesh (s : State) (k : Nat) (t : Troupe) : (s.setTroupe k t).mesh = s.mesh := rfl
@[simp] theorem setTroupe_turns (s : State) (k : Nat) (t : Troupe) : (s.setTroupe k t).turns = s.turns := rfl
@[simp] theorem setTroupe_ptbase (s : State) (k : Nat) (t : Troupe) : (s.setTroupe k t).ptbase = s.ptbase := rfl
@[simp] theorem setTroupe_seqEn (s : State) (k : Nat) (t : Troupe) : (s.setTroupe k t).seqEn = s.seqEn := rfl
@[simp] theorem setTroupe_passNo (s : State) (k : Nat) (t : Troupe) : (s.setTroupe k t).passNo = s.passNo := rfl
@[simp] theorem setTroupe_shovf (s : State) (k : Nat) (t : Troupe) : (s.setTroupe k t).shovf = s.shovf := rfl
@[simp] theorem setTroupe_parts (s : State) (k : Nat) (t : Troupe) : (s.setTroupe k t).parts = s.parts := rfl
@[simp] theorem setTroupe_tails (s : State) (k : Nat) (t : Troupe) : (s.setTroupe k t).tails = s.tails := rfl
@[simp] theorem setTroupe_frame (s : State) (k : Nat) (t : Troupe) : (s.setTroupe k t).frame = s.frame := rfl
@[simp] theorem setTroupe_outputs (s : State) (k : Nat) (t : Troupe) : (s.setTroupe k t).outputs = s.outputs := rfl
@[simp] theorem setTroupe_debug (s : State) (k : Nat) (t : Troupe) : (s.setTroupe k t).dbg = s.dbg := rfl
@[simp] theorem setTroupe_mgmt (s : State) (k : Nat) (t : Troupe) : (s.setTroupe k t).mgmt = s.mgmt := rfl
@[simp] theorem setTroupe_agenda (s : State) (k : Nat) (t : Troupe) : (s.setTroupe k t).agenda = s.agenda := rfl
@[simp] theorem setTroupe_inbox (s : State) (k : Nat) (t : Troupe) : (s.setTroupe k t).inbox = s.inbox := rfl
@[simp] theorem setTroupe_focus (s : State) (k : Nat) (t : Troupe) : (s.setTroupe k t).focus = s.focus := rfl
@[simp] theorem setTroupe_tested (s : State) (k : Nat) (t : Troupe) : (s.setTroupe k t).tested = s.tested := rfl
@[simp] theorem setTroupe_ids (s : State) (k : Nat) (t : Troupe) : (s.setTroupe k t).ids = s.ids := rfl
@[simp] theorem setTroupe_draws (s : State) (k : Nat) (t : Troupe) : (s.setTroupe k t).draws = s.draws := rfl

/-! ## `State.modTroupe` -/

@[simp] theorem modTroupe_now (s : State) (k : Nat) (g : Troupe → Troupe) : (s.modTroupe k g).now = s.now := rfl
@[simp] theorem modTroupe_mem (s : State) (k : Nat) (g : Troupe → Troupe) : (s.modTroupe k g).mem = s.mem := rfl
@[simp] theorem modTroupe_memTag (s : State) (k : Nat) (g : Troupe → Troupe) : (s.modTroupe k g).memTag = s.memTag := rfl
@[simp] theorem modTroupe_keys (s : State) (k : Nat) (g : Troupe → Troupe) : (s.modTroupe k g).keys = s.keys := rfl
@[simp] theorem modTroupe_badMem (s : State) (k : Nat) (g : Troupe → Troupe) : (s.modTroupe k g).badMem = s.badMem := rfl
@[simp] theorem modTroupe_badScr (s : State) (k : Nat) (g : Troupe → Troupe) : (s.modTroupe k g).badScr = s.badScr := rfl
@[simp] theorem modTroupe_scratch (s : State) (k : Nat) (g : Troupe → Troupe) : (s.modTroupe k g).scratch = s.scratch := rfl
@[simp] theorem modTroupe_storeQ (s : State) (k : Nat) (g : Troupe → Troupe) : (s.modTroupe k g).storeQ = s.storeQ := rfl
@[simp] theorem modTroupe_waitQ (s : State) (k : Nat) (g : Troupe → Troupe) : (s.modTroupe k g).waitQ = s.waitQ := rfl
@[simp] theorem modTroupe_units (s : State) (k : Nat) (g : Troupe → Troupe) : (s.modTroupe k g).units = s.units := rfl
@[simp] theorem modTroupe_cores (s : State) (k : Nat) (g : Troupe → Troupe) : (s.modTroupe k g).cores = s.cores := rfl
@[simp] theorem modTroupe_holds (s : State) (k : Nat) (g : Troupe → Troupe) : (s.modTroupe k g).holds = s.holds := rfl
@[simp] theorem modTroupe_enss (s : State) (k : Nat) (g : Troupe → Troupe) : (s.modTroupe k g).enss = s.enss := rfl
@[simp] theorem modTroupe_comps (s : State) (k : Nat) (g : Troupe → Troupe) : (s.modTroupe k g).comps = s.comps := rfl
@[simp] theorem modTroupe_ctxs (s : State) (k : Nat) (g : Troupe → Troupe) : (s.modTroupe k g).ctxs = s.ctxs := rfl
@[simp] theorem modTroupe_sections (s : State) (k : Nat) (g : Troupe → Troupe) : (s.modTroupe k g).sections = s.sections := rfl
@[simp] theorem modTroupe_doneAt (s : State) (k : Nat) (g : Troupe → Troupe) : (s.modTroupe k g).doneAt = s.doneAt := rfl
@[simp] theorem modTroupe_slices (s : State) (k : Nat) (g : Troupe → Troupe) : (s.modTroupe k g).slices = s.slices := rfl
@[simp] theorem modTroupe_replicas (s : State) (k : Nat) (g : Troupe → Troupe) : (s.modTroupe k g).replicas = s.replicas := rfl
@[simp] theorem modTroupe_remote (s : State) (k : Nat) (g : Troupe → Troupe) : (s.modTroupe k g).remote = s.remote := rfl
@[simp] theorem modTroupe_shells (s : State) (k : Nat) (g : Troupe → Troupe) : (s.modTroupe k g).shells = s.shells := rfl
@[simp] theorem modTroupe_saved (s : State) (k : Nat) (g : Troupe → Troupe) : (s.modTroupe k g).saved = s.saved := rfl
@[simp] theorem modTroupe_savedUnits (s : State) (k : Nat) (g : Troupe → Troupe) : (s.modTroupe k g).savedUnits = s.savedUnits := rfl
@[simp] theorem modTroupe_rowCtx (s : State) (k : Nat) (g : Troupe → Troupe) : (s.modTroupe k g).rowCtx = s.rowCtx := rfl
@[simp] theorem modTroupe_dbg (s : State) (k : Nat) (g : Troupe → Troupe) : (s.modTroupe k g).dbg = s.dbg := rfl
@[simp] theorem modTroupe_mesh (s : State) (k : Nat) (g : Troupe → Troupe) : (s.modTroupe k g).mesh = s.mesh := rfl
@[simp] theorem modTroupe_turns (s : State) (k : Nat) (g : Troupe → Troupe) : (s.modTroupe k g).turns = s.turns := rfl
@[simp] theorem modTroupe_ptbase (s : State) (k : Nat) (g : Troupe → Troupe) : (s.modTroupe k g).ptbase = s.ptbase := rfl
@[simp] theorem modTroupe_seqEn (s : State) (k : Nat) (g : Troupe → Troupe) : (s.modTroupe k g).seqEn = s.seqEn := rfl
@[simp] theorem modTroupe_passNo (s : State) (k : Nat) (g : Troupe → Troupe) : (s.modTroupe k g).passNo = s.passNo := rfl
@[simp] theorem modTroupe_shovf (s : State) (k : Nat) (g : Troupe → Troupe) : (s.modTroupe k g).shovf = s.shovf := rfl
@[simp] theorem modTroupe_parts (s : State) (k : Nat) (g : Troupe → Troupe) : (s.modTroupe k g).parts = s.parts := rfl
@[simp] theorem modTroupe_tails (s : State) (k : Nat) (g : Troupe → Troupe) : (s.modTroupe k g).tails = s.tails := rfl
@[simp] theorem modTroupe_frame (s : State) (k : Nat) (g : Troupe → Troupe) : (s.modTroupe k g).frame = s.frame := rfl
@[simp] theorem modTroupe_outputs (s : State) (k : Nat) (g : Troupe → Troupe) : (s.modTroupe k g).outputs = s.outputs := rfl
@[simp] theorem modTroupe_debug (s : State) (k : Nat) (g : Troupe → Troupe) : (s.modTroupe k g).dbg = s.dbg := rfl
@[simp] theorem modTroupe_mgmt (s : State) (k : Nat) (g : Troupe → Troupe) : (s.modTroupe k g).mgmt = s.mgmt := rfl
@[simp] theorem modTroupe_agenda (s : State) (k : Nat) (g : Troupe → Troupe) : (s.modTroupe k g).agenda = s.agenda := rfl
@[simp] theorem modTroupe_inbox (s : State) (k : Nat) (g : Troupe → Troupe) : (s.modTroupe k g).inbox = s.inbox := rfl
@[simp] theorem modTroupe_focus (s : State) (k : Nat) (g : Troupe → Troupe) : (s.modTroupe k g).focus = s.focus := rfl
@[simp] theorem modTroupe_tested (s : State) (k : Nat) (g : Troupe → Troupe) : (s.modTroupe k g).tested = s.tested := rfl
@[simp] theorem modTroupe_ids (s : State) (k : Nat) (g : Troupe → Troupe) : (s.modTroupe k g).ids = s.ids := rfl
@[simp] theorem modTroupe_draws (s : State) (k : Nat) (g : Troupe → Troupe) : (s.modTroupe k g).draws = s.draws := rfl

/-! ## `State.modCore` -/

@[simp] theorem modCore_now (s : State) (k : Nat) (g : Core → Core) : (s.modCore k g).now = s.now := rfl
@[simp] theorem modCore_mem (s : State) (k : Nat) (g : Core → Core) : (s.modCore k g).mem = s.mem := rfl
@[simp] theorem modCore_memTag (s : State) (k : Nat) (g : Core → Core) : (s.modCore k g).memTag = s.memTag := rfl
@[simp] theorem modCore_keys (s : State) (k : Nat) (g : Core → Core) : (s.modCore k g).keys = s.keys := rfl
@[simp] theorem modCore_badMem (s : State) (k : Nat) (g : Core → Core) : (s.modCore k g).badMem = s.badMem := rfl
@[simp] theorem modCore_badScr (s : State) (k : Nat) (g : Core → Core) : (s.modCore k g).badScr = s.badScr := rfl
@[simp] theorem modCore_scratch (s : State) (k : Nat) (g : Core → Core) : (s.modCore k g).scratch = s.scratch := rfl
@[simp] theorem modCore_storeQ (s : State) (k : Nat) (g : Core → Core) : (s.modCore k g).storeQ = s.storeQ := rfl
@[simp] theorem modCore_waitQ (s : State) (k : Nat) (g : Core → Core) : (s.modCore k g).waitQ = s.waitQ := rfl
@[simp] theorem modCore_units (s : State) (k : Nat) (g : Core → Core) : (s.modCore k g).units = s.units := rfl
@[simp] theorem modCore_troupes (s : State) (k : Nat) (g : Core → Core) : (s.modCore k g).troupes = s.troupes := rfl
@[simp] theorem modCore_holds (s : State) (k : Nat) (g : Core → Core) : (s.modCore k g).holds = s.holds := rfl
@[simp] theorem modCore_enss (s : State) (k : Nat) (g : Core → Core) : (s.modCore k g).enss = s.enss := rfl
@[simp] theorem modCore_comps (s : State) (k : Nat) (g : Core → Core) : (s.modCore k g).comps = s.comps := rfl
@[simp] theorem modCore_ctxs (s : State) (k : Nat) (g : Core → Core) : (s.modCore k g).ctxs = s.ctxs := rfl
@[simp] theorem modCore_sections (s : State) (k : Nat) (g : Core → Core) : (s.modCore k g).sections = s.sections := rfl
@[simp] theorem modCore_doneAt (s : State) (k : Nat) (g : Core → Core) : (s.modCore k g).doneAt = s.doneAt := rfl
@[simp] theorem modCore_slices (s : State) (k : Nat) (g : Core → Core) : (s.modCore k g).slices = s.slices := rfl
@[simp] theorem modCore_replicas (s : State) (k : Nat) (g : Core → Core) : (s.modCore k g).replicas = s.replicas := rfl
@[simp] theorem modCore_remote (s : State) (k : Nat) (g : Core → Core) : (s.modCore k g).remote = s.remote := rfl
@[simp] theorem modCore_shells (s : State) (k : Nat) (g : Core → Core) : (s.modCore k g).shells = s.shells := rfl
@[simp] theorem modCore_saved (s : State) (k : Nat) (g : Core → Core) : (s.modCore k g).saved = s.saved := rfl
@[simp] theorem modCore_savedUnits (s : State) (k : Nat) (g : Core → Core) : (s.modCore k g).savedUnits = s.savedUnits := rfl
@[simp] theorem modCore_rowCtx (s : State) (k : Nat) (g : Core → Core) : (s.modCore k g).rowCtx = s.rowCtx := rfl
@[simp] theorem modCore_dbg (s : State) (k : Nat) (g : Core → Core) : (s.modCore k g).dbg = s.dbg := rfl
@[simp] theorem modCore_mesh (s : State) (k : Nat) (g : Core → Core) : (s.modCore k g).mesh = s.mesh := rfl
@[simp] theorem modCore_turns (s : State) (k : Nat) (g : Core → Core) : (s.modCore k g).turns = s.turns := rfl
@[simp] theorem modCore_ptbase (s : State) (k : Nat) (g : Core → Core) : (s.modCore k g).ptbase = s.ptbase := rfl
@[simp] theorem modCore_seqEn (s : State) (k : Nat) (g : Core → Core) : (s.modCore k g).seqEn = s.seqEn := rfl
@[simp] theorem modCore_passNo (s : State) (k : Nat) (g : Core → Core) : (s.modCore k g).passNo = s.passNo := rfl
@[simp] theorem modCore_shovf (s : State) (k : Nat) (g : Core → Core) : (s.modCore k g).shovf = s.shovf := rfl
@[simp] theorem modCore_parts (s : State) (k : Nat) (g : Core → Core) : (s.modCore k g).parts = s.parts := rfl
@[simp] theorem modCore_tails (s : State) (k : Nat) (g : Core → Core) : (s.modCore k g).tails = s.tails := rfl
@[simp] theorem modCore_frame (s : State) (k : Nat) (g : Core → Core) : (s.modCore k g).frame = s.frame := rfl
@[simp] theorem modCore_outputs (s : State) (k : Nat) (g : Core → Core) : (s.modCore k g).outputs = s.outputs := rfl
@[simp] theorem modCore_debug (s : State) (k : Nat) (g : Core → Core) : (s.modCore k g).dbg = s.dbg := rfl
@[simp] theorem modCore_mgmt (s : State) (k : Nat) (g : Core → Core) : (s.modCore k g).mgmt = s.mgmt := rfl
@[simp] theorem modCore_agenda (s : State) (k : Nat) (g : Core → Core) : (s.modCore k g).agenda = s.agenda := rfl
@[simp] theorem modCore_inbox (s : State) (k : Nat) (g : Core → Core) : (s.modCore k g).inbox = s.inbox := rfl
@[simp] theorem modCore_focus (s : State) (k : Nat) (g : Core → Core) : (s.modCore k g).focus = s.focus := rfl
@[simp] theorem modCore_tested (s : State) (k : Nat) (g : Core → Core) : (s.modCore k g).tested = s.tested := rfl
@[simp] theorem modCore_ids (s : State) (k : Nat) (g : Core → Core) : (s.modCore k g).ids = s.ids := rfl
@[simp] theorem modCore_draws (s : State) (k : Nat) (g : Core → Core) : (s.modCore k g).draws = s.draws := rfl

/-! ## `State.modUnit` -/

@[simp] theorem modUnit_now (s : State) (k : Nat) (g : TileUnit → TileUnit) : (s.modUnit k g).now = s.now := rfl
@[simp] theorem modUnit_mem (s : State) (k : Nat) (g : TileUnit → TileUnit) : (s.modUnit k g).mem = s.mem := rfl
@[simp] theorem modUnit_memTag (s : State) (k : Nat) (g : TileUnit → TileUnit) : (s.modUnit k g).memTag = s.memTag := rfl
@[simp] theorem modUnit_keys (s : State) (k : Nat) (g : TileUnit → TileUnit) : (s.modUnit k g).keys = s.keys := rfl
@[simp] theorem modUnit_badMem (s : State) (k : Nat) (g : TileUnit → TileUnit) : (s.modUnit k g).badMem = s.badMem := rfl
@[simp] theorem modUnit_badScr (s : State) (k : Nat) (g : TileUnit → TileUnit) : (s.modUnit k g).badScr = s.badScr := rfl
@[simp] theorem modUnit_scratch (s : State) (k : Nat) (g : TileUnit → TileUnit) : (s.modUnit k g).scratch = s.scratch := rfl
@[simp] theorem modUnit_storeQ (s : State) (k : Nat) (g : TileUnit → TileUnit) : (s.modUnit k g).storeQ = s.storeQ := rfl
@[simp] theorem modUnit_waitQ (s : State) (k : Nat) (g : TileUnit → TileUnit) : (s.modUnit k g).waitQ = s.waitQ := rfl
@[simp] theorem modUnit_cores (s : State) (k : Nat) (g : TileUnit → TileUnit) : (s.modUnit k g).cores = s.cores := rfl
@[simp] theorem modUnit_troupes (s : State) (k : Nat) (g : TileUnit → TileUnit) : (s.modUnit k g).troupes = s.troupes := rfl
@[simp] theorem modUnit_holds (s : State) (k : Nat) (g : TileUnit → TileUnit) : (s.modUnit k g).holds = s.holds := rfl
@[simp] theorem modUnit_enss (s : State) (k : Nat) (g : TileUnit → TileUnit) : (s.modUnit k g).enss = s.enss := rfl
@[simp] theorem modUnit_comps (s : State) (k : Nat) (g : TileUnit → TileUnit) : (s.modUnit k g).comps = s.comps := rfl
@[simp] theorem modUnit_ctxs (s : State) (k : Nat) (g : TileUnit → TileUnit) : (s.modUnit k g).ctxs = s.ctxs := rfl
@[simp] theorem modUnit_sections (s : State) (k : Nat) (g : TileUnit → TileUnit) : (s.modUnit k g).sections = s.sections := rfl
@[simp] theorem modUnit_doneAt (s : State) (k : Nat) (g : TileUnit → TileUnit) : (s.modUnit k g).doneAt = s.doneAt := rfl
@[simp] theorem modUnit_slices (s : State) (k : Nat) (g : TileUnit → TileUnit) : (s.modUnit k g).slices = s.slices := rfl
@[simp] theorem modUnit_replicas (s : State) (k : Nat) (g : TileUnit → TileUnit) : (s.modUnit k g).replicas = s.replicas := rfl
@[simp] theorem modUnit_remote (s : State) (k : Nat) (g : TileUnit → TileUnit) : (s.modUnit k g).remote = s.remote := rfl
@[simp] theorem modUnit_shells (s : State) (k : Nat) (g : TileUnit → TileUnit) : (s.modUnit k g).shells = s.shells := rfl
@[simp] theorem modUnit_saved (s : State) (k : Nat) (g : TileUnit → TileUnit) : (s.modUnit k g).saved = s.saved := rfl
@[simp] theorem modUnit_savedUnits (s : State) (k : Nat) (g : TileUnit → TileUnit) : (s.modUnit k g).savedUnits = s.savedUnits := rfl
@[simp] theorem modUnit_rowCtx (s : State) (k : Nat) (g : TileUnit → TileUnit) : (s.modUnit k g).rowCtx = s.rowCtx := rfl
@[simp] theorem modUnit_dbg (s : State) (k : Nat) (g : TileUnit → TileUnit) : (s.modUnit k g).dbg = s.dbg := rfl
@[simp] theorem modUnit_mesh (s : State) (k : Nat) (g : TileUnit → TileUnit) : (s.modUnit k g).mesh = s.mesh := rfl
@[simp] theorem modUnit_turns (s : State) (k : Nat) (g : TileUnit → TileUnit) : (s.modUnit k g).turns = s.turns := rfl
@[simp] theorem modUnit_ptbase (s : State) (k : Nat) (g : TileUnit → TileUnit) : (s.modUnit k g).ptbase = s.ptbase := rfl
@[simp] theorem modUnit_seqEn (s : State) (k : Nat) (g : TileUnit → TileUnit) : (s.modUnit k g).seqEn = s.seqEn := rfl
@[simp] theorem modUnit_passNo (s : State) (k : Nat) (g : TileUnit → TileUnit) : (s.modUnit k g).passNo = s.passNo := rfl
@[simp] theorem modUnit_shovf (s : State) (k : Nat) (g : TileUnit → TileUnit) : (s.modUnit k g).shovf = s.shovf := rfl
@[simp] theorem modUnit_parts (s : State) (k : Nat) (g : TileUnit → TileUnit) : (s.modUnit k g).parts = s.parts := rfl
@[simp] theorem modUnit_tails (s : State) (k : Nat) (g : TileUnit → TileUnit) : (s.modUnit k g).tails = s.tails := rfl
@[simp] theorem modUnit_frame (s : State) (k : Nat) (g : TileUnit → TileUnit) : (s.modUnit k g).frame = s.frame := rfl
@[simp] theorem modUnit_outputs (s : State) (k : Nat) (g : TileUnit → TileUnit) : (s.modUnit k g).outputs = s.outputs := rfl
@[simp] theorem modUnit_debug (s : State) (k : Nat) (g : TileUnit → TileUnit) : (s.modUnit k g).dbg = s.dbg := rfl
@[simp] theorem modUnit_mgmt (s : State) (k : Nat) (g : TileUnit → TileUnit) : (s.modUnit k g).mgmt = s.mgmt := rfl
@[simp] theorem modUnit_agenda (s : State) (k : Nat) (g : TileUnit → TileUnit) : (s.modUnit k g).agenda = s.agenda := rfl
@[simp] theorem modUnit_inbox (s : State) (k : Nat) (g : TileUnit → TileUnit) : (s.modUnit k g).inbox = s.inbox := rfl
@[simp] theorem modUnit_focus (s : State) (k : Nat) (g : TileUnit → TileUnit) : (s.modUnit k g).focus = s.focus := rfl
@[simp] theorem modUnit_tested (s : State) (k : Nat) (g : TileUnit → TileUnit) : (s.modUnit k g).tested = s.tested := rfl
@[simp] theorem modUnit_ids (s : State) (k : Nat) (g : TileUnit → TileUnit) : (s.modUnit k g).ids = s.ids := rfl
@[simp] theorem modUnit_draws (s : State) (k : Nat) (g : TileUnit → TileUnit) : (s.modUnit k g).draws = s.draws := rfl

/-! ## `State.modCtx` -/

@[simp] theorem modCtx_now (s : State) (k : Nat) (g : Ctx → Ctx) : (s.modCtx k g).now = s.now := rfl
@[simp] theorem modCtx_mem (s : State) (k : Nat) (g : Ctx → Ctx) : (s.modCtx k g).mem = s.mem := rfl
@[simp] theorem modCtx_memTag (s : State) (k : Nat) (g : Ctx → Ctx) : (s.modCtx k g).memTag = s.memTag := rfl
@[simp] theorem modCtx_keys (s : State) (k : Nat) (g : Ctx → Ctx) : (s.modCtx k g).keys = s.keys := rfl
@[simp] theorem modCtx_badMem (s : State) (k : Nat) (g : Ctx → Ctx) : (s.modCtx k g).badMem = s.badMem := rfl
@[simp] theorem modCtx_badScr (s : State) (k : Nat) (g : Ctx → Ctx) : (s.modCtx k g).badScr = s.badScr := rfl
@[simp] theorem modCtx_scratch (s : State) (k : Nat) (g : Ctx → Ctx) : (s.modCtx k g).scratch = s.scratch := rfl
@[simp] theorem modCtx_storeQ (s : State) (k : Nat) (g : Ctx → Ctx) : (s.modCtx k g).storeQ = s.storeQ := rfl
@[simp] theorem modCtx_waitQ (s : State) (k : Nat) (g : Ctx → Ctx) : (s.modCtx k g).waitQ = s.waitQ := rfl
@[simp] theorem modCtx_units (s : State) (k : Nat) (g : Ctx → Ctx) : (s.modCtx k g).units = s.units := rfl
@[simp] theorem modCtx_cores (s : State) (k : Nat) (g : Ctx → Ctx) : (s.modCtx k g).cores = s.cores := rfl
@[simp] theorem modCtx_troupes (s : State) (k : Nat) (g : Ctx → Ctx) : (s.modCtx k g).troupes = s.troupes := rfl
@[simp] theorem modCtx_holds (s : State) (k : Nat) (g : Ctx → Ctx) : (s.modCtx k g).holds = s.holds := rfl
@[simp] theorem modCtx_enss (s : State) (k : Nat) (g : Ctx → Ctx) : (s.modCtx k g).enss = s.enss := rfl
@[simp] theorem modCtx_comps (s : State) (k : Nat) (g : Ctx → Ctx) : (s.modCtx k g).comps = s.comps := rfl
@[simp] theorem modCtx_sections (s : State) (k : Nat) (g : Ctx → Ctx) : (s.modCtx k g).sections = s.sections := rfl
@[simp] theorem modCtx_doneAt (s : State) (k : Nat) (g : Ctx → Ctx) : (s.modCtx k g).doneAt = s.doneAt := rfl
@[simp] theorem modCtx_slices (s : State) (k : Nat) (g : Ctx → Ctx) : (s.modCtx k g).slices = s.slices := rfl
@[simp] theorem modCtx_replicas (s : State) (k : Nat) (g : Ctx → Ctx) : (s.modCtx k g).replicas = s.replicas := rfl
@[simp] theorem modCtx_remote (s : State) (k : Nat) (g : Ctx → Ctx) : (s.modCtx k g).remote = s.remote := rfl
@[simp] theorem modCtx_shells (s : State) (k : Nat) (g : Ctx → Ctx) : (s.modCtx k g).shells = s.shells := rfl
@[simp] theorem modCtx_saved (s : State) (k : Nat) (g : Ctx → Ctx) : (s.modCtx k g).saved = s.saved := rfl
@[simp] theorem modCtx_savedUnits (s : State) (k : Nat) (g : Ctx → Ctx) : (s.modCtx k g).savedUnits = s.savedUnits := rfl
@[simp] theorem modCtx_rowCtx (s : State) (k : Nat) (g : Ctx → Ctx) : (s.modCtx k g).rowCtx = s.rowCtx := rfl
@[simp] theorem modCtx_dbg (s : State) (k : Nat) (g : Ctx → Ctx) : (s.modCtx k g).dbg = s.dbg := rfl
@[simp] theorem modCtx_mesh (s : State) (k : Nat) (g : Ctx → Ctx) : (s.modCtx k g).mesh = s.mesh := rfl
@[simp] theorem modCtx_turns (s : State) (k : Nat) (g : Ctx → Ctx) : (s.modCtx k g).turns = s.turns := rfl
@[simp] theorem modCtx_ptbase (s : State) (k : Nat) (g : Ctx → Ctx) : (s.modCtx k g).ptbase = s.ptbase := rfl
@[simp] theorem modCtx_seqEn (s : State) (k : Nat) (g : Ctx → Ctx) : (s.modCtx k g).seqEn = s.seqEn := rfl
@[simp] theorem modCtx_passNo (s : State) (k : Nat) (g : Ctx → Ctx) : (s.modCtx k g).passNo = s.passNo := rfl
@[simp] theorem modCtx_shovf (s : State) (k : Nat) (g : Ctx → Ctx) : (s.modCtx k g).shovf = s.shovf := rfl
@[simp] theorem modCtx_parts (s : State) (k : Nat) (g : Ctx → Ctx) : (s.modCtx k g).parts = s.parts := rfl
@[simp] theorem modCtx_tails (s : State) (k : Nat) (g : Ctx → Ctx) : (s.modCtx k g).tails = s.tails := rfl
@[simp] theorem modCtx_frame (s : State) (k : Nat) (g : Ctx → Ctx) : (s.modCtx k g).frame = s.frame := rfl
@[simp] theorem modCtx_outputs (s : State) (k : Nat) (g : Ctx → Ctx) : (s.modCtx k g).outputs = s.outputs := rfl
@[simp] theorem modCtx_debug (s : State) (k : Nat) (g : Ctx → Ctx) : (s.modCtx k g).dbg = s.dbg := rfl
@[simp] theorem modCtx_mgmt (s : State) (k : Nat) (g : Ctx → Ctx) : (s.modCtx k g).mgmt = s.mgmt := rfl
@[simp] theorem modCtx_agenda (s : State) (k : Nat) (g : Ctx → Ctx) : (s.modCtx k g).agenda = s.agenda := rfl
@[simp] theorem modCtx_inbox (s : State) (k : Nat) (g : Ctx → Ctx) : (s.modCtx k g).inbox = s.inbox := rfl
@[simp] theorem modCtx_focus (s : State) (k : Nat) (g : Ctx → Ctx) : (s.modCtx k g).focus = s.focus := rfl
@[simp] theorem modCtx_tested (s : State) (k : Nat) (g : Ctx → Ctx) : (s.modCtx k g).tested = s.tested := rfl
@[simp] theorem modCtx_ids (s : State) (k : Nat) (g : Ctx → Ctx) : (s.modCtx k g).ids = s.ids := rfl
@[simp] theorem modCtx_draws (s : State) (k : Nat) (g : Ctx → Ctx) : (s.modCtx k g).draws = s.draws := rfl

/-! ## `State.modEns` -/

@[simp] theorem modEns_now (s : State) (k : Nat) (g : Ensemble → Ensemble) : (s.modEns k g).now = s.now := rfl
@[simp] theorem modEns_mem (s : State) (k : Nat) (g : Ensemble → Ensemble) : (s.modEns k g).mem = s.mem := rfl
@[simp] theorem modEns_memTag (s : State) (k : Nat) (g : Ensemble → Ensemble) : (s.modEns k g).memTag = s.memTag := rfl
@[simp] theorem modEns_keys (s : State) (k : Nat) (g : Ensemble → Ensemble) : (s.modEns k g).keys = s.keys := rfl
@[simp] theorem modEns_badMem (s : State) (k : Nat) (g : Ensemble → Ensemble) : (s.modEns k g).badMem = s.badMem := rfl
@[simp] theorem modEns_badScr (s : State) (k : Nat) (g : Ensemble → Ensemble) : (s.modEns k g).badScr = s.badScr := rfl
@[simp] theorem modEns_scratch (s : State) (k : Nat) (g : Ensemble → Ensemble) : (s.modEns k g).scratch = s.scratch := rfl
@[simp] theorem modEns_storeQ (s : State) (k : Nat) (g : Ensemble → Ensemble) : (s.modEns k g).storeQ = s.storeQ := rfl
@[simp] theorem modEns_waitQ (s : State) (k : Nat) (g : Ensemble → Ensemble) : (s.modEns k g).waitQ = s.waitQ := rfl
@[simp] theorem modEns_units (s : State) (k : Nat) (g : Ensemble → Ensemble) : (s.modEns k g).units = s.units := rfl
@[simp] theorem modEns_cores (s : State) (k : Nat) (g : Ensemble → Ensemble) : (s.modEns k g).cores = s.cores := rfl
@[simp] theorem modEns_troupes (s : State) (k : Nat) (g : Ensemble → Ensemble) : (s.modEns k g).troupes = s.troupes := rfl
@[simp] theorem modEns_holds (s : State) (k : Nat) (g : Ensemble → Ensemble) : (s.modEns k g).holds = s.holds := rfl
@[simp] theorem modEns_comps (s : State) (k : Nat) (g : Ensemble → Ensemble) : (s.modEns k g).comps = s.comps := rfl
@[simp] theorem modEns_ctxs (s : State) (k : Nat) (g : Ensemble → Ensemble) : (s.modEns k g).ctxs = s.ctxs := rfl
@[simp] theorem modEns_sections (s : State) (k : Nat) (g : Ensemble → Ensemble) : (s.modEns k g).sections = s.sections := rfl
@[simp] theorem modEns_doneAt (s : State) (k : Nat) (g : Ensemble → Ensemble) : (s.modEns k g).doneAt = s.doneAt := rfl
@[simp] theorem modEns_slices (s : State) (k : Nat) (g : Ensemble → Ensemble) : (s.modEns k g).slices = s.slices := rfl
@[simp] theorem modEns_replicas (s : State) (k : Nat) (g : Ensemble → Ensemble) : (s.modEns k g).replicas = s.replicas := rfl
@[simp] theorem modEns_remote (s : State) (k : Nat) (g : Ensemble → Ensemble) : (s.modEns k g).remote = s.remote := rfl
@[simp] theorem modEns_shells (s : State) (k : Nat) (g : Ensemble → Ensemble) : (s.modEns k g).shells = s.shells := rfl
@[simp] theorem modEns_saved (s : State) (k : Nat) (g : Ensemble → Ensemble) : (s.modEns k g).saved = s.saved := rfl
@[simp] theorem modEns_savedUnits (s : State) (k : Nat) (g : Ensemble → Ensemble) : (s.modEns k g).savedUnits = s.savedUnits := rfl
@[simp] theorem modEns_rowCtx (s : State) (k : Nat) (g : Ensemble → Ensemble) : (s.modEns k g).rowCtx = s.rowCtx := rfl
@[simp] theorem modEns_dbg (s : State) (k : Nat) (g : Ensemble → Ensemble) : (s.modEns k g).dbg = s.dbg := rfl
@[simp] theorem modEns_mesh (s : State) (k : Nat) (g : Ensemble → Ensemble) : (s.modEns k g).mesh = s.mesh := rfl
@[simp] theorem modEns_turns (s : State) (k : Nat) (g : Ensemble → Ensemble) : (s.modEns k g).turns = s.turns := rfl
@[simp] theorem modEns_ptbase (s : State) (k : Nat) (g : Ensemble → Ensemble) : (s.modEns k g).ptbase = s.ptbase := rfl
@[simp] theorem modEns_seqEn (s : State) (k : Nat) (g : Ensemble → Ensemble) : (s.modEns k g).seqEn = s.seqEn := rfl
@[simp] theorem modEns_passNo (s : State) (k : Nat) (g : Ensemble → Ensemble) : (s.modEns k g).passNo = s.passNo := rfl
@[simp] theorem modEns_shovf (s : State) (k : Nat) (g : Ensemble → Ensemble) : (s.modEns k g).shovf = s.shovf := rfl
@[simp] theorem modEns_parts (s : State) (k : Nat) (g : Ensemble → Ensemble) : (s.modEns k g).parts = s.parts := rfl
@[simp] theorem modEns_tails (s : State) (k : Nat) (g : Ensemble → Ensemble) : (s.modEns k g).tails = s.tails := rfl
@[simp] theorem modEns_frame (s : State) (k : Nat) (g : Ensemble → Ensemble) : (s.modEns k g).frame = s.frame := rfl
@[simp] theorem modEns_outputs (s : State) (k : Nat) (g : Ensemble → Ensemble) : (s.modEns k g).outputs = s.outputs := rfl
@[simp] theorem modEns_debug (s : State) (k : Nat) (g : Ensemble → Ensemble) : (s.modEns k g).dbg = s.dbg := rfl
@[simp] theorem modEns_mgmt (s : State) (k : Nat) (g : Ensemble → Ensemble) : (s.modEns k g).mgmt = s.mgmt := rfl
@[simp] theorem modEns_agenda (s : State) (k : Nat) (g : Ensemble → Ensemble) : (s.modEns k g).agenda = s.agenda := rfl
@[simp] theorem modEns_inbox (s : State) (k : Nat) (g : Ensemble → Ensemble) : (s.modEns k g).inbox = s.inbox := rfl
@[simp] theorem modEns_focus (s : State) (k : Nat) (g : Ensemble → Ensemble) : (s.modEns k g).focus = s.focus := rfl
@[simp] theorem modEns_tested (s : State) (k : Nat) (g : Ensemble → Ensemble) : (s.modEns k g).tested = s.tested := rfl
@[simp] theorem modEns_ids (s : State) (k : Nat) (g : Ensemble → Ensemble) : (s.modEns k g).ids = s.ids := rfl
@[simp] theorem modEns_draws (s : State) (k : Nat) (g : Ensemble → Ensemble) : (s.modEns k g).draws = s.draws := rfl

/-! ## `State.modComp` -/

@[simp] theorem modComp_now (s : State) (k : Nat) (g : Company → Company) : (s.modComp k g).now = s.now := rfl
@[simp] theorem modComp_mem (s : State) (k : Nat) (g : Company → Company) : (s.modComp k g).mem = s.mem := rfl
@[simp] theorem modComp_memTag (s : State) (k : Nat) (g : Company → Company) : (s.modComp k g).memTag = s.memTag := rfl
@[simp] theorem modComp_keys (s : State) (k : Nat) (g : Company → Company) : (s.modComp k g).keys = s.keys := rfl
@[simp] theorem modComp_badMem (s : State) (k : Nat) (g : Company → Company) : (s.modComp k g).badMem = s.badMem := rfl
@[simp] theorem modComp_badScr (s : State) (k : Nat) (g : Company → Company) : (s.modComp k g).badScr = s.badScr := rfl
@[simp] theorem modComp_scratch (s : State) (k : Nat) (g : Company → Company) : (s.modComp k g).scratch = s.scratch := rfl
@[simp] theorem modComp_storeQ (s : State) (k : Nat) (g : Company → Company) : (s.modComp k g).storeQ = s.storeQ := rfl
@[simp] theorem modComp_waitQ (s : State) (k : Nat) (g : Company → Company) : (s.modComp k g).waitQ = s.waitQ := rfl
@[simp] theorem modComp_units (s : State) (k : Nat) (g : Company → Company) : (s.modComp k g).units = s.units := rfl
@[simp] theorem modComp_cores (s : State) (k : Nat) (g : Company → Company) : (s.modComp k g).cores = s.cores := rfl
@[simp] theorem modComp_troupes (s : State) (k : Nat) (g : Company → Company) : (s.modComp k g).troupes = s.troupes := rfl
@[simp] theorem modComp_holds (s : State) (k : Nat) (g : Company → Company) : (s.modComp k g).holds = s.holds := rfl
@[simp] theorem modComp_enss (s : State) (k : Nat) (g : Company → Company) : (s.modComp k g).enss = s.enss := rfl
@[simp] theorem modComp_ctxs (s : State) (k : Nat) (g : Company → Company) : (s.modComp k g).ctxs = s.ctxs := rfl
@[simp] theorem modComp_sections (s : State) (k : Nat) (g : Company → Company) : (s.modComp k g).sections = s.sections := rfl
@[simp] theorem modComp_doneAt (s : State) (k : Nat) (g : Company → Company) : (s.modComp k g).doneAt = s.doneAt := rfl
@[simp] theorem modComp_slices (s : State) (k : Nat) (g : Company → Company) : (s.modComp k g).slices = s.slices := rfl
@[simp] theorem modComp_replicas (s : State) (k : Nat) (g : Company → Company) : (s.modComp k g).replicas = s.replicas := rfl
@[simp] theorem modComp_remote (s : State) (k : Nat) (g : Company → Company) : (s.modComp k g).remote = s.remote := rfl
@[simp] theorem modComp_shells (s : State) (k : Nat) (g : Company → Company) : (s.modComp k g).shells = s.shells := rfl
@[simp] theorem modComp_saved (s : State) (k : Nat) (g : Company → Company) : (s.modComp k g).saved = s.saved := rfl
@[simp] theorem modComp_savedUnits (s : State) (k : Nat) (g : Company → Company) : (s.modComp k g).savedUnits = s.savedUnits := rfl
@[simp] theorem modComp_rowCtx (s : State) (k : Nat) (g : Company → Company) : (s.modComp k g).rowCtx = s.rowCtx := rfl
@[simp] theorem modComp_dbg (s : State) (k : Nat) (g : Company → Company) : (s.modComp k g).dbg = s.dbg := rfl
@[simp] theorem modComp_mesh (s : State) (k : Nat) (g : Company → Company) : (s.modComp k g).mesh = s.mesh := rfl
@[simp] theorem modComp_turns (s : State) (k : Nat) (g : Company → Company) : (s.modComp k g).turns = s.turns := rfl
@[simp] theorem modComp_ptbase (s : State) (k : Nat) (g : Company → Company) : (s.modComp k g).ptbase = s.ptbase := rfl
@[simp] theorem modComp_seqEn (s : State) (k : Nat) (g : Company → Company) : (s.modComp k g).seqEn = s.seqEn := rfl
@[simp] theorem modComp_passNo (s : State) (k : Nat) (g : Company → Company) : (s.modComp k g).passNo = s.passNo := rfl
@[simp] theorem modComp_shovf (s : State) (k : Nat) (g : Company → Company) : (s.modComp k g).shovf = s.shovf := rfl
@[simp] theorem modComp_parts (s : State) (k : Nat) (g : Company → Company) : (s.modComp k g).parts = s.parts := rfl
@[simp] theorem modComp_tails (s : State) (k : Nat) (g : Company → Company) : (s.modComp k g).tails = s.tails := rfl
@[simp] theorem modComp_frame (s : State) (k : Nat) (g : Company → Company) : (s.modComp k g).frame = s.frame := rfl
@[simp] theorem modComp_outputs (s : State) (k : Nat) (g : Company → Company) : (s.modComp k g).outputs = s.outputs := rfl
@[simp] theorem modComp_debug (s : State) (k : Nat) (g : Company → Company) : (s.modComp k g).dbg = s.dbg := rfl
@[simp] theorem modComp_mgmt (s : State) (k : Nat) (g : Company → Company) : (s.modComp k g).mgmt = s.mgmt := rfl
@[simp] theorem modComp_agenda (s : State) (k : Nat) (g : Company → Company) : (s.modComp k g).agenda = s.agenda := rfl
@[simp] theorem modComp_inbox (s : State) (k : Nat) (g : Company → Company) : (s.modComp k g).inbox = s.inbox := rfl
@[simp] theorem modComp_focus (s : State) (k : Nat) (g : Company → Company) : (s.modComp k g).focus = s.focus := rfl
@[simp] theorem modComp_tested (s : State) (k : Nat) (g : Company → Company) : (s.modComp k g).tested = s.tested := rfl
@[simp] theorem modComp_ids (s : State) (k : Nat) (g : Company → Company) : (s.modComp k g).ids = s.ids := rfl
@[simp] theorem modComp_draws (s : State) (k : Nat) (g : Company → Company) : (s.modComp k g).draws = s.draws := rfl

/-! ## `State.schedule` -/

@[simp] theorem schedule_now (s : State) (k : Nat) (i : Instr) : (s.schedule k i).now = s.now := rfl
@[simp] theorem schedule_mem (s : State) (k : Nat) (i : Instr) : (s.schedule k i).mem = s.mem := rfl
@[simp] theorem schedule_memTag (s : State) (k : Nat) (i : Instr) : (s.schedule k i).memTag = s.memTag := rfl
@[simp] theorem schedule_keys (s : State) (k : Nat) (i : Instr) : (s.schedule k i).keys = s.keys := rfl
@[simp] theorem schedule_badMem (s : State) (k : Nat) (i : Instr) : (s.schedule k i).badMem = s.badMem := rfl
@[simp] theorem schedule_badScr (s : State) (k : Nat) (i : Instr) : (s.schedule k i).badScr = s.badScr := rfl
@[simp] theorem schedule_scratch (s : State) (k : Nat) (i : Instr) : (s.schedule k i).scratch = s.scratch := rfl
@[simp] theorem schedule_storeQ (s : State) (k : Nat) (i : Instr) : (s.schedule k i).storeQ = s.storeQ := rfl
@[simp] theorem schedule_waitQ (s : State) (k : Nat) (i : Instr) : (s.schedule k i).waitQ = s.waitQ := rfl
@[simp] theorem schedule_units (s : State) (k : Nat) (i : Instr) : (s.schedule k i).units = s.units := rfl
@[simp] theorem schedule_cores (s : State) (k : Nat) (i : Instr) : (s.schedule k i).cores = s.cores := rfl
@[simp] theorem schedule_troupes (s : State) (k : Nat) (i : Instr) : (s.schedule k i).troupes = s.troupes := rfl
@[simp] theorem schedule_holds (s : State) (k : Nat) (i : Instr) : (s.schedule k i).holds = s.holds := rfl
@[simp] theorem schedule_enss (s : State) (k : Nat) (i : Instr) : (s.schedule k i).enss = s.enss := rfl
@[simp] theorem schedule_comps (s : State) (k : Nat) (i : Instr) : (s.schedule k i).comps = s.comps := rfl
@[simp] theorem schedule_ctxs (s : State) (k : Nat) (i : Instr) : (s.schedule k i).ctxs = s.ctxs := rfl
@[simp] theorem schedule_sections (s : State) (k : Nat) (i : Instr) : (s.schedule k i).sections = s.sections := rfl
@[simp] theorem schedule_doneAt (s : State) (k : Nat) (i : Instr) : (s.schedule k i).doneAt = s.doneAt := rfl
@[simp] theorem schedule_slices (s : State) (k : Nat) (i : Instr) : (s.schedule k i).slices = s.slices := rfl
@[simp] theorem schedule_replicas (s : State) (k : Nat) (i : Instr) : (s.schedule k i).replicas = s.replicas := rfl
@[simp] theorem schedule_remote (s : State) (k : Nat) (i : Instr) : (s.schedule k i).remote = s.remote := rfl
@[simp] theorem schedule_shells (s : State) (k : Nat) (i : Instr) : (s.schedule k i).shells = s.shells := rfl
@[simp] theorem schedule_saved (s : State) (k : Nat) (i : Instr) : (s.schedule k i).saved = s.saved := rfl
@[simp] theorem schedule_savedUnits (s : State) (k : Nat) (i : Instr) : (s.schedule k i).savedUnits = s.savedUnits := rfl
@[simp] theorem schedule_rowCtx (s : State) (k : Nat) (i : Instr) : (s.schedule k i).rowCtx = s.rowCtx := rfl
@[simp] theorem schedule_dbg (s : State) (k : Nat) (i : Instr) : (s.schedule k i).dbg = s.dbg := rfl
@[simp] theorem schedule_mesh (s : State) (k : Nat) (i : Instr) : (s.schedule k i).mesh = s.mesh := rfl
@[simp] theorem schedule_turns (s : State) (k : Nat) (i : Instr) : (s.schedule k i).turns = s.turns := rfl
@[simp] theorem schedule_ptbase (s : State) (k : Nat) (i : Instr) : (s.schedule k i).ptbase = s.ptbase := rfl
@[simp] theorem schedule_seqEn (s : State) (k : Nat) (i : Instr) : (s.schedule k i).seqEn = s.seqEn := rfl
@[simp] theorem schedule_passNo (s : State) (k : Nat) (i : Instr) : (s.schedule k i).passNo = s.passNo := rfl
@[simp] theorem schedule_shovf (s : State) (k : Nat) (i : Instr) : (s.schedule k i).shovf = s.shovf := rfl
@[simp] theorem schedule_parts (s : State) (k : Nat) (i : Instr) : (s.schedule k i).parts = s.parts := rfl
@[simp] theorem schedule_tails (s : State) (k : Nat) (i : Instr) : (s.schedule k i).tails = s.tails := rfl
@[simp] theorem schedule_frame (s : State) (k : Nat) (i : Instr) : (s.schedule k i).frame = s.frame := rfl
@[simp] theorem schedule_outputs (s : State) (k : Nat) (i : Instr) : (s.schedule k i).outputs = s.outputs := rfl
@[simp] theorem schedule_debug (s : State) (k : Nat) (i : Instr) : (s.schedule k i).dbg = s.dbg := rfl
@[simp] theorem schedule_mgmt (s : State) (k : Nat) (i : Instr) : (s.schedule k i).mgmt = s.mgmt := rfl
@[simp] theorem schedule_inbox (s : State) (k : Nat) (i : Instr) : (s.schedule k i).inbox = s.inbox := rfl
@[simp] theorem schedule_focus (s : State) (k : Nat) (i : Instr) : (s.schedule k i).focus = s.focus := rfl
@[simp] theorem schedule_tested (s : State) (k : Nat) (i : Instr) : (s.schedule k i).tested = s.tested := rfl
@[simp] theorem schedule_ids (s : State) (k : Nat) (i : Instr) : (s.schedule k i).ids = s.ids := rfl
@[simp] theorem schedule_draws (s : State) (k : Nat) (i : Instr) : (s.schedule k i).draws = s.draws := rfl

/-! ## `State.fresh` and `State.drawTime` -/

@[simp] theorem fresh_fst (s : State) : s.fresh.1 = s.ids := rfl
@[simp] theorem fresh_now (s : State) : s.fresh.2.now = s.now := rfl
@[simp] theorem fresh_mem (s : State) : s.fresh.2.mem = s.mem := rfl
@[simp] theorem fresh_memTag (s : State) : s.fresh.2.memTag = s.memTag := rfl
@[simp] theorem fresh_keys (s : State) : s.fresh.2.keys = s.keys := rfl
@[simp] theorem fresh_badMem (s : State) : s.fresh.2.badMem = s.badMem := rfl
@[simp] theorem fresh_badScr (s : State) : s.fresh.2.badScr = s.badScr := rfl
@[simp] theorem fresh_scratch (s : State) : s.fresh.2.scratch = s.scratch := rfl
@[simp] theorem fresh_storeQ (s : State) : s.fresh.2.storeQ = s.storeQ := rfl
@[simp] theorem fresh_waitQ (s : State) : s.fresh.2.waitQ = s.waitQ := rfl
@[simp] theorem fresh_units (s : State) : s.fresh.2.units = s.units := rfl
@[simp] theorem fresh_cores (s : State) : s.fresh.2.cores = s.cores := rfl
@[simp] theorem fresh_troupes (s : State) : s.fresh.2.troupes = s.troupes := rfl
@[simp] theorem fresh_holds (s : State) : s.fresh.2.holds = s.holds := rfl
@[simp] theorem fresh_enss (s : State) : s.fresh.2.enss = s.enss := rfl
@[simp] theorem fresh_comps (s : State) : s.fresh.2.comps = s.comps := rfl
@[simp] theorem fresh_ctxs (s : State) : s.fresh.2.ctxs = s.ctxs := rfl
@[simp] theorem fresh_sections (s : State) : s.fresh.2.sections = s.sections := rfl
@[simp] theorem fresh_doneAt (s : State) : s.fresh.2.doneAt = s.doneAt := rfl
@[simp] theorem fresh_slices (s : State) : s.fresh.2.slices = s.slices := rfl
@[simp] theorem fresh_replicas (s : State) : s.fresh.2.replicas = s.replicas := rfl
@[simp] theorem fresh_remote (s : State) : s.fresh.2.remote = s.remote := rfl
@[simp] theorem fresh_shells (s : State) : s.fresh.2.shells = s.shells := rfl
@[simp] theorem fresh_saved (s : State) : s.fresh.2.saved = s.saved := rfl
@[simp] theorem fresh_savedUnits (s : State) : s.fresh.2.savedUnits = s.savedUnits := rfl
@[simp] theorem fresh_rowCtx (s : State) : s.fresh.2.rowCtx = s.rowCtx := rfl
@[simp] theorem fresh_dbg (s : State) : s.fresh.2.dbg = s.dbg := rfl
@[simp] theorem fresh_mesh (s : State) : s.fresh.2.mesh = s.mesh := rfl
@[simp] theorem fresh_turns (s : State) : s.fresh.2.turns = s.turns := rfl
@[simp] theorem fresh_ptbase (s : State) : s.fresh.2.ptbase = s.ptbase := rfl
@[simp] theorem fresh_seqEn (s : State) : s.fresh.2.seqEn = s.seqEn := rfl
@[simp] theorem fresh_passNo (s : State) : s.fresh.2.passNo = s.passNo := rfl
@[simp] theorem fresh_shovf (s : State) : s.fresh.2.shovf = s.shovf := rfl
@[simp] theorem fresh_parts (s : State) : s.fresh.2.parts = s.parts := rfl
@[simp] theorem fresh_tails (s : State) : s.fresh.2.tails = s.tails := rfl
@[simp] theorem fresh_frame (s : State) : s.fresh.2.frame = s.frame := rfl
@[simp] theorem fresh_outputs (s : State) : s.fresh.2.outputs = s.outputs := rfl
@[simp] theorem fresh_debug (s : State) : s.fresh.2.dbg = s.dbg := rfl
@[simp] theorem fresh_mgmt (s : State) : s.fresh.2.mgmt = s.mgmt := rfl
@[simp] theorem fresh_agenda (s : State) : s.fresh.2.agenda = s.agenda := rfl
@[simp] theorem fresh_inbox (s : State) : s.fresh.2.inbox = s.inbox := rfl
@[simp] theorem fresh_focus (s : State) : s.fresh.2.focus = s.focus := rfl
@[simp] theorem fresh_tested (s : State) : s.fresh.2.tested = s.tested := rfl
@[simp] theorem fresh_draws (s : State) : s.fresh.2.draws = s.draws := rfl
@[simp] theorem fresh_ids (s : State) : s.fresh.2.ids = s.ids + 1 := rfl
@[simp] theorem drawTime_fst (s : State) (n : Nat) : (s.drawTime n).1 = s.now + n + Config.latency s.draws := rfl
@[simp] theorem drawTime_now (s : State) (n : Nat) : (s.drawTime n).2.now = s.now := rfl
@[simp] theorem drawTime_mem (s : State) (n : Nat) : (s.drawTime n).2.mem = s.mem := rfl
@[simp] theorem drawTime_memTag (s : State) (n : Nat) : (s.drawTime n).2.memTag = s.memTag := rfl
@[simp] theorem drawTime_keys (s : State) (n : Nat) : (s.drawTime n).2.keys = s.keys := rfl
@[simp] theorem drawTime_badMem (s : State) (n : Nat) : (s.drawTime n).2.badMem = s.badMem := rfl
@[simp] theorem drawTime_badScr (s : State) (n : Nat) : (s.drawTime n).2.badScr = s.badScr := rfl
@[simp] theorem drawTime_scratch (s : State) (n : Nat) : (s.drawTime n).2.scratch = s.scratch := rfl
@[simp] theorem drawTime_storeQ (s : State) (n : Nat) : (s.drawTime n).2.storeQ = s.storeQ := rfl
@[simp] theorem drawTime_waitQ (s : State) (n : Nat) : (s.drawTime n).2.waitQ = s.waitQ := rfl
@[simp] theorem drawTime_units (s : State) (n : Nat) : (s.drawTime n).2.units = s.units := rfl
@[simp] theorem drawTime_cores (s : State) (n : Nat) : (s.drawTime n).2.cores = s.cores := rfl
@[simp] theorem drawTime_troupes (s : State) (n : Nat) : (s.drawTime n).2.troupes = s.troupes := rfl
@[simp] theorem drawTime_holds (s : State) (n : Nat) : (s.drawTime n).2.holds = s.holds := rfl
@[simp] theorem drawTime_enss (s : State) (n : Nat) : (s.drawTime n).2.enss = s.enss := rfl
@[simp] theorem drawTime_comps (s : State) (n : Nat) : (s.drawTime n).2.comps = s.comps := rfl
@[simp] theorem drawTime_ctxs (s : State) (n : Nat) : (s.drawTime n).2.ctxs = s.ctxs := rfl
@[simp] theorem drawTime_sections (s : State) (n : Nat) : (s.drawTime n).2.sections = s.sections := rfl
@[simp] theorem drawTime_doneAt (s : State) (n : Nat) : (s.drawTime n).2.doneAt = s.doneAt := rfl
@[simp] theorem drawTime_slices (s : State) (n : Nat) : (s.drawTime n).2.slices = s.slices := rfl
@[simp] theorem drawTime_replicas (s : State) (n : Nat) : (s.drawTime n).2.replicas = s.replicas := rfl
@[simp] theorem drawTime_remote (s : State) (n : Nat) : (s.drawTime n).2.remote = s.remote := rfl
@[simp] theorem drawTime_shells (s : State) (n : Nat) : (s.drawTime n).2.shells = s.shells := rfl
@[simp] theorem drawTime_saved (s : State) (n : Nat) : (s.drawTime n).2.saved = s.saved := rfl
@[simp] theorem drawTime_savedUnits (s : State) (n : Nat) : (s.drawTime n).2.savedUnits = s.savedUnits := rfl
@[simp] theorem drawTime_rowCtx (s : State) (n : Nat) : (s.drawTime n).2.rowCtx = s.rowCtx := rfl
@[simp] theorem drawTime_dbg (s : State) (n : Nat) : (s.drawTime n).2.dbg = s.dbg := rfl
@[simp] theorem drawTime_mesh (s : State) (n : Nat) : (s.drawTime n).2.mesh = s.mesh := rfl
@[simp] theorem drawTime_turns (s : State) (n : Nat) : (s.drawTime n).2.turns = s.turns := rfl
@[simp] theorem drawTime_ptbase (s : State) (n : Nat) : (s.drawTime n).2.ptbase = s.ptbase := rfl
@[simp] theorem drawTime_seqEn (s : State) (n : Nat) : (s.drawTime n).2.seqEn = s.seqEn := rfl
@[simp] theorem drawTime_passNo (s : State) (n : Nat) : (s.drawTime n).2.passNo = s.passNo := rfl
@[simp] theorem drawTime_shovf (s : State) (n : Nat) : (s.drawTime n).2.shovf = s.shovf := rfl
@[simp] theorem drawTime_parts (s : State) (n : Nat) : (s.drawTime n).2.parts = s.parts := rfl
@[simp] theorem drawTime_tails (s : State) (n : Nat) : (s.drawTime n).2.tails = s.tails := rfl
@[simp] theorem drawTime_frame (s : State) (n : Nat) : (s.drawTime n).2.frame = s.frame := rfl
@[simp] theorem drawTime_outputs (s : State) (n : Nat) : (s.drawTime n).2.outputs = s.outputs := rfl
@[simp] theorem drawTime_debug (s : State) (n : Nat) : (s.drawTime n).2.dbg = s.dbg := rfl
@[simp] theorem drawTime_mgmt (s : State) (n : Nat) : (s.drawTime n).2.mgmt = s.mgmt := rfl
@[simp] theorem drawTime_agenda (s : State) (n : Nat) : (s.drawTime n).2.agenda = s.agenda := rfl
@[simp] theorem drawTime_inbox (s : State) (n : Nat) : (s.drawTime n).2.inbox = s.inbox := rfl
@[simp] theorem drawTime_focus (s : State) (n : Nat) : (s.drawTime n).2.focus = s.focus := rfl
@[simp] theorem drawTime_tested (s : State) (n : Nat) : (s.drawTime n).2.tested = s.tested := rfl
@[simp] theorem drawTime_ids (s : State) (n : Nat) : (s.drawTime n).2.ids = s.ids := rfl
@[simp] theorem drawTime_draws (s : State) (n : Nat) : (s.drawTime n).2.draws = s.draws + 1 := rfl

end Sys2Proof.Laws
end

