-- ==== Sys2Proof/Laws/Frame.lean ====
section
/-! SUPPORT. The shared operations that leave physical memory and scratch as they are, one lemma each: a proof about memory
rewrites with these and never unfolds the operation. -/

namespace Sys2Proof.Laws
open Sys2Proof.Machine

/-! A fold of steps that leave memory (scratch) as it is leaves it as it is. -/

theorem foldl_mem {α : Type} (g : State → α → State) (h : ∀ s x, (g s x).mem = s.mem) (l : List α) (s : State) : (l.foldl g s).mem = s.mem := by
  induction l generalizing s with
  | nil => rfl
  | cons x l ih => simp [ih, h]
theorem foldl_scratch {α : Type} (g : State → α → State) (h : ∀ s x, (g s x).scratch = s.scratch) (l : List α) (s : State) : (l.foldl g s).scratch = s.scratch := by
  induction l generalizing s with
  | nil => rfl
  | cons x l ih => simp [ih, h]

@[simp] theorem setTroupe_same (s : State) (tk : Nat) (t : Troupe) : (State.setTroupe s tk t).mem = s.mem ∧ (State.setTroupe s tk t).scratch = s.scratch := ⟨rfl, rfl⟩
@[simp] theorem modTroupe_same (s : State) (tk : Nat) (f : Troupe → Troupe) : (State.modTroupe s tk f).mem = s.mem ∧ (State.modTroupe s tk f).scratch = s.scratch := ⟨rfl, rfl⟩
@[simp] theorem modCore_same (s : State) (c : Nat) (f : Core → Core) : (State.modCore s c f).mem = s.mem ∧ (State.modCore s c f).scratch = s.scratch := ⟨rfl, rfl⟩
@[simp] theorem modUnit_same (s : State) (u : Nat) (f : TileUnit → TileUnit) : (State.modUnit s u f).mem = s.mem ∧ (State.modUnit s u f).scratch = s.scratch := ⟨rfl, rfl⟩
@[simp] theorem modCtx_same (s : State) (c : Nat) (f : Ctx → Ctx) : (State.modCtx s c f).mem = s.mem ∧ (State.modCtx s c f).scratch = s.scratch := ⟨rfl, rfl⟩
@[simp] theorem modEns_same (s : State) (e : Nat) (f : Ensemble → Ensemble) : (State.modEns s e f).mem = s.mem ∧ (State.modEns s e f).scratch = s.scratch := ⟨rfl, rfl⟩
@[simp] theorem modComp_same (s : State) (c : Nat) (f : Company → Company) : (State.modComp s c f).mem = s.mem ∧ (State.modComp s c f).scratch = s.scratch := ⟨rfl, rfl⟩
@[simp] theorem fresh_same (s : State) : (State.fresh s).2.mem = s.mem ∧ (State.fresh s).2.scratch = s.scratch := ⟨rfl, rfl⟩
@[simp] theorem drawTime_same (s : State) (least : Nat) : (State.drawTime s least).2.mem = s.mem ∧ (State.drawTime s least).2.scratch = s.scratch := ⟨rfl, rfl⟩
@[simp] theorem schedule_same (s : State) (time : Nat) (i : Instr) : (State.schedule s time i).mem = s.mem ∧ (State.schedule s time i).scratch = s.scratch := ⟨rfl, rfl⟩
@[simp] theorem openOp_same (s : State) (f : Focus) (flag : Nat) : (openOp s f flag).2.mem = s.mem ∧ (openOp s f flag).2.scratch = s.scratch := by
  unfold openOp
  split <;> simp
@[simp] theorem deliver_same (s : State) (a : Arrival) : (deliver s a).mem = s.mem ∧ (deliver s a).scratch = s.scratch := by
  unfold deliver
  split <;> simp
@[simp] theorem finishBundle_same (s : State) (f : Focus) : (finishBundle s f).mem = s.mem ∧ (finishBundle s f).scratch = s.scratch := ⟨rfl, rfl⟩
@[simp] theorem holdActing_same (s : State) (f : Focus) (w : Wait) : (holdActing s f w).mem = s.mem ∧ (holdActing s f w).scratch = s.scratch := ⟨rfl, rfl⟩
@[simp] theorem holdFor_same (s : State) (f : Focus) (w : Wait) : (holdFor s f w).mem = s.mem ∧ (holdFor s f w).scratch = s.scratch := ⟨rfl, rfl⟩
@[simp] theorem holdFlag_same (s : State) (f : Focus) (flag : Nat) : (holdFlag s f flag).mem = s.mem ∧ (holdFlag s f flag).scratch = s.scratch := ⟨rfl, rfl⟩
@[simp] theorem holdHeader_same (s : State) (f : Focus) (mask : BitVec 12) : (holdHeader s f mask).mem = s.mem ∧ (holdHeader s f mask).scratch = s.scratch := ⟨rfl, rfl⟩
@[simp] theorem abandonSections_same (s : State) (ctx tk gen : Nat) (ths : List Nat) : (abandonSections s ctx tk gen ths).mem = s.mem ∧ (abandonSections s ctx tk gen ths).scratch = s.scratch := ⟨rfl, rfl⟩
@[simp] theorem setEntry_same (s : State) (u t : Nat) (k : Tracked) : (setEntry s u t k).mem = s.mem ∧ (setEntry s u t k).scratch = s.scratch := ⟨rfl, rfl⟩
@[simp] theorem leaveSketches_same (s : State) (tk : Nat) : (leaveSketches s tk).mem = s.mem ∧ (leaveSketches s tk).scratch = s.scratch := ⟨rfl, rfl⟩
@[simp] theorem dropSpecStores_same (s : State) (tk : Nat) : (dropSpecStores s tk).mem = s.mem ∧ (dropSpecStores s tk).scratch = s.scratch := by
  unfold dropSpecStores
  split <;> exact ⟨rfl, rfl⟩
@[simp] theorem stopSquashed_same (s : State) (tk : Nat) : (stopSquashed s tk).mem = s.mem ∧ (stopSquashed s tk).scratch = s.scratch := by simp [stopSquashed]
@[simp] theorem unpostAt_same (s : State) (u t : Nat) : (unpostAt s u t).mem = s.mem ∧ (unpostAt s u t).scratch = s.scratch := by
  unfold unpostAt
  split <;> simp
@[simp] theorem squashSketch_same (fuel : Nat) (s : State) (u t : Nat) :
    (squashSketch fuel s u t).mem = s.mem ∧ (squashSketch fuel s u t).scratch = s.scratch := by
  induction fuel generalizing s u t with
  | zero => exact ⟨rfl, rfl⟩
  | succ fuel ih =>
    unfold squashSketch
    (repeat' split) <;> simp [foldl_mem, foldl_scratch, ih]
@[simp] theorem dropPosts_same (fuel : Nat) (s : State) (tk : Nat) : (dropPosts fuel s tk).mem = s.mem ∧ (dropPosts fuel s tk).scratch = s.scratch := by
  simp [dropPosts, foldl_mem, foldl_scratch]
@[simp] theorem endSpeculation_same (s : State) (tk : Nat) (t : Troupe) :
    (endSpeculation s tk t).mem = s.mem ∧ (endSpeculation s tk t).scratch = s.scratch := by
  unfold endSpeculation
  split <;> simp
@[simp] theorem endTroupe_same (s : State) (tk : Nat) : (endTroupe s tk).mem = s.mem ∧ (endTroupe s tk).scratch = s.scratch := by
  unfold endTroupe
  split <;> simp
@[simp] theorem failFrame_same (s : State) (ctx : Nat) (n : Word) : (failFrame s ctx n).mem = s.mem ∧ (failFrame s ctx n).scratch = s.scratch := by
  unfold failFrame
  split <;> exact ⟨rfl, rfl⟩
@[simp] theorem failKilled_same (s : State) (comp : Nat) : (failKilled s comp).mem = s.mem ∧ (failKilled s comp).scratch = s.scratch := by
  unfold failKilled
  (repeat' split) <;> simp
@[simp] theorem killThread_same (s : State) (tk i cause : Nat) : (killThread s tk i cause).mem = s.mem ∧ (killThread s tk i cause).scratch = s.scratch := by
  unfold killThread
  dsimp only
  (repeat' split) <;> simp
@[simp] theorem settleOrigin_same (s : State) (id : Nat) (r : Resolution) : (settleOrigin s id r).mem = s.mem ∧ (settleOrigin s id r).scratch = s.scratch := by
  unfold settleOrigin
  dsimp only
  (repeat' split) <;> simp
@[simp] theorem endHandler_same (s : State) (tk : Nat) (r : Resolution) : (endHandler s tk r).mem = s.mem ∧ (endHandler s tk r).scratch = s.scratch := by
  unfold endHandler
  (repeat' split) <;> simp [foldl_mem, foldl_scratch]
theorem loseAll_same (s : State) (l : List (Nat × Cause)) (g : Nat → Option Ticket) :
    let s' := l.foldl (fun s x => match g x.1 with | some k => settleOrigin s k.id .kill | none => s) s
    s'.mem = s.mem ∧ s'.scratch = s.scratch := by
  constructor
  · exact foldl_mem _ (fun s x => by split <;> simp) l s
  · exact foldl_scratch _ (fun s x => by split <;> simp) l s
@[simp] theorem handlerLoses_same (s : State) (tk : Nat) (faults : List (Nat × Cause)) :
    (handlerLoses s tk faults).mem = s.mem ∧ (handlerLoses s tk faults).scratch = s.scratch := by
  unfold handlerLoses
  split
  · exact ⟨rfl, rfl⟩
  · rename_i t h
    obtain ⟨h1, h2⟩ := loseAll_same s faults (fun i => t.tickets[i]?)
    split <;> (constructor <;> simp <;> first | exact h1 | exact h2)
@[simp] theorem handlerTrap_same (s : State) (f : Focus) (faults : List (Nat × Cause)) : (handlerTrap s f faults).mem = s.mem ∧ (handlerTrap s f faults).scratch = s.scratch := by
  unfold handlerTrap
  dsimp only
  (repeat' split) <;> simp
@[simp] theorem takeTrap_same (s : State) (f : Focus) (faults : List (Nat × Cause)) : (takeTrap s f faults).mem = s.mem ∧ (takeTrap s f faults).scratch = s.scratch := by
  unfold takeTrap
  (repeat' split) <;> simp
@[simp] theorem trapAll_same (s : State) (f : Focus) (c : Cause) : (trapAll s f c).mem = s.mem ∧ (trapAll s f c).scratch = s.scratch := by simp [trapAll]
@[simp] theorem trapLeader_same (s : State) (f : Focus) (c : Cause) : (trapLeader s f c).mem = s.mem ∧ (trapLeader s f c).scratch = s.scratch := by simp [trapLeader]
@[simp] theorem parkAfter_same (s : State) (f : Focus) (entries : List Replay) : (parkAfter s f entries).mem = s.mem ∧ (parkAfter s f entries).scratch = s.scratch := by
  unfold parkAfter
  dsimp only
  split <;> simp
@[simp] theorem parkSlot_same (s : State) (f : Focus) (entries : List Replay) (faults : List (Nat × Cause)) : (parkSlot s f entries faults).mem = s.mem ∧ (parkSlot s f entries faults).scratch = s.scratch := by
  unfold parkSlot
  dsimp only
  (repeat' split) <;> simp
@[simp] theorem settleSlot_same (s : State) (f : Focus) (faults : List (Nat × Cause)) : (settleSlot s f faults).mem = s.mem ∧ (settleSlot s f faults).scratch = s.scratch := by
  unfold settleSlot
  split <;> simp
@[simp] theorem branchTo_same (s : State) (f : Focus) (target : Nat) : (branchTo s f target).mem = s.mem ∧ (branchTo s f target).scratch = s.scratch := ⟨rfl, rfl⟩
@[simp] theorem perThread_same (s : State) (f : Focus) (t : Troupe) (body : Nat → Thread → Except Cause Fx) : (perThread s f t body).mem = s.mem ∧ (perThread s f t body).scratch = s.scratch := by simp [perThread]
@[simp] theorem answerUniform_same (s : State) (f : Focus) (lead : Option Thread) (d : BitVec 6) (v : Word) : (answerUniform s f lead d v).mem = s.mem ∧ (answerUniform s f lead d v).scratch = s.scratch := by
  unfold answerUniform
  split <;> simp
@[simp] theorem writeG_same (s : State) (f : Focus) (d : BitVec 6) (v : Dword) : (writeG s f d v).mem = s.mem ∧ (writeG s f d v).scratch = s.scratch := by
  unfold writeG
  split <;> simp
@[simp] theorem settleLong_same (s : State) (f : Focus) (op : Nat) (faults : List (Nat × Cause)) : (settleLong s f op faults).mem = s.mem ∧ (settleLong s f op faults).scratch = s.scratch := by
  unfold settleLong
  split <;> simp
@[simp] theorem sendResult_same (s : State) (f : Focus) (op time : Nat) (fills : List Fill) (g : Option (Nat × Dword)) (fp : BitVec 5) : (sendResult s f op time fills g fp).mem = s.mem ∧ (sendResult s f op time fills g fp).scratch = s.scratch := ⟨rfl, rfl⟩
@[simp] theorem sendLate_same (s : State) (f : Focus) (op base lat : Nat) (d : BitVec 6) (uniform : Bool) (rs : List Ran) : (sendLate s f op base lat d uniform rs).mem = s.mem ∧ (sendLate s f op base lat d uniform rs).scratch = s.scratch := by
  unfold sendLate
  exact ⟨foldl_mem _ (fun s x => by (repeat' split) <;> simp) _ _, foldl_scratch _ (fun s x => by (repeat' split) <;> simp) _ _⟩
@[simp] theorem exposedSlot_same (s : State) (f : Focus) (t : Troupe) (y uniform : Bool) (lat : Nat) (d : BitVec 6) (body : Nat → Thread → Except Cause Fx) : (exposedSlot s f t y uniform lat d body).mem = s.mem ∧ (exposedSlot s f t y uniform lat d body).scratch = s.scratch := by
  unfold exposedSlot
  dsimp only
  (repeat' split) <;> simp
@[simp] theorem markIssue_same (s : State) (tk : Nat) : (markIssue s tk).mem = s.mem ∧ (markIssue s tk).scratch = s.scratch := ⟨rfl, rfl⟩
@[simp] theorem skipBundle_same (s : State) (tk : Nat) (t : Troupe) : (skipBundle s tk t).mem = s.mem ∧ (skipBundle s tk t).scratch = s.scratch := by
  unfold skipBundle
  split <;> simp
@[simp] theorem trapAtIssue_same (s : State) (tk : Nat) (t : Troupe) (pass : BitVec 16) (c : Cause) : (trapAtIssue s tk t pass c).mem = s.mem ∧ (trapAtIssue s tk t pass c).scratch = s.scratch := by
  unfold trapAtIssue
  (repeat' split) <;> simp
@[simp] theorem trapFetch_same (s : State) (tk : Nat) (t : Troupe) (c : Cause) : (trapFetch s tk t c).mem = s.mem ∧ (trapFetch s tk t c).scratch = s.scratch := by simp [trapFetch]
@[simp] theorem supplyOrigin_same (s : State) (id : Nat) (v : Word) : (supplyOrigin s id v).mem = s.mem ∧ (supplyOrigin s id v).scratch = s.scratch := by
  unfold supplyOrigin
  dsimp only
  (repeat' split) <;> simp
@[simp] theorem raiseAsync_same (s : State) (tk : Nat) (t : Troupe) : (raiseAsync s tk t).mem = s.mem ∧ (raiseAsync s tk t).scratch = s.scratch := by
  unfold raiseAsync
  dsimp only
  (repeat' split) <;> simp
@[simp] theorem advance_same (s : State) (tk : Nat) : (advance s tk).mem = s.mem ∧ (advance s tk).scratch = s.scratch := by
  unfold advance
  (repeat' split) <;> simp
@[simp] theorem reenter_same (s : State) (f : Focus) : (reenter s f).mem = s.mem ∧ (reenter s f).scratch = s.scratch := by
  unfold reenter
  split <;> simp
@[simp] theorem pendEdited_same (s : State) (tk : Nat) (t : Troupe) : (pendEdited s tk t).mem = s.mem ∧ (pendEdited s tk t).scratch = s.scratch := by
  unfold pendEdited
  exact ⟨foldl_mem _ (fun s x => by simp) _ _, foldl_scratch _ (fun s x => by simp) _ _⟩
@[simp] theorem enterBundle_same (s : State) (tk : Nat) (t : Troupe) : (enterBundle s tk t).mem = s.mem ∧ (enterBundle s tk t).scratch = s.scratch := by
  unfold enterBundle
  dsimp only
  (repeat' split) <;> simp
@[simp] theorem issueTroupe_same (s : State) (tk : Nat) : (issueTroupe s tk).mem = s.mem ∧ (issueTroupe s tk).scratch = s.scratch := by
  unfold issueTroupe
  dsimp only
  (repeat' split) <;> simp
@[simp] theorem illegalSlot_same (s : State) (f : Focus) : (illegalSlot s f).mem = s.mem ∧ (illegalSlot s f).scratch = s.scratch := by
  unfold illegalSlot
  dsimp only
  (repeat' split) <;> simp
@[simp] theorem modSlice_same (s : State) (i : Nat) (f : Cache → Cache) : (State.modSlice s i f).mem = s.mem ∧ (State.modSlice s i f).scratch = s.scratch := ⟨rfl, rfl⟩
@[simp] theorem homeRead_same (s : State) (unit core pa key : Nat) (pmode nc : Bool) : (homeRead s unit core pa key pmode nc).mem = s.mem ∧ (homeRead s unit core pa key pmode nc).scratch = s.scratch := ⟨rfl, rfl⟩
@[simp] theorem homeWrite_same (s : State) (core pa key : Nat) (nc : Bool) : (homeWrite s core pa key nc).mem = s.mem ∧ (homeWrite s core pa key nc).scratch = s.scratch := ⟨rfl, rfl⟩
@[simp] theorem homeReads_same (s : State) (unit core pa key n : Nat) (pmode : Bool) : (homeReads s unit core pa key n pmode).mem = s.mem ∧ (homeReads s unit core pa key n pmode).scratch = s.scratch := by
  unfold homeReads
  exact ⟨foldl_mem _ (fun s x => by simp) _ _, foldl_scratch _ (fun s x => by simp) _ _⟩
@[simp] theorem homeWrites_same (s : State) (core pa key n : Nat) : (homeWrites s core pa key n).mem = s.mem ∧ (homeWrites s core pa key n).scratch = s.scratch := by
  unfold homeWrites
  exact ⟨foldl_mem _ (fun s x => by simp) _ _, foldl_scratch _ (fun s x => by simp) _ _⟩
@[simp] theorem readEntry_same (s : State) (core pa : Nat) : (readEntry s core pa).2.mem = s.mem ∧ (readEntry s core pa).2.scratch = s.scratch := by
  unfold readEntry
  split <;> simp
@[simp] theorem groupLeaf_same (s : State) (core ctx va level lo table span pa : Nat) (e : Dword) : (groupLeaf s core ctx va level lo table span pa e).2.mem = s.mem ∧ (groupLeaf s core ctx va level lo table span pa e).2.scratch = s.scratch := by
  unfold groupLeaf
  dsimp only
  (repeat' split) <;> simp
@[simp] theorem walkFrom_same (core ctx va : Nat) (l : List (Nat × Nat)) (table : Nat) (s : State) :
    (walkFrom core ctx va l table s).2.mem = s.mem ∧ (walkFrom core ctx va l table s).2.scratch = s.scratch := by
  induction l generalizing table s with
  | nil => exact ⟨rfl, rfl⟩
  | cons p l ih =>
    unfold walkFrom
    dsimp only
    (repeat' split) <;> simp [ih]
@[simp] theorem walk_same (s : State) (core ctx va : Nat) : (walk s core ctx va).2.mem = s.mem ∧ (walk s core ctx va).2.scratch = s.scratch := by
  unfold walk
  dsimp only
  split <;> simp
@[simp] theorem walkTranslate_same (s : State) (core ctx : Nat) (ea : Dword) (need : Need) : (walkTranslate s core ctx ea need).2.mem = s.mem ∧ (walkTranslate s core ctx ea need).2.scratch = s.scratch := by
  unfold walkTranslate
  dsimp only
  (repeat' split) <;> simp
@[simp] theorem fillL1Tlb_same (s : State) (core : Nat) (e : Tlb) : (fillL1Tlb s core e).mem = s.mem ∧ (fillL1Tlb s core e).scratch = s.scratch := ⟨rfl, rfl⟩
@[simp] theorem fillTlbs_same (s : State) (core : Nat) (e : Tlb) : (fillTlbs s core e).mem = s.mem ∧ (fillTlbs s core e).scratch = s.scratch := ⟨rfl, rfl⟩
@[simp] theorem translateEa_same (s : State) (core ctx : Nat) (ea : Dword) (need : Need) : (translateEa s core ctx ea need).2.mem = s.mem ∧ (translateEa s core ctx ea need).2.scratch = s.scratch := by
  unfold translateEa
  dsimp only
  (repeat' split) <;> simp
@[simp] theorem l1Fill_same (s : State) (unit core line key : Nat) : (l1Fill s unit core line key).mem = s.mem ∧ (l1Fill s unit core line key).scratch = s.scratch := by
  unfold l1Fill
  dsimp only
  (repeat' split) <;> simp
@[simp] theorem l1Update_same (s : State) (unit pa key n v : Nat) : (l1Update s unit pa key n v).mem = s.mem ∧ (l1Update s unit pa key n v).scratch = s.scratch := ⟨rfl, rfl⟩
@[simp] theorem dropL1_same (s : State) (unit : Nat) : (dropL1 s unit).mem = s.mem ∧ (dropL1 s unit).scratch = s.scratch := ⟨rfl, rfl⟩
@[simp] theorem failStore_same (s : State) (tk gen thread cause detail : Nat) (ea : Dword) : (failStore s tk gen thread cause detail ea).mem = s.mem ∧ (failStore s tk gen thread cause detail ea).scratch = s.scratch := by
  unfold failStore
  split <;> simp

@[simp] theorem portDone_same (s : State) (core id : Nat) : (portDone s core id).mem = s.mem ∧ (portDone s core id).scratch = s.scratch := ⟨rfl, rfl⟩
@[simp] theorem portPut_same (s : State) (core : Nat) (x : PortItem) : (portPut s core x).mem = s.mem ∧ (portPut s core x).scratch = s.scratch := ⟨rfl, rfl⟩
@[simp] theorem acquireAt_same (s : State) (tk : Nat) (wide : Bool) : (acquireAt s tk wide).mem = s.mem ∧ (acquireAt s tk wide).scratch = s.scratch := by
  unfold acquireAt
  split <;> simp
@[simp] theorem acquire_same (s : State) (tk ctx entry : Nat) : (acquire s tk ctx entry).mem = s.mem ∧ (acquire s tk ctx entry).scratch = s.scratch := by simp [acquire]
@[simp] theorem enqueue_same (s : State) (w : Who) (ths : BitVec 16) (what : Waiting) : (enqueue s w ths what).mem = s.mem ∧ (enqueue s w ths what).scratch = s.scratch := ⟨rfl, rfl⟩
@[simp] theorem enqueueAct_same (s : State) (w : Who) (a : Act) (p : Place) : (enqueueAct s w a p).mem = s.mem ∧ (enqueueAct s w a p).scratch = s.scratch := ⟨rfl, rfl⟩
@[simp] theorem fenceThreads_same (s : State) (tk : Nat) (t : Troupe) (what : Waiting) (pend : State → Who → Bool) : (fenceThreads s tk t what pend).mem = s.mem ∧ (fenceThreads s tk t what pend).scratch = s.scratch := by
  unfold fenceThreads
  exact ⟨foldl_mem _ (fun s x => by simp) _ _, foldl_scratch _ (fun s x => by simp) _ _⟩
@[simp] theorem acquireAll_same (s : State) (tk : Nat) (t : Troupe) (wide : Bool) : (acquireAll s tk t wide).mem = s.mem ∧ (acquireAll s tk t wide).scratch = s.scratch := by simp [acquireAll]
@[simp] theorem holdEffects_same (s : State) (tk : Nat) (l : List (Nat × Act)) : (holdEffects s tk l).mem = s.mem ∧ (holdEffects s tk l).scratch = s.scratch := ⟨rfl, rfl⟩
@[simp] theorem stallCommit_same (s : State) (f : Focus) : (stallCommit s f).mem = s.mem ∧ (stallCommit s f).scratch = s.scratch := ⟨rfl, rfl⟩
@[simp] theorem putThread_same (s : State) (f : Focus) (i : Nat) (th : Thread) : (putThread s f i th).mem = s.mem ∧ (putThread s f i th).scratch = s.scratch := ⟨rfl, rfl⟩
@[simp] theorem reach_same (s : State) (tk : Nat) (t : Troupe) (fn n : Nat) (ea : Dword) (need : Need) : (reach s tk t fn n ea need).2.mem = s.mem ∧ (reach s tk t fn n ea need).2.scratch = s.scratch := by
  unfold reach
  dsimp only
  (repeat' split) <;> simp
@[simp] theorem windowPush_same (s : State) (p : PushReq) : (windowPush s p).2.mem = s.mem ∧ (windowPush s p).2.scratch = s.scratch := by
  unfold windowPush
  (repeat' split) <;> simp
@[simp] theorem answerWindow_same (s : State) (w : WinReq) (v : Option Nat) : (answerWindow s w v).mem = s.mem ∧ (answerWindow s w v).scratch = s.scratch := ⟨rfl, rfl⟩
@[simp] theorem sendLoad_same (s : State) (tk gen op time : Nat) (fills : List Fill) (replayed : Bool) : (sendLoad s tk gen op time fills replayed).mem = s.mem ∧ (sendLoad s tk gen op time fills replayed).scratch = s.scratch := ⟨rfl, rfl⟩
@[simp] theorem scratchLoad_same (s : State) (w : Who) (lane cyc : Nat) (ea : Dword) (size q op : Nat) (ids : List Nat) (off : Nat) : (scratchLoad s w lane cyc ea size q op ids off).mem = s.mem ∧ (scratchLoad s w lane cyc ea size q op ids off).scratch = s.scratch := ⟨rfl, rfl⟩
@[simp] theorem holdReply_same (s : State) (f : Focus) : (holdReply s f).mem = s.mem ∧ (holdReply s f).scratch = s.scratch := ⟨rfl, rfl⟩
@[simp] theorem holdAnswer_same (s : State) (f : Focus) (faults : List (Nat × Cause)) : (holdAnswer s f faults).mem = s.mem ∧ (holdAnswer s f faults).scratch = s.scratch := by
  unfold holdAnswer
  split <;> simp
@[simp] theorem answered_same (s : State) (f : Focus) : (answered s f).mem = s.mem ∧ (answered s f).scratch = s.scratch := by simp [answered]
@[simp] theorem sendWindows_same (s : State) (f : Focus) (l : List Sent) (uniform : Bool) : (sendWindows s f l uniform).mem = s.mem ∧ (sendWindows s f l uniform).scratch = s.scratch := by
  unfold sendWindows
  split <;> simp
@[simp] theorem popSent_same (f : Focus) (x : StF) (s : State) (y : Sent) : (popSent f x s y).mem = s.mem ∧ (popSent f x s y).scratch = s.scratch := by
  unfold popSent
  dsimp only
  (repeat' split) <;> simp
@[simp] theorem atomScope_same (s : State) (tk : Nat) (wide : Bool) (pa key : Nat) : (atomScope s tk wide pa key).2.mem = s.mem ∧ (atomScope s tk wide pa key).2.scratch = s.scratch := by
  unfold atomScope
  dsimp only
  (repeat' split) <;> simp
@[simp] theorem sendAtom_same (s : State) (w : Who) (op : Nat) (fills : List Fill) (g : Option (Nat × Dword)) (replayed : Bool) : (sendAtom s w op fills g replayed).mem = s.mem ∧ (sendAtom s w op fills g replayed).scratch = s.scratch := ⟨rfl, rfl⟩
@[simp] theorem reportTail_same (s : State) (pa n : Nat) : (reportTail s pa n).mem = s.mem ∧ (reportTail s pa n).scratch = s.scratch := by
  unfold reportTail
  split
  · exact ⟨rfl, rfl⟩
  · exact ⟨foldl_mem _ (fun s x => by split <;> rfl) _ _, foldl_scratch _ (fun s x => by split <;> rfl) _ _⟩
@[simp] theorem endCopy_same (s : State) (c : CopyOp) (err : Option (Nat × Dword)) : (endCopy s c err).mem = s.mem ∧ (endCopy s c err).scratch = s.scratch := by
  unfold endCopy
  split <;> simp
@[simp] theorem launchCopy_same (s : State) (c : CopyOp) : (launchCopy s c).mem = s.mem ∧ (launchCopy s c).scratch = s.scratch := ⟨rfl, rfl⟩
@[simp] theorem finishTag_same (s : State) (f : Focus) (t : Troupe) (n : Nat) : (finishTag s f t n).mem = s.mem ∧ (finishTag s f t n).scratch = s.scratch := by simp [finishTag]
@[simp] theorem meshTime_same (s : State) (src dst : Nat) : (State.meshTime s src dst).2.mem = s.mem ∧ (State.meshTime s src dst).2.scratch = s.scratch := ⟨rfl, rfl⟩
@[simp] theorem modKept_same (s : State) (ek : Nat) (g : Ensemble → Ensemble) : (State.modKept s ek g).mem = s.mem ∧ (State.modKept s ek g).scratch = s.scratch := ⟨rfl, rfl⟩
@[simp] theorem sendReleases_same (s : State) (ek comp linear n : Nat) : (sendReleases s ek comp linear n).mem = s.mem ∧ (sendReleases s ek comp linear n).scratch = s.scratch := by
  unfold sendReleases
  exact ⟨foldl_mem _ (fun s x => by simp) _ _, foldl_scratch _ (fun s x => by simp) _ _⟩
@[simp] theorem completePhase_same (s : State) (ek n : Nat) : (completePhase s ek n).mem = s.mem ∧ (completePhase s ek n).scratch = s.scratch := by
  unfold completePhase
  dsimp only
  (repeat' split) <;> simp
@[simp] theorem countArrival_same (s : State) (ek n : Nat) : (countArrival s ek n).mem = s.mem ∧ (countArrival s ek n).scratch = s.scratch := by
  unfold countArrival
  dsimp only
  (repeat' split) <;> simp
@[simp] theorem countShell_same (s : State) (ek n : Nat) : (countShell s ek n).mem = s.mem ∧ (countShell s ek n).scratch = s.scratch := by
  unfold countShell
  dsimp only
  (repeat' split) <;> simp
@[simp] theorem arriveAt_same (s : State) (ek n : Nat) : (arriveAt s ek n).mem = s.mem ∧ (arriveAt s ek n).scratch = s.scratch := by
  unfold arriveAt
  dsimp only
  (repeat' split) <;> simp
@[simp] theorem doArrive_same (s : State) (tk ek n : Nat) : (doArrive s tk ek n).mem = s.mem ∧ (doArrive s tk ek n).scratch = s.scratch := by
  unfold doArrive
  split <;> simp
@[simp] theorem doWait_same (s : State) (f : Focus) (n : Nat) : (doWait s f n).mem = s.mem ∧ (doWait s f n).scratch = s.scratch := by
  unfold doWait
  dsimp only
  (repeat' split) <;> simp
@[simp] theorem deliverSem_same (s : State) (ek idx bytes : Nat) : (deliverSem s ek idx bytes).mem = s.mem ∧ (deliverSem s ek idx bytes).scratch = s.scratch := ⟨rfl, rfl⟩
@[simp] theorem remoteArrive_same (s : State) (r : RemoteArr) : (remoteArrive s r).2.mem = s.mem ∧ (remoteArrive s r).2.scratch = s.scratch := by
  unfold remoteArrive
  (repeat' split) <;> simp
@[simp] theorem raiseOvf_same (s : State) (f : Focus) (t : Troupe) (i : Nat) : (raiseOvf s f t i).mem = s.mem ∧ (raiseOvf s f t i).scratch = s.scratch := by simp [raiseOvf]
@[simp] theorem tellParent_same (s : State) (parent : Option Nat) (id : Nat) (status : Dword) : (tellParent s parent id status).mem = s.mem ∧ (tellParent s parent id status).scratch = s.scratch := by
  unfold tellParent
  split <;> simp
@[simp] theorem finishTake_same (s : State) (tk d p : Nat) (r : Option (List Dword)) : (finishTake s tk d p r).mem = s.mem ∧ (finishTake s tk d p r).scratch = s.scratch := by
  unfold finishTake
  split <;> simp
@[simp] theorem syncSpill_same (s : State) (ctx : Nat) : (syncSpill s ctx).mem = s.mem ∧ (syncSpill s ctx).scratch = s.scratch := ⟨rfl, rfl⟩
@[simp] theorem modSection_same (s : State) (ctx : Nat) (key : Word) (f : Section → Section) : (modSection s ctx key f).mem = s.mem ∧ (modSection s ctx key f).scratch = s.scratch := ⟨rfl, rfl⟩
@[simp] theorem regap_same (s : State) : (regap s).mem = s.mem ∧ (regap s).scratch = s.scratch := ⟨rfl, rfl⟩
@[simp] theorem ordSync_same (s : State) (ctx : Nat) : (ordSync s ctx).mem = s.mem ∧ (ordSync s ctx).scratch = s.scratch := by
  unfold ordSync
  (repeat' split) <;> simp
@[simp] theorem ordBegin_same (s : State) (ctx : Nat) : (ordBegin s ctx).mem = s.mem ∧ (ordBegin s ctx).scratch = s.scratch := by simp [ordBegin]
@[simp] theorem startHead_same (s : State) (core e : Nat) : (startHead s core e).mem = s.mem ∧ (startHead s core e).scratch = s.scratch := by
  unfold startHead
  dsimp only
  (repeat' split) <;> simp
@[simp] theorem acceptCmd_same (s : State) (tk : Nat) (t : Troupe) (e issue : Nat) (ws : List Word) : (acceptCmd s tk t e issue ws).2.mem = s.mem ∧ (acceptCmd s tk t e issue ws).2.scratch = s.scratch := by
  unfold acceptCmd
  dsimp only
  (repeat' split) <;> simp
@[simp] theorem placeOf_same (s : State) (c : Cmd) (space a : Nat) (need : Need) : (placeOf s c space a need).2.mem = s.mem ∧ (placeOf s c space a need).2.scratch = s.scratch := by
  unfold placeOf
  dsimp only
  (repeat' split) <;> simp
@[simp] theorem appendCmd_same (s : State) (core e : Nat) (c : Cmd) : (appendCmd s core e c).mem = s.mem ∧ (appendCmd s core e c).scratch = s.scratch := by
  unfold appendCmd
  dsimp only
  (repeat' split) <;> simp
@[simp] theorem replyUniform_same (s : State) (f : Focus) (lead : Option Thread) (d : BitVec 6) (v : Word) : (replyUniform s f lead d v).mem = s.mem ∧ (replyUniform s f lead d v).scratch = s.scratch := by
  unfold replyUniform
  dsimp only
  (repeat' split) <;> simp
@[simp] theorem holdEnq_same (s : State) (f : Focus) (lead : Thread) (e : Nat) (ws : List Word) : (holdEnq s f lead e ws).mem = s.mem ∧ (holdEnq s f lead e ws).scratch = s.scratch := ⟨rfl, rfl⟩
@[simp] theorem breakCmd_same (s : State) (core e id : Nat) : (breakCmd s core e id).mem = s.mem ∧ (breakCmd s core e id).scratch = s.scratch := ⟨rfl, rfl⟩
@[simp] theorem releasePlaces_same (s : State) (f : Focus) : (releasePlaces s f).mem = s.mem ∧ (releasePlaces s f).scratch = s.scratch := by
  unfold releasePlaces
  split <;> simp
@[simp] theorem raiseLate_same (s : State) (f : Focus) (e p : Nat) : (raiseLate s f e p).mem = s.mem ∧ (raiseLate s f e p).scratch = s.scratch := by simp [raiseLate]
@[simp] theorem keepSpots_same (s : State) (f : Focus) (after : Nat → Thread → Thread) (d n : Nat) : (keepSpots s f after d n).1.mem = s.mem ∧ (keepSpots s f after d n).1.scratch = s.scratch := ⟨rfl, rfl⟩
@[simp] theorem keepPlaces_same (s : State) (f : Focus) (lead : Option Thread) (d : BitVec 6) : (keepPlaces s f lead d).1.mem = s.mem ∧ (keepPlaces s f lead d).1.scratch = s.scratch := by
  unfold keepPlaces
  (repeat' split) <;> simp
@[simp] theorem sleepTo_same (s : State) (f : Focus) (t : Troupe) (d : BitVec 6) (a : Word) (lead : Thread) : (sleepTo s f t d a lead).mem = s.mem ∧ (sleepTo s f t d a lead).scratch = s.scratch := by
  unfold sleepTo
  dsimp only
  (repeat' split) <;> simp
@[simp] theorem setCmd_same (s : State) (core e : Nat) (c : Cmd) : (setCmd s core e c).mem = s.mem ∧ (setCmd s core e c).scratch = s.scratch := ⟨rfl, rfl⟩
@[simp] theorem endWaitLate_same (s : State) (tk : Nat) : (endWaitLate s tk).mem = s.mem ∧ (endWaitLate s tk).scratch = s.scratch := by
  unfold endWaitLate
  dsimp only
  (repeat' split) <;> simp
@[simp] theorem resumeLate_same (s : State) (tk : Nat) : (resumeLate s tk).mem = s.mem ∧ (resumeLate s tk).scratch = s.scratch := by simp [resumeLate]
@[simp] theorem setBank_same (s : State) (u b : Nat) (k : Bank) : (setBank s u b k).mem = s.mem ∧ (setBank s u b k).scratch = s.scratch := ⟨rfl, rfl⟩
@[simp] theorem closeFlags_same (s : State) (l : List (Nat × Option Nat)) : (closeFlags s l).mem = s.mem ∧ (closeFlags s l).scratch = s.scratch := by
  unfold closeFlags
  exact ⟨foldl_mem _ (fun s x => by simp) _ _, foldl_scratch _ (fun s x => by simp) _ _⟩
@[simp] theorem finishMat_same (s : State) (u : Nat) (o : MatOp) : (finishMat s u o).mem = s.mem ∧ (finishMat s u o).scratch = s.scratch := by simp [finishMat]
@[simp] theorem cancelMat_same (s : State) (u ens : Nat) : (cancelMat s u ens).mem = s.mem ∧ (cancelMat s u ens).scratch = s.scratch := by simp [cancelMat]
@[simp] theorem failMat_same (s : State) (u : Nat) (o : MatOp) (d : Nat) : (failMat s u o d).mem = s.mem ∧ (failMat s u o d).scratch = s.scratch := by simp [failMat]
@[simp] theorem modRunning_same (s : State) (u id : Nat) (f : MatOp → MatOp) : (modRunning s u id f).mem = s.mem ∧ (modRunning s u id f).scratch = s.scratch := ⟨rfl, rfl⟩
@[simp] theorem startMat_same (s : State) (u : Nat) (o : MatOp) : (startMat s u o).mem = s.mem ∧ (startMat s u o).scratch = s.scratch := by
  unfold startMat
  (repeat' split) <;> simp
@[simp] theorem takeGrant_same (s : State) (u : Nat) (o : MatOp) : (takeGrant s u o).mem = s.mem ∧ (takeGrant s u o).scratch = s.scratch := ⟨rfl, rfl⟩
@[simp] theorem grantPlain_same (s : State) (u : Nat) (o : MatOp) : (grantPlain s u o).mem = s.mem ∧ (grantPlain s u o).scratch = s.scratch := by
  unfold grantPlain
  dsimp only
  (repeat' split) <;> simp
@[simp] theorem grantPass_same (s : State) (u : Nat) (o : MatOp) : (grantPass s u o).mem = s.mem ∧ (grantPass s u o).scratch = s.scratch := by
  unfold grantPass
  dsimp only
  (repeat' split) <;> simp
@[simp] theorem modTable_same (s : State) (u id : Nat) (f : MatOp → MatOp) : (modTable s u id f).mem = s.mem ∧ (modTable s u id f).scratch = s.scratch := ⟨rfl, rfl⟩
@[simp] theorem beginWait_same (s : State) (u : Nat) (o : MatOp) : (beginWait s u o).mem = s.mem ∧ (beginWait s u o).scratch = s.scratch := ⟨rfl, rfl⟩
@[simp] theorem endWait_same (s : State) (u : Nat) (o : MatOp) : (endWait s u o).mem = s.mem ∧ (endWait s u o).scratch = s.scratch := ⟨rfl, rfl⟩
@[simp] theorem matEffect_same (s : State) (u : Nat) (o : MatOp) : (matEffect s u o).mem = s.mem ∧ (matEffect s u o).scratch = s.scratch := by
  unfold matEffect
  (repeat' split) <;> simp
@[simp] theorem raiseLatch_same (s : State) (f : Focus) (ens : Nat) (l : Latch) : (raiseLatch s f ens l).mem = s.mem ∧ (raiseLatch s f ens l).scratch = s.scratch := by simp [raiseLatch]
@[simp] theorem enterTable_same (s : State) (u : Nat) (o : MatOp) : (enterTable s u o).mem = s.mem ∧ (enterTable s u o).scratch = s.scratch := ⟨rfl, rfl⟩
@[simp] theorem writeV_same (s : State) (f : Focus) (d : BitVec 5) (v : Dword) : (writeV s f d v).mem = s.mem ∧ (writeV s f d v).scratch = s.scratch := by
  unfold writeV
  split <;> simp
@[simp] theorem endMwait_same (s : State) (f : Focus) (t : Troupe) (e : Ensemble) (d : BitVec 5) : (endMwait s f t e d).mem = s.mem ∧ (endMwait s f t e d).scratch = s.scratch := by simp [endMwait]
@[simp] theorem occupyPlane_same (s : State) (f : Focus) (rows : Nat) : (occupyPlane s f rows).mem = s.mem ∧ (occupyPlane s f rows).scratch = s.scratch := ⟨rfl, rfl⟩
@[simp] theorem replayAbsent_same (s : State) (tk : Nat) (t : Troupe) (a : Act) : (replayAbsent s tk t a).2.mem = s.mem ∧ (replayAbsent s tk t a).2.scratch = s.scratch := by
  unfold replayAbsent
  (repeat' split) <;> simp
@[simp] theorem releaseHeld_same (s : State) (tk : Nat) (l : List Held) : (releaseHeld s tk l).mem = s.mem ∧ (releaseHeld s tk l).scratch = s.scratch := ⟨rfl, rfl⟩
@[simp] theorem raiseHeld_same (s : State) (tk : Nat) (os : List Origin) : (raiseHeld s tk os).mem = s.mem ∧ (raiseHeld s tk os).scratch = s.scratch := by
  unfold raiseHeld
  split <;> simp
@[simp] theorem commitTroupe_same (s : State) (tk : Nat) : (commitTroupe s tk).mem = s.mem ∧ (commitTroupe s tk).scratch = s.scratch := by
  unfold commitTroupe
  split <;> simp
@[simp] theorem commitSketch_same (s : State) (u t : Nat) : (commitSketch s u t).mem = s.mem ∧ (commitSketch s u t).scratch = s.scratch := by
  unfold commitSketch
  dsimp only
  (repeat' split) <;> first | exact ⟨rfl, rfl⟩ | exact ⟨foldl_mem _ (fun s x => by (repeat' split) <;> simp) _ _, foldl_scratch _ (fun s x => by (repeat' split) <;> simp) _ _⟩
@[simp] theorem writeScope_same (s : State) (ctx e w : Nat) (v : Dword) : (writeScope s ctx e w v).mem = s.mem ∧ (writeScope s ctx e w v).scratch = s.scratch := by
  unfold writeScope
  split <;> simp
@[simp] theorem writeOsspill_same (s : State) (ctx : Nat) (v : Dword) : (writeOsspill s ctx v).mem = s.mem ∧ (writeOsspill s ctx v).scratch = s.scratch := by
  unfold writeOsspill
  split <;> simp
@[simp] theorem closeHandler_same (s : State) (tk : Nat) : (closeHandler s tk).mem = s.mem ∧ (closeHandler s tk).scratch = s.scratch := by
  unfold closeHandler
  (repeat' split) <;> simp
@[simp] theorem resolveTag_same (s : State) (t : Troupe) (how : Nat) (tag v : Word) : (resolveTag s t how tag v).mem = s.mem ∧ (resolveTag s t how tag v).scratch = s.scratch := by
  unfold resolveTag
  (repeat' split) <;> simp
@[simp] theorem bumpGen_same (s : State) (tk : Nat) : (bumpGen s tk).mem = s.mem ∧ (bumpGen s tk).scratch = s.scratch := ⟨rfl, rfl⟩
@[simp] theorem haltAfter_same (s : State) (f : Focus) : (haltAfter s f).mem = s.mem ∧ (haltAfter s f).scratch = s.scratch := ⟨rfl, rfl⟩
@[simp] theorem debugEnd_same (s : State) (err : Nat) : (debugEnd s err).mem = s.mem ∧ (debugEnd s err).scratch = s.scratch := ⟨rfl, rfl⟩
@[simp] theorem debugData_same (s : State) (v : Dword) : (debugData s v).mem = s.mem ∧ (debugData s v).scratch = s.scratch := ⟨rfl, rfl⟩
@[simp] theorem resumeTroupe_same (s : State) (tk : Nat) (m : Halt) : (resumeTroupe s tk m).mem = s.mem ∧ (resumeTroupe s tk m).scratch = s.scratch := by
  unfold resumeTroupe
  dsimp only
  (repeat' split) <;> simp
@[simp] theorem writePc_same (s : State) (tk : Nat) (v : Dword) : (writePc s tk v).mem = s.mem ∧ (writePc s tk v).scratch = s.scratch := by
  unfold writePc
  dsimp only
  (repeat' split) <;> simp
@[simp] theorem dropTlbs_same (s : State) (from_ scope : Nat) (sel : Tlb → Bool) : (dropTlbs s from_ scope sel).mem = s.mem ∧ (dropTlbs s from_ scope sel).scratch = s.scratch := ⟨rfl, rfl⟩
@[simp] theorem wakeAll_same (s : State) (from_ scope ctx span a : Nat) : (wakeAll s from_ scope ctx span a).mem = s.mem ∧ (wakeAll s from_ scope ctx span a).scratch = s.scratch := ⟨rfl, rfl⟩
@[simp] theorem memcPage_same (s : State) (core ctx va : Nat) (need : Need) : (memcPage s core ctx va need).2.mem = s.mem ∧ (memcPage s core ctx va need).2.scratch = s.scratch := by
  unfold memcPage
  dsimp only
  (repeat' split) <;> simp
@[simp] theorem dropReplicas_same (s : State) (e : Tlb) : (dropReplicas s e).mem = s.mem ∧ (dropReplicas s e).scratch = s.scratch := ⟨rfl, rfl⟩
@[simp] theorem endHold_same (s : State) (part : Nat) (readmit : Bool) (key : Nat) : (endHold s part readmit key).mem = s.mem ∧ (endHold s part readmit key).scratch = s.scratch := ⟨rfl, rfl⟩
@[simp] theorem withdrawEnter_same (s : State) (tk : Nat) : (withdrawEnter s tk).mem = s.mem ∧ (withdrawEnter s tk).scratch = s.scratch := by
  unfold withdrawEnter
  (repeat' split) <;> simp
@[simp] theorem stopTroupe_same (force : Bool) (s : State) (k : Nat) : (stopTroupe force s k).mem = s.mem ∧ (stopTroupe force s k).scratch = s.scratch := by
  unfold stopTroupe
  (repeat' split) <;> simp
@[simp] theorem stopTroupes_same (s : State) (force : Bool) (ks : List Nat) : (stopTroupes s force ks).mem = s.mem ∧ (stopTroupes s force ks).scratch = s.scratch := by
  unfold stopTroupes
  exact ⟨foldl_mem _ (fun s x => by simp) _ _, foldl_scratch _ (fun s x => by simp) _ _⟩

@[simp] theorem bindBanks_same (s : State) (u : Nat) (l : KV Bank) : (bindBanks s u l).2.mem = s.mem ∧ (bindBanks s u l).2.scratch = s.scratch := by
  unfold bindBanks
  exact ⟨foldl_mem _ (fun s x => by simp) _ _, foldl_scratch _ (fun s x => by simp) _ _⟩
@[simp] theorem placeTracked_same (s : State) (u : Nat) (l : List (Nat × Tracked)) : (placeTracked s u l).2.mem = s.mem ∧ (placeTracked s u l).2.scratch = s.scratch := by
  have h : ∀ (l : List (Nat × Tracked)) (a : List (Nat × Nat) × State),
      (l.foldl (fun a p => match (p.1 :: upTo 16).find? (fun i => (entryOf a.2 u i).isNone) with
        | some i => (a.1 ++ [(p.1, i)], setEntry a.2 u i p.2)
        | none => a) a).2.mem = a.2.mem ∧
      (l.foldl (fun a p => match (p.1 :: upTo 16).find? (fun i => (entryOf a.2 u i).isNone) with
        | some i => (a.1 ++ [(p.1, i)], setEntry a.2 u i p.2)
        | none => a) a).2.scratch = a.2.scratch := by
    intro l
    induction l with
    | nil => exact fun a => ⟨rfl, rfl⟩
    | cons x l ih =>
      intro a
      rw [List.foldl_cons]
      refine ⟨(ih _).1.trans ?_, (ih _).2.trans ?_⟩ <;> split <;> simp
  exact h l ([], s)
@[simp] theorem shiftGaps_same (s : State) (ctx d : Nat) : (shiftGaps s ctx d).mem = s.mem ∧ (shiftGaps s ctx d).scratch = s.scratch := ⟨rfl, rfl⟩
@[simp] theorem startCtx_same (s : State) (ctx : Nat) : (startCtx s ctx).mem = s.mem ∧ (startCtx s ctx).scratch = s.scratch := by
  unfold startCtx
  split <;> simp
@[simp] theorem holdRows_same (s : State) (ctx : Nat) (l : List Nat) : (holdRows s ctx l).mem = s.mem ∧ (holdRows s ctx l).scratch = s.scratch := ⟨rfl, rfl⟩
@[simp] theorem dropPins_same (s : State) (ctx : Nat) : (dropPins s ctx).mem = s.mem ∧ (dropPins s ctx).scratch = s.scratch := ⟨rfl, rfl⟩
@[simp] theorem modTt_same (s : State) (comp : Nat) (f : Timetable → Timetable) : (State.modTt s comp f).mem = s.mem ∧ (State.modTt s comp f).scratch = s.scratch := ⟨rfl, rfl⟩
@[simp] theorem beginFrame_same (s : State) (comp : Nat) (held : Bool) : (beginFrame s comp held).mem = s.mem ∧ (beginFrame s comp held).scratch = s.scratch := ⟨rfl, rfl⟩
@[simp] theorem scanOutAll_same (s : State) (f : Word) : (scanOutAll s f).mem = s.mem ∧ (scanOutAll s f).scratch = s.scratch := ⟨rfl, rfl⟩
@[simp] theorem failSkipped_same (s : State) (f : Word) : (failSkipped s f).mem = s.mem ∧ (failSkipped s f).scratch = s.scratch := by
  unfold failSkipped
  exact ⟨foldl_mem _ (fun s x => by (repeat' split) <;> simp) _ _, foldl_scratch _ (fun s x => by (repeat' split) <;> simp) _ _⟩
@[simp] theorem respond_same (s : State) (code : Nat) (body : BitVec 384) : (respond s code body).mem = s.mem ∧ (respond s code body).scratch = s.scratch := ⟨rfl, rfl⟩
@[simp] theorem spdmError_same (s : State) : (spdmError s).mem = s.mem ∧ (spdmError s).scratch = s.scratch := ⟨rfl, rfl⟩
@[simp] theorem spdmAnswer_same (s : State) (code operand : Nat) : (spdmAnswer s code operand).mem = s.mem ∧ (spdmAnswer s code operand).scratch = s.scratch := ⟨rfl, rfl⟩
@[simp] theorem dropSlot_same (s : State) (slot : Nat) : (dropSlot s slot).mem = s.mem ∧ (dropSlot s slot).scratch = s.scratch := ⟨rfl, rfl⟩
@[simp] theorem changeKey_same (s : State) (session : BitVec 32) (slot : Nat) (k : KeySlot) : (changeKey s session slot k).mem = s.mem ∧ (changeKey s session slot k).scratch = s.scratch := by
  unfold changeKey
  split <;> simp
@[simp] theorem writePtbase_same (s : State) (v : Dword) : (writePtbase s v).mem = s.mem ∧ (writePtbase s v).scratch = s.scratch := by
  unfold writePtbase
  dsimp only
  (repeat' split) <;> simp
@[simp] theorem writeDbgcmd_same (s : State) (cmd : Nat) : (writeDbgcmd s cmd).mem = s.mem ∧ (writeDbgcmd s cmd).scratch = s.scratch := by
  unfold writeDbgcmd
  split <;> simp
@[simp] theorem unwait_same (s : State) : (unwait s).mem = s.mem ∧ (unwait s).scratch = s.scratch := ⟨rfl, rfl⟩
@[simp] theorem writePeriod_same (s : State) (v : Dword) : (writePeriod s v).mem = s.mem ∧ (writePeriod s v).scratch = s.scratch := by
  unfold writePeriod
  dsimp only
  (repeat' split) <;> simp
@[simp] theorem writeOutput_same (s : State) (o : Nat) (second : Bool) (v : Dword) : (writeOutput s o second v).mem = s.mem ∧ (writeOutput s o second v).scratch = s.scratch := ⟨rfl, rfl⟩
@[simp] theorem touchFrame_same (s : State) (tk : Nat) (t : Troupe) : (touchFrame s tk t).mem = s.mem ∧ (touchFrame s tk t).scratch = s.scratch := by
  unfold touchFrame
  split <;> simp

@[simp] theorem takeTurn_same (s : State) (core holder : Nat) (run : Option Nat) : (takeTurn s core holder run).mem = s.mem ∧ (takeTurn s core holder run).scratch = s.scratch := ⟨rfl, rfl⟩
@[simp] theorem tickClock_same (s : State) : (tickClock s).mem = s.mem ∧ (tickClock s).scratch = s.scratch := ⟨rfl, rfl⟩
end Sys2Proof.Laws
end

