-- ==== Sys2Proof/Laws/Memory.lean ====
section
/-! SUPPORT. Laws of byte memory: a read after a write, other addresses, and that every operation keeps the canonical form. -/

namespace Sys2Proof.Laws

open Sys2Proof.Machine

theorem memWfFrom_le {a b : Nat} {m : Memory} (h : memWfFrom b m = true) (hab : a ≤ b) : memWfFrom a m = true := by
  cases m with
  | nil => rfl
  | cons p r => obtain ⟨k, v⟩ := p; simp [memWfFrom] at h ⊢; exact ⟨⟨by omega, h.1.2⟩, h.2⟩

/-- An address below every listed one reads the fill byte. -/
theorem readByte_below {lo a : Nat} {m : Memory} (h : memWfFrom lo m = true) (ha : a < lo) : readByte m a = fillByte := by
  cases m with
  | nil => rfl
  | cons p r =>
    obtain ⟨k, v⟩ := p
    simp [memWfFrom] at h
    simp [readByte, show ¬ k = a by omega, show a < k by omega]

theorem writeByte_wfFrom {lo a : Nat} {m : Memory} (v : Byte) (h : memWfFrom lo m = true) (ha : lo ≤ a) :
    memWfFrom lo (writeByte m a v) = true := by
  induction m generalizing lo with
  | nil => by_cases hv : v = fillByte <;> simp [writeByte, hv, memWfFrom, ha]
  | cons p r ih =>
    obtain ⟨k, w⟩ := p
    simp [memWfFrom] at h
    obtain ⟨⟨h1, h2⟩, h3⟩ := h
    by_cases e : k = a
    · subst e
      by_cases hv : v = fillByte
      · simp [writeByte, hv]; exact memWfFrom_le h3 (by omega)
      · simp [writeByte, hv, memWfFrom, h1, h3]
    · by_cases l : a < k
      · by_cases hv : v = fillByte
        · simp [writeByte, e, l, hv, memWfFrom, h1, h2, h3]
        · simp [writeByte, e, l, hv, memWfFrom, ha, h2, h3] <;> omega
      · simp [writeByte, e, l, memWfFrom, h1, h2, ih h3 (show k + 1 ≤ a by omega)]

/-- A write of one byte keeps the canonical form. -/
@[simp] theorem writeByte_wf {m : Memory} (a : Nat) (v : Byte) (h : m.wf = true) : (writeByte m a v).wf = true :=
  writeByte_wfFrom v h (Nat.zero_le a)

@[simp] theorem writeNat_wf {m : Memory} (a n v : Nat) (h : m.wf = true) : (writeNat m a n v).wf = true := by
  induction n generalizing m a v with
  | zero => exact h
  | succ n ih => exact ih _ _ (writeByte_wf _ _ h)

@[simp] theorem writeList_wf {m : Memory} (a : Nat) (l : List Byte) (h : m.wf = true) : (writeList m a l).wf = true := by
  induction l generalizing m a with
  | nil => exact h
  | cons b r ih => exact ih _ (writeByte_wf _ _ h)

theorem filter_wfFrom {lo : Nat} {m : Memory} (q : Host.Cell → Bool) (h : memWfFrom lo m = true) :
    memWfFrom lo (m.filter q) = true := by
  induction m generalizing lo with
  | nil => rfl
  | cons p r ih =>
    obtain ⟨k, w⟩ := p
    simp [memWfFrom] at h
    by_cases e : q (k, w) = true
    · simp [e, memWfFrom, h.1.1, h.1.2, ih h.2]
    · simp [e]; exact memWfFrom_le (ih h.2) (by omega)

@[simp] theorem filter_wf {m : Memory} (q : Host.Cell → Bool) (h : m.wf = true) : Memory.wf (m.filter q) = true := filter_wfFrom q h

/-- A read after a write of the same byte. -/
theorem readByte_writeByte_same {m : Memory} (a : Nat) (v : Byte) (h : m.wf = true) : readByte (writeByte m a v) a = v := by
  unfold Memory.wf at h
  generalize hlo : (0 : Nat) = lo at h
  clear hlo
  induction m generalizing lo with
  | nil => by_cases hv : v = fillByte <;> simp [writeByte, readByte, hv]
  | cons p r ih =>
    obtain ⟨k, w⟩ := p
    simp [memWfFrom] at h
    by_cases e : k = a
    · subst e
      by_cases hv : v = fillByte
      · simp [writeByte, hv]; exact readByte_below h.2 (by omega)
      · simp [writeByte, hv, readByte]
    · by_cases l : a < k
      · by_cases hv : v = fillByte <;> simp [writeByte, e, l, hv, readByte]
      · simp [writeByte, e, l, readByte, ih _ h.2]

/-- A write leaves every other byte. -/
theorem readByte_writeByte_other {m : Memory} {a b : Nat} (v : Byte) (h : m.wf = true) (hab : b ≠ a) :
    readByte (writeByte m a v) b = readByte m b := by
  unfold Memory.wf at h
  generalize hlo : (0 : Nat) = lo at h
  clear hlo
  induction m generalizing lo with
  | nil =>
    by_cases hv : v = fillByte
    · simp [writeByte, hv]
    · by_cases hb : b < a <;> simp [writeByte, readByte, hv, Ne.symm hab]
  | cons p r ih =>
    obtain ⟨k, w⟩ := p
    simp [memWfFrom] at h
    by_cases e : k = a
    · subst e
      by_cases hv : v = fillByte
      · simp only [writeByte, hv, if_true]
        by_cases hb : b < k
        · simp [readByte, Ne.symm hab, hb]; exact readByte_below h.2 (by omega)
        · simp [readByte, Ne.symm hab, hb]
      · simp [writeByte, hv, readByte, Ne.symm hab]
    · by_cases l : a < k
      · by_cases hv : v = fillByte
        · simp [writeByte, e, l, hv]
        · simp only [writeByte, e, l, hv, if_true, if_false]
          by_cases hb : b < a
          · simp [readByte, Ne.symm hab, hb, show ¬ k = b by omega, show b < k by omega]
          · simp [readByte, Ne.symm hab, hb]
      · simp only [writeByte, e, l, if_false, readByte, ih _ h.2]

theorem readByte_writeNat_other {m : Memory} {a n b : Nat} (v : Nat) (h : m.wf = true) (hb : ¬ (a ≤ b ∧ b < a + n)) :
    readByte (writeNat m a n v) b = readByte m b := by
  induction n generalizing m a v with
  | zero => rfl
  | succ n ih =>
    rw [writeNat, ih _ (writeByte_wf _ _ h) (by omega), readByte_writeByte_other _ h (by omega)]

theorem readByte_writeList_other {m : Memory} {a b : Nat} (l : List Byte) (h : m.wf = true)
    (hb : ¬ (a ≤ b ∧ b < a + l.length)) : readByte (writeList m a l) b = readByte m b := by
  induction l generalizing m a with
  | nil => rfl
  | cons x r ih =>
    simp at hb
    rw [writeList, ih (writeByte_wf _ _ h) (by omega), readByte_writeByte_other _ h (by omega)]

/-- n bytes read after n bytes written at the same address. -/
theorem readNat_writeNat {m : Memory} (a n v : Nat) (h : m.wf = true) : readNat (writeNat m a n v) a n = v % 256 ^ n := by
  induction n generalizing m a v with
  | zero => simp [readNat, Nat.mod_one]
  | succ n ih =>
    have hw := writeByte_wf a (BitVec.ofNat 8 v) h
    rw [readNat, writeNat, ih _ _ hw, readByte_writeNat_other _ hw (by omega), readByte_writeByte_same _ _ h]
    simp only [BitVec.toNat_ofNat, show (2 : Nat) ^ 8 = 256 from rfl]
    rw [show 256 ^ (n + 1) = 256 * 256 ^ n by rw [Nat.pow_succ, Nat.mul_comm], Nat.mod_mul]

end Sys2Proof.Laws
end

