-- ==== Sys2Proof/Laws/Keeps.lean ====
section
/-! SUPPORT. The shared operations that write physical memory or scratch keep both in canonical form, one lemma each. -/

namespace Sys2Proof.Laws
open Sys2Proof.Machine

theorem foldl_keeps {α : Type} (g : State → α → State)
    (h : ∀ s x, Memory.wf s.mem = true → Memory.wf s.scratch = true → Memory.wf (g s x).mem = true ∧ Memory.wf (g s x).scratch = true)
    (l : List α) (s : State) (h1 : Memory.wf s.mem = true) (h2 : Memory.wf s.scratch = true) :
    Memory.wf (l.foldl g s).mem = true ∧ Memory.wf (l.foldl g s).scratch = true := by
  induction l generalizing s with
  | nil => exact ⟨h1, h2⟩
  | cons x l ih => exact ih _ (h s x h1 h2).1 (h s x h1 h2).2
theorem foldl_wf {α : Type} (g : Memory → α → Memory) (h : ∀ m x, Memory.wf m = true → Memory.wf (g m x) = true) (l : List α) (m : Memory)
    (hm : Memory.wf m = true) : Memory.wf (l.foldl g m) = true := by
  induction l generalizing m with
  | nil => exact hm
  | cons x l ih => exact ih _ (h m x hm)
@[simp] theorem retag_keeps (s : State) (key line : Nat) (h1 : Memory.wf s.mem = true) (h2 : Memory.wf s.scratch = true) :
    Memory.wf (retag s key line).mem = true ∧ Memory.wf (retag s key line).scratch = true := by
  unfold retag
  generalize physList s key (16 * line) 16 = l
  dsimp only
  split
  · exact ⟨h1, h2⟩
  · exact ⟨writeList_wf _ _ h1, h2⟩
@[simp] theorem physWriteByte_keeps (s : State) (key pa : Nat) (b : Byte) (h1 : Memory.wf s.mem = true) (h2 : Memory.wf s.scratch = true) :
    Memory.wf (physWriteByte s key pa b).mem = true ∧ Memory.wf (physWriteByte s key pa b).scratch = true :=
  ⟨writeByte_wf _ _ (retag_keeps s key (pa / 16) h1 h2).1, (retag_keeps s key (pa / 16) h1 h2).2⟩
@[simp] theorem physWrite_keeps (s : State) (key pa n v : Nat) (h1 : Memory.wf s.mem = true) (h2 : Memory.wf s.scratch = true) :
    Memory.wf (physWrite s key pa n v).mem = true ∧ Memory.wf (physWrite s key pa n v).scratch = true := by
  induction n generalizing s pa v with
  | zero => exact ⟨h1, h2⟩
  | succ n ih => exact ih _ _ _ (physWriteByte_keeps s key pa _ h1 h2).1 (physWriteByte_keeps s key pa _ h1 h2).2
@[simp] theorem physWriteList_keeps (s : State) (key pa : Nat) (l : List Byte) (h1 : Memory.wf s.mem = true) (h2 : Memory.wf s.scratch = true) :
    Memory.wf (physWriteList s key pa l).mem = true ∧ Memory.wf (physWriteList s key pa l).scratch = true := by
  induction l generalizing s pa with
  | nil => exact ⟨h1, h2⟩
  | cons b l ih => exact ih _ _ (physWriteByte_keeps s key pa b h1 h2).1 (physWriteByte_keeps s key pa b h1 h2).2

@[simp] theorem scrWrite_keeps (s : State) (unit off n v : Nat) (h1 : Memory.wf s.mem = true) (h2 : Memory.wf s.scratch = true) : Memory.wf (scrWrite s unit off n v).mem = true ∧ Memory.wf (scrWrite s unit off n v).scratch = true := by simp [scrWrite, h1, h2]
@[simp] theorem putScratch_keeps (s : State) (unit base : Nat) (ws : List (Nat × List Byte)) (h1 : Memory.wf s.mem = true) (h2 : Memory.wf s.scratch = true) :
    Memory.wf (putScratch s unit base ws).mem = true ∧ Memory.wf (putScratch s unit base ws).scratch = true := by
  refine ⟨h1, ?_⟩
  exact foldl_wf _ (fun m x hm => writeList_wf _ _ hm) _ _ h2
@[simp] theorem writePort_keeps (s : State) (core : Nat) (p : PortItem) (h1 : Memory.wf s.mem = true) (h2 : Memory.wf s.scratch = true) : Memory.wf (writePort s core p).mem = true ∧ Memory.wf (writePort s core p).scratch = true := by
  unfold writePort
  split
  · dsimp only
    split <;> simp [h1, h2]
  · exact ⟨h1, h2⟩
@[simp] theorem performStore_keeps (s : State) (x : StoreItem) (h1 : Memory.wf s.mem = true) (h2 : Memory.wf s.scratch = true) : Memory.wf (performStore s x).mem = true ∧ Memory.wf (performStore s x).scratch = true := by
  unfold performStore
  dsimp only
  (repeat' split) <;> simp [h1, h2]
@[simp] theorem performHead_keeps (s : State) (h1 : Memory.wf s.mem = true) (h2 : Memory.wf s.scratch = true) : Memory.wf (performHead s).mem = true ∧ Memory.wf (performHead s).scratch = true := by
  unfold performHead
  split <;> simp [h1, h2]
@[simp] theorem performN_keeps (n : Nat) (s : State) (h1 : Memory.wf s.mem = true) (h2 : Memory.wf s.scratch = true) :
    Memory.wf (performN n s).mem = true ∧ Memory.wf (performN n s).scratch = true := by
  induction n generalizing s with
  | zero => exact ⟨h1, h2⟩
  | succ n ih => exact ih _ (performHead_keeps s h1 h2).1 (performHead_keeps s h1 h2).2
@[simp] theorem drainStores_keeps (s : State) (h1 : Memory.wf s.mem = true) (h2 : Memory.wf s.scratch = true) :
    Memory.wf (drainStores s).mem = true ∧ Memory.wf (drainStores s).scratch = true := performN_keeps _ s h1 h2

@[simp] theorem performUntil_keeps (s : State) (sel : StoreItem → Bool) (h1 : Memory.wf s.mem = true) (h2 : Memory.wf s.scratch = true) : Memory.wf (performUntil s sel).mem = true ∧ Memory.wf (performUntil s sel).scratch = true := by
  unfold performUntil
  split <;> simp [h1, h2]
@[simp] theorem performOwn_keeps (s : State) (tk thread pa n : Nat) (h1 : Memory.wf s.mem = true) (h2 : Memory.wf s.scratch = true) : Memory.wf (performOwn s tk thread pa n).mem = true ∧ Memory.wf (performOwn s tk thread pa n).scratch = true := by simp [performOwn, h1, h2]
@[simp] theorem performLine_keeps (s : State) (unit line : Nat) (h1 : Memory.wf s.mem = true) (h2 : Memory.wf s.scratch = true) : Memory.wf (performLine s unit line).mem = true ∧ Memory.wf (performLine s unit line).scratch = true := by simp [performLine, h1, h2]
@[simp] theorem performThread_keeps (s : State) (tk thread : Nat) (h1 : Memory.wf s.mem = true) (h2 : Memory.wf s.scratch = true) : Memory.wf (performThread s tk thread).mem = true ∧ Memory.wf (performThread s tk thread).scratch = true := by simp [performThread, h1, h2]
@[simp] theorem performTroupe_keeps (s : State) (tk : Nat) (h1 : Memory.wf s.mem = true) (h2 : Memory.wf s.scratch = true) : Memory.wf (performTroupe s tk).mem = true ∧ Memory.wf (performTroupe s tk).scratch = true := by simp [performTroupe, h1, h2]

@[simp] theorem performPort_keeps (s : State) (core : Nat) (p : PortItem) (h1 : Memory.wf s.mem = true) (h2 : Memory.wf s.scratch = true) : Memory.wf (performPort s core p).mem = true ∧ Memory.wf (performPort s core p).scratch = true := by simp [performPort, h1, h2]
@[simp] theorem sendPartial_keeps (fadd bfadd : Word → Word → Word) (unit : Nat) (s : State) (p : Partial) (h1 : Memory.wf s.mem = true) (h2 : Memory.wf s.scratch = true) : Memory.wf (sendPartial fadd bfadd unit s p).mem = true ∧ Memory.wf (sendPartial fadd bfadd unit s p).scratch = true := by
  unfold sendPartial
  dsimp only
  split
  · exact foldl_keeps _ (fun s c g1 g2 => by simp [g1, g2]) _ _ (by simp [h1, h2]) (by simp [h1, h2])
  · simp [h1, h2]
@[simp] theorem flushPartials_keeps (fadd bfadd : Word → Word → Word) (s : State) (unit : Nat) (sel : Partial → Bool) (h1 : Memory.wf s.mem = true) (h2 : Memory.wf s.scratch = true) : Memory.wf (flushPartials fadd bfadd s unit sel).mem = true ∧ Memory.wf (flushPartials fadd bfadd s unit sel).scratch = true := by
  unfold flushPartials
  exact foldl_keeps _ (fun s p g1 g2 => by simp [g1, g2]) _ _ h1 h2
@[simp] theorem flushLine_keeps (s : State) (unit line : Nat) (h1 : Memory.wf s.mem = true) (h2 : Memory.wf s.scratch = true) : Memory.wf (flushLine s unit line).mem = true ∧ Memory.wf (flushLine s unit line).scratch = true := by
  unfold flushLine
  split <;> simp [h1, h2]
@[simp] theorem flushRange_keeps (s : State) (unit pa n : Nat) (h1 : Memory.wf s.mem = true) (h2 : Memory.wf s.scratch = true) : Memory.wf (flushRange s unit pa n).mem = true ∧ Memory.wf (flushRange s unit pa n).scratch = true := by
  unfold flushRange
  split <;> simp [h1, h2]
@[simp] theorem flushTroupe_keeps (s : State) (tk : Nat) (h1 : Memory.wf s.mem = true) (h2 : Memory.wf s.scratch = true) : Memory.wf (flushTroupe s tk).mem = true ∧ Memory.wf (flushTroupe s tk).scratch = true := by
  unfold flushTroupe
  split <;> simp [h1, h2]
@[simp] theorem release_keeps (s : State) (tk : Nat) (h1 : Memory.wf s.mem = true) (h2 : Memory.wf s.scratch = true) : Memory.wf (release s tk).mem = true ∧ Memory.wf (release s tk).scratch = true := by simp (maxDischargeDepth := 9) [release, h1, h2]
@[simp] theorem globalRead_keeps (s : State) (w : Who) (pa key n : Nat) (pmode nc : Bool) (h1 : Memory.wf s.mem = true) (h2 : Memory.wf s.scratch = true) : Memory.wf (globalRead s w pa key n pmode nc).2.mem = true ∧ Memory.wf (globalRead s w pa key n pmode nc).2.scratch = true := by
  unfold globalRead
  dsimp only
  (repeat' split) <;> simp (maxDischargeDepth := 9) [h1, h2]
@[simp] theorem globalStore_keeps (s : State) (w : Who) (pa key n v : Nat) (ea : Dword) (nc mca : Bool) (h1 : Memory.wf s.mem = true) (h2 : Memory.wf s.scratch = true) : Memory.wf (globalStore s w pa key n v ea nc mca).mem = true ∧ Memory.wf (globalStore s w pa key n v ea nc mca).scratch = true := by
  unfold globalStore
  split <;> simp [h1, h2]
@[simp] theorem atomWord_keeps (s : State) (w : Who) (pa key : Nat) (ea : Dword) (pmode wide mca : Bool) (f : Word → Word) (h1 : Memory.wf s.mem = true) (h2 : Memory.wf s.scratch = true) : Memory.wf (atomWord s w pa key ea pmode wide mca f).2.mem = true ∧ Memory.wf (atomWord s w pa key ea pmode wide mca f).2.scratch = true := by
  unfold atomWord
  dsimp only
  (repeat' split) <;> simp (maxDischargeDepth := 9) [h1, h2]
@[simp] theorem reduceWord_keeps (s : State) (w : Who) (pa key : Nat) (ea : Dword) (pmode wide mca : Bool) (rel : Option Bool) (fn : Nat) (b : Word) (h1 : Memory.wf s.mem = true) (h2 : Memory.wf s.scratch = true) : Memory.wf (reduceWord s w pa key ea pmode wide mca rel fn b).mem = true ∧ Memory.wf (reduceWord s w pa key ea pmode wide mca rel fn b).scratch = true := by
  unfold reduceWord
  dsimp only
  (repeat' split) <;> simp (maxDischargeDepth := 9) [h1, h2]
@[simp] theorem flushRecords_keeps (ctx n : Nat) (s : State) (h1 : Memory.wf s.mem = true) (h2 : Memory.wf s.scratch = true) :
    Memory.wf (flushRecords ctx n s).mem = true ∧ Memory.wf (flushRecords ctx n s).scratch = true := by
  induction n generalizing s with
  | zero => exact ⟨h1, h2⟩
  | succ n ih =>
    unfold flushRecords
    dsimp only
    split
    · exact ⟨h1, h2⟩
    · split
      · exact ⟨h1, h2⟩
      · have g := fun r => physWriteList_keeps s 0 (((s.ctx ctx).pfring.extractLsb' 12 44).toNat * 4096 + 32 * ((s.ctx ctx).pftail.toNat % 2 ^ (((s.ctx ctx).pfring.extractLsb' 0 4).toNat + 7))) r h1 h2
        apply ih
        · simpa using (g _).1
        · simpa using (g _).2
@[simp] theorem postRecord_keeps (s : State) (ctx : Nat) (r : FaultRec) (h1 : Memory.wf s.mem = true) (h2 : Memory.wf s.scratch = true) :
    Memory.wf (postRecord s ctx r).mem = true ∧ Memory.wf (postRecord s ctx r).scratch = true :=
  flushRecords_keeps _ _ _ h1 h2
@[simp] theorem parkWithRecord_keeps (s : State) (f : Focus) (t : Troupe) (entries : List (Replay × Nat)) (faults : List (Nat × Cause)) (h1 : Memory.wf s.mem = true) (h2 : Memory.wf s.scratch = true) : Memory.wf (parkWithRecord s f t entries faults).mem = true ∧ Memory.wf (parkWithRecord s f t entries faults).scratch = true := by
  unfold parkWithRecord
  dsimp only
  (repeat' split) <;> simp [h1, h2]
@[simp] theorem scratchStore_keeps (s : State) (w : Who) (unit off n v : Nat) (ea : Dword) (h1 : Memory.wf s.mem = true) (h2 : Memory.wf s.scratch = true) : Memory.wf (scratchStore s w unit off n v ea).mem = true ∧ Memory.wf (scratchStore s w unit off n v ea).scratch = true := by
  unfold scratchStore
  dsimp only
  (repeat' split) <;> simp [h1, h2]
@[simp] theorem windowStore_keeps (s : State) (w : Who) (n v : Nat) (ea : Dword) (h1 : Memory.wf s.mem = true) (h2 : Memory.wf s.scratch = true) : Memory.wf (windowStore s w n v ea).mem = true ∧ Memory.wf (windowStore s w n v ea).scratch = true := by
  unfold windowStore
  dsimp only
  (repeat' split) <;> simp [h1, h2]
@[simp] theorem performLoad_keeps (s : State) (w : Who) (p : Place) (lane cyc : Nat) (ea : Dword) (size fn q op : Nat) (ids : List Nat) (replayed : Bool) (h1 : Memory.wf s.mem = true) (h2 : Memory.wf s.scratch = true) : Memory.wf (performLoad s w p lane cyc ea size fn q op ids replayed).mem = true ∧ Memory.wf (performLoad s w p lane cyc ea size fn q op ids replayed).scratch = true := by
  unfold performLoad
  split <;> simp [h1, h2]
@[simp] theorem issueLoad_keeps (s : State) (w : Who) (p : Place) (lane cyc : Nat) (ea : Dword) (size fn q op : Nat) (ids : List Nat) (wide : Bool) (h1 : Memory.wf s.mem = true) (h2 : Memory.wf s.scratch = true) : Memory.wf (issueLoad s w p lane cyc ea size fn q op ids wide).mem = true ∧ Memory.wf (issueLoad s w p lane cyc ea size fn q op ids wide).scratch = true := by
  unfold issueLoad
  dsimp only
  (repeat' split) <;> simp [h1, h2]
@[simp] theorem performStoreAt_keeps (s : State) (w : Who) (p : Place) (lane cyc : Nat) (ea : Dword) (size fn : Nat) (data : Dword) (mca : Bool) (h1 : Memory.wf s.mem = true) (h2 : Memory.wf s.scratch = true) : Memory.wf (performStoreAt s w p lane cyc ea size fn data mca).mem = true ∧ Memory.wf (performStoreAt s w p lane cyc ea size fn data mca).scratch = true := by
  unfold performStoreAt
  (repeat' split) <;> simp [h1, h2]
@[simp] theorem issueStore_keeps (s : State) (w : Who) (p : Place) (lane cyc : Nat) (ea : Dword) (size fn : Nat) (data : Dword) (mca : Bool) (rel : Option Bool) (h1 : Memory.wf s.mem = true) (h2 : Memory.wf s.scratch = true) : Memory.wf (issueStore s w p lane cyc ea size fn data mca rel).mem = true ∧ Memory.wf (issueStore s w p lane cyc ea size fn data mca rel).scratch = true := by
  unfold issueStore
  dsimp only
  (repeat' split) <;> simp [h1, h2]
@[simp] theorem performAtom_keeps (s : State) (w : Who) (p : Place) (ea : Dword) (fn : Nat) (b d : Word) (dst op id : Nat) (wide mca replayed : Bool) (h1 : Memory.wf s.mem = true) (h2 : Memory.wf s.scratch = true) : Memory.wf (performAtom s w p ea fn b d dst op id wide mca replayed).mem = true ∧ Memory.wf (performAtom s w p ea fn b d dst op id wide mca replayed).scratch = true := by
  unfold performAtom
  dsimp only
  (repeat' split) <;> simp [h1, h2]
@[simp] theorem issueAtom_keeps (s : State) (w : Who) (p : Place) (ea : Dword) (fn : Nat) (b d : Word) (dst op id : Nat) (wide mca : Bool) (rel : Option Bool) (h1 : Memory.wf s.mem = true) (h2 : Memory.wf s.scratch = true) : Memory.wf (issueAtom s w p ea fn b d dst op id wide mca rel).mem = true ∧ Memory.wf (issueAtom s w p ea fn b d dst op id wide mca rel).scratch = true := by
  unfold issueAtom
  dsimp only
  (repeat' split) <;> simp [h1, h2]
@[simp] theorem performRed_keeps (s : State) (w : Who) (p : Place) (ea : Dword) (fn : Nat) (b : Word) (wide mca : Bool) (rel : Option Bool) (h1 : Memory.wf s.mem = true) (h2 : Memory.wf s.scratch = true) : Memory.wf (performRed s w p ea fn b wide mca rel).mem = true ∧ Memory.wf (performRed s w p ea fn b wide mca rel).scratch = true := by
  unfold performRed
  dsimp only
  (repeat' split) <;> simp [h1, h2]
@[simp] theorem issueRed_keeps (s : State) (w : Who) (p : Place) (ea : Dword) (fn : Nat) (b : Word) (wide mca : Bool) (slot : Nat) (rel : Option Bool) (h1 : Memory.wf s.mem = true) (h2 : Memory.wf s.scratch = true) : Memory.wf (issueRed s w p ea fn b wide mca slot rel).mem = true ∧ Memory.wf (issueRed s w p ea fn b wide mca slot rel).scratch = true := by
  unfold issueRed
  dsimp only
  (repeat' split) <;> simp [h1, h2]
@[simp] theorem performWaiting_keeps (s : State) (x : WaitItem) (a : Act) (p : Place) (h1 : Memory.wf s.mem = true) (h2 : Memory.wf s.scratch = true) : Memory.wf (performWaiting s x a p).mem = true ∧ Memory.wf (performWaiting s x a p).scratch = true := by
  unfold performWaiting
  (repeat' split) <;> simp [h1, h2]
@[simp] theorem performItem_keeps (s : State) (x : WaitItem) (h1 : Memory.wf s.mem = true) (h2 : Memory.wf s.scratch = true) : Memory.wf (performItem s x).mem = true ∧ Memory.wf (performItem s x).scratch = true := by
  unfold performItem
  split <;> simp [h1, h2]
@[simp] theorem homeFetch_keeps (s : State) (unit core ctx pa key n : Nat) (pmode : Bool) (h1 : Memory.wf s.mem = true) (h2 : Memory.wf s.scratch = true) : Memory.wf (homeFetch s unit core ctx pa key n pmode).2.mem = true ∧ Memory.wf (homeFetch s unit core ctx pa key n pmode).2.scratch = true := by
  unfold homeFetch
  split <;> simp [h1, h2]
@[simp] theorem blockWrite_same (s : State) (pa n : Nat) (l : List Byte) : (blockWrite s pa n l).mem = s.mem ∧ (blockWrite s pa n l).scratch = s.scratch := by
  induction n generalizing s pa l with
  | zero => cases l <;> exact ⟨rfl, rfl⟩
  | succ n ih =>
    cases l with
    | nil => exact ⟨rfl, rfl⟩
    | cons b l => unfold blockWrite; simp [ih]
@[simp] theorem writeHome_keeps (s : State) (core ctx pa key : Nat) (bs : List Byte) (h1 : Memory.wf s.mem = true) (h2 : Memory.wf s.scratch = true) : Memory.wf (writeHome s core ctx pa key bs).2.mem = true ∧ Memory.wf (writeHome s core ctx pa key bs).2.scratch = true := by
  unfold writeHome
  (repeat' split) <;> simp [h1, h2]
@[simp] theorem scrWriteList_keeps (s : State) (unit off : Nat) (bs : List Byte) (h1 : Memory.wf s.mem = true) (h2 : Memory.wf s.scratch = true) : Memory.wf (scrWriteList s unit off bs).mem = true ∧ Memory.wf (scrWriteList s unit off bs).scratch = true := by simp [scrWriteList, h1, h2]
@[simp] theorem performCopy_keeps (s : State) (c : CopyOp) (h1 : Memory.wf s.mem = true) (h2 : Memory.wf s.scratch = true) : Memory.wf (performCopy s c).mem = true ∧ Memory.wf (performCopy s c).scratch = true := by
  unfold performCopy
  dsimp only
  (repeat' split) <;> simp [h1, h2]
@[simp] theorem releaseAll_keeps (s : State) (tk : Nat) (wide : Bool) (h1 : Memory.wf s.mem = true) (h2 : Memory.wf s.scratch = true) : Memory.wf (releaseAll s tk wide).mem = true ∧ Memory.wf (releaseAll s tk wide).scratch = true := by simp [releaseAll, h1, h2]
theorem afterRelease_keeps (s : State) (f : Focus) (t : Troupe) (k : State → State) (h1 : Memory.wf s.mem = true) (h2 : Memory.wf s.scratch = true)
    (hk : ∀ s, Memory.wf s.mem = true → Memory.wf s.scratch = true → Memory.wf (k s).mem = true ∧ Memory.wf (k s).scratch = true) :
    Memory.wf (afterRelease s f t k).mem = true ∧ Memory.wf (afterRelease s f t k).scratch = true := by
  unfold afterRelease
  have g : Memory.wf (drainStores (flushTroupe s f.troupe)).mem = true ∧ Memory.wf (drainStores (flushTroupe s f.troupe)).scratch = true := by
    simp (maxDischargeDepth := 9) [h1, h2]
  dsimp only
  split
  · simp (maxDischargeDepth := 9) [h1, h2]
  · exact hk _ g.1 g.2
@[simp] theorem virtFetchFrom_keeps (core ctx n : Nat) (s : State) (ea m : Nat) (h1 : Memory.wf s.mem = true) (h2 : Memory.wf s.scratch = true) :
    Memory.wf (virtFetchFrom core ctx n s ea m).2.mem = true ∧ Memory.wf (virtFetchFrom core ctx n s ea m).2.scratch = true := by
  induction n generalizing s ea m with
  | zero => exact ⟨h1, h2⟩
  | succ n ih =>
    unfold virtFetchFrom
    split
    · exact ⟨h1, h2⟩
    · have w1 : Memory.wf (walkTranslate s core ctx (BitVec.ofNat 64 ea) .read).2.mem = true := by simp [h1]
      have w2 : Memory.wf (walkTranslate s core ctx (BitVec.ofNat 64 ea) .read).2.scratch = true := by simp [h2]
      dsimp only
      split
      · rename_i pa key pm _
        have g := homeFetch_keeps _ (core / 4) core ctx pa key (min m (4096 - ea % 4096)) pm w1 w2
        split
        · exact g
        · exact ih _ _ _ g.1 g.2
      · exact ⟨w1, w2⟩
@[simp] theorem virtFetch_keeps (s : State) (core ctx ea n : Nat) (h1 : Memory.wf s.mem = true) (h2 : Memory.wf s.scratch = true) : Memory.wf (virtFetch s core ctx ea n).2.mem = true ∧ Memory.wf (virtFetch s core ctx ea n).2.scratch = true := by simp [virtFetch, h1, h2]
@[simp] theorem virtWriteFrom_keeps (core ctx n : Nat) (s : State) (ea : Nat) (bs : List Byte) (h1 : Memory.wf s.mem = true) (h2 : Memory.wf s.scratch = true) :
    Memory.wf (virtWriteFrom core ctx n s ea bs).2.mem = true ∧ Memory.wf (virtWriteFrom core ctx n s ea bs).2.scratch = true := by
  induction n generalizing s ea bs with
  | zero => exact ⟨h1, h2⟩
  | succ n ih =>
    unfold virtWriteFrom
    split
    · exact ⟨h1, h2⟩
    · have w1 : Memory.wf (walkTranslate s core ctx (BitVec.ofNat 64 ea) .write).2.mem = true := by simp [h1]
      have w2 : Memory.wf (walkTranslate s core ctx (BitVec.ofNat 64 ea) .write).2.scratch = true := by simp [h2]
      dsimp only
      split
      · rename_i pa key _ _
        have g := writeHome_keeps _ core ctx pa key (bs.take (min bs.length (4096 - ea % 4096))) w1 w2
        split
        · exact g
        · exact ih _ _ _ g.1 g.2
      · exact ⟨w1, w2⟩
@[simp] theorem virtWrite_keeps (s : State) (core ctx ea : Nat) (bs : List Byte) (h1 : Memory.wf s.mem = true) (h2 : Memory.wf s.scratch = true) : Memory.wf (virtWrite s core ctx ea bs).2.mem = true ∧ Memory.wf (virtWrite s core ctx ea bs).2.scratch = true := by simp [virtWrite, h1, h2]
@[simp] theorem writeDone_keeps (s : State) (ctx : Nat) (done status : Dword) (h1 : Memory.wf s.mem = true) (h2 : Memory.wf s.scratch = true) : Memory.wf (writeDone s ctx done status).mem = true ∧ Memory.wf (writeDone s ctx done status).scratch = true := by
  unfold writeDone
  dsimp only
  (repeat' split) <;> simp (maxDischargeDepth := 9) [h1, h2]
@[simp] theorem virtTouch_keeps (s : State) (ctx : Nat) (l : List (Nat × Nat)) (h1 : Memory.wf s.mem = true) (h2 : Memory.wf s.scratch = true) : Memory.wf (virtTouch s ctx l).mem = true ∧ Memory.wf (virtTouch s ctx l).scratch = true := by
  unfold virtTouch
  exact foldl_keeps _ (fun s r g1 g2 => by simp [g1, g2]) _ _ h1 h2
@[simp] theorem submit_keeps (s : State) (ctx part : Nat) (parent : Option Nat) (depth : Nat) (bytes : Option (List Byte)) (h1 : Memory.wf s.mem = true) (h2 : Memory.wf s.scratch = true) : Memory.wf (submit s ctx part parent depth bytes).2.mem = true ∧ Memory.wf (submit s ctx part parent depth bytes).2.scratch = true := by
  unfold submit
  dsimp only
  (repeat' split) <;> simp (maxDischargeDepth := 9) [h1, h2]
@[simp] theorem dropSection_keeps (s : State) (e : Section) (h1 : Memory.wf s.mem = true) (h2 : Memory.wf s.scratch = true) : Memory.wf (dropSection s e).mem = true ∧ Memory.wf (dropSection s e).scratch = true := by
  unfold dropSection
  split <;> simp [h1, h2]
@[simp] theorem enqWords_keeps (s : State) (f : Focus) (t : Troupe) (x : EnqF) (lead : Thread) (ws : List Word) (h1 : Memory.wf s.mem = true) (h2 : Memory.wf s.scratch = true) : Memory.wf (enqWords s f t x lead ws).mem = true ∧ Memory.wf (enqWords s f t x lead ws).scratch = true := by
  unfold enqWords
  dsimp only
  (repeat' split) <;> simp (maxDischargeDepth := 9) [h1, h2]
@[simp] theorem enqPlain_keeps (s : State) (f : Focus) (t : Troupe) (x : EnqF) (h1 : Memory.wf s.mem = true) (h2 : Memory.wf s.scratch = true) : Memory.wf (enqPlain s f t x).mem = true ∧ Memory.wf (enqPlain s f t x).scratch = true := by
  unfold enqPlain
  dsimp only
  (repeat' split) <;> simp [h1, h2]
@[simp] theorem pieceRead_keeps (s : State) (c : Cmd) (space a n : Nat) (h1 : Memory.wf s.mem = true) (h2 : Memory.wf s.scratch = true) : Memory.wf (pieceRead s c space a n).2.mem = true ∧ Memory.wf (pieceRead s c space a n).2.scratch = true := by
  unfold pieceRead
  dsimp only
  (repeat' split) <;> simp [h1, h2]
@[simp] theorem pieceWrite_keeps (s : State) (c : Cmd) (space a : Nat) (bs : List Byte) (h1 : Memory.wf s.mem = true) (h2 : Memory.wf s.scratch = true) : Memory.wf (pieceWrite s c space a bs).2.mem = true ∧ Memory.wf (pieceWrite s c space a bs).2.scratch = true := by
  unfold pieceWrite
  dsimp only
  (repeat' split) <;> simp [h1, h2]
@[simp] theorem uniformWrites_keeps (s : State) (tk : Nat) (t : Troupe) (ws : List (Nat × List Byte)) (h1 : Memory.wf s.mem = true) (h2 : Memory.wf s.scratch = true) : Memory.wf (uniformWrites s tk t ws).mem = true ∧ Memory.wf (uniformWrites s tk t ws).scratch = true := by
  unfold uniformWrites
  split <;> simp [h1, h2]
@[simp] theorem vmemAct_keeps (s : State) (f : Focus) (t : Troupe) (load : Bool) (d : BitVec 5) (l : List Dword) (h1 : Memory.wf s.mem = true) (h2 : Memory.wf s.scratch = true) : Memory.wf (vmemAct s f t load d l).mem = true ∧ Memory.wf (vmemAct s f t load d l).scratch = true := by
  unfold vmemAct
  split <;> simp [h1, h2]
@[simp] theorem replayLoad_keeps (s : State) (w : Who) (t : Troupe) (ea : Dword) (size fn q op : Nat) (ids : List Nat) (wide : Bool) (h1 : Memory.wf s.mem = true) (h2 : Memory.wf s.scratch = true) : Memory.wf (replayLoad s w t ea size fn q op ids wide).2.mem = true ∧ Memory.wf (replayLoad s w t ea size fn q op ids wide).2.scratch = true := by
  unfold replayLoad
  dsimp only
  (repeat' split) <;> simp [h1, h2]
@[simp] theorem replayAtom_keeps (s : State) (w : Who) (t : Troupe) (ea : Dword) (fn : Nat) (b d : Word) (dst op id : Nat) (wide mca : Bool) (h1 : Memory.wf s.mem = true) (h2 : Memory.wf s.scratch = true) : Memory.wf (replayAtom s w t ea fn b d dst op id wide mca).2.mem = true ∧ Memory.wf (replayAtom s w t ea fn b d dst op id wide mca).2.scratch = true := by
  unfold replayAtom
  dsimp only
  (repeat' split) <;> simp [h1, h2]
@[simp] theorem lateStore_keeps (s : State) (w : Who) (t : Troupe) (ea : Dword) (size fn : Nat) (data : Dword) (mca : Bool) (rel : Option Bool) (h1 : Memory.wf s.mem = true) (h2 : Memory.wf s.scratch = true) : Memory.wf (lateStore s w t ea size fn data mca rel).2.mem = true ∧ Memory.wf (lateStore s w t ea size fn data mca rel).2.scratch = true := by
  unfold lateStore
  dsimp only
  (repeat' split) <;> simp (maxDischargeDepth := 9) [h1, h2]
@[simp] theorem lateRed_keeps (s : State) (w : Who) (t : Troupe) (ea : Dword) (fn : Nat) (b : Word) (wide mca : Bool) (slot : Nat) (rel : Option Bool) (h1 : Memory.wf s.mem = true) (h2 : Memory.wf s.scratch = true) : Memory.wf (lateRed s w t ea fn b wide mca slot rel).2.mem = true ∧ Memory.wf (lateRed s w t ea fn b wide mca slot rel).2.scratch = true := by
  unfold lateRed
  dsimp only
  (repeat' split) <;> simp (maxDischargeDepth := 9) [h1, h2]
@[simp] theorem lateCopy_keeps (s : State) (tk : Nat) (t : Troupe) (c : CopyOp) (parked : Bool) (h1 : Memory.wf s.mem = true) (h2 : Memory.wf s.scratch = true) : Memory.wf (lateCopy s tk t c parked).2.mem = true ∧ Memory.wf (lateCopy s tk t c parked).2.scratch = true := by
  unfold lateCopy
  dsimp only
  (repeat' split) <;> first
    | exact ⟨h1, h2⟩
    | (simp [h1, h2]; done)
    | exact foldl_keeps _ (fun _ _ g1 g2 => by simp [g1, g2]) _ _ (by simp [h1]) (by simp [h2])
@[simp] theorem lateEnq_keeps (s : State) (tk : Nat) (t : Troupe) (e : Nat) (ws : List Word) (h1 : Memory.wf s.mem = true) (h2 : Memory.wf s.scratch = true) : Memory.wf (lateEnq s tk t e ws).mem = true ∧ Memory.wf (lateEnq s tk t e ws).scratch = true := by
  unfold lateEnq
  dsimp only
  (repeat' split) <;> simp [h1, h2]
@[simp] theorem postVersion_keeps (s : State) (u t : Nat) (k : Tracked) (bs : List Byte) (poster : Option Nat) (h1 : Memory.wf s.mem = true) (h2 : Memory.wf s.scratch = true) : Memory.wf (postVersion s u t k bs poster).mem = true ∧ Memory.wf (postVersion s u t k bs poster).scratch = true := by simp [postVersion, h1, h2]
@[simp] theorem takeSketch_keeps (s : State) (f : Focus) (t : Troupe) (d : BitVec 6) (n : Nat) (k : Tracked) (dst len : Nat) (h1 : Memory.wf s.mem = true) (h2 : Memory.wf s.scratch = true) : Memory.wf (takeSketch s f t d n k dst len).mem = true ∧ Memory.wf (takeSketch s f t d n k dst len).scratch = true := by
  unfold takeSketch
  split <;> simp [h1, h2]
@[simp] theorem gfxStore_keeps (s : State) (tk i : Nat) (t : Troupe) (off n v : Nat) (h1 : Memory.wf s.mem = true) (h2 : Memory.wf s.scratch = true) : Memory.wf (gfxStore s tk i t off n v).mem = true ∧ Memory.wf (gfxStore s tk i t off n v).scratch = true := by
  unfold gfxStore
  dsimp only
  split <;> simp [h1, h2]
@[simp] theorem writePfring_keeps (s : State) (ctx : Nat) (v : Dword) (h1 : Memory.wf s.mem = true) (h2 : Memory.wf s.scratch = true) : Memory.wf (writePfring s ctx v).mem = true ∧ Memory.wf (writePfring s ctx v).scratch = true := by
  unfold writePfring
  dsimp only
  (repeat' split) <;> simp [h1, h2]
@[simp] theorem writePfhead_keeps (s : State) (ctx : Nat) (v : Word) (h1 : Memory.wf s.mem = true) (h2 : Memory.wf s.scratch = true) : Memory.wf (writePfhead s ctx v).mem = true ∧ Memory.wf (writePfhead s ctx v).scratch = true := by simp [writePfhead, h1, h2]
@[simp] theorem ctlWrite_keeps (s : State) (f : Focus) (t : Troupe) (n : Nat) (v : Dword) (h1 : Memory.wf s.mem = true) (h2 : Memory.wf s.scratch = true) : Memory.wf (ctlWrite s f t n v).mem = true ∧ Memory.wf (ctlWrite s f t n v).scratch = true := by
  unfold ctlWrite
  (repeat' split) <;> simp [h1, h2]
@[simp] theorem performCopies_keeps (s : State) (sel : CopyOp → Bool) (h1 : Memory.wf s.mem = true) (h2 : Memory.wf s.scratch = true) : Memory.wf (performCopies s sel).mem = true ∧ Memory.wf (performCopies s sel).scratch = true := by
  unfold performCopies
  refine foldl_keeps _ (fun s x g1 g2 => ?_) _ _ h1 h2
  simp [g1, g2]
@[simp] theorem performMine_keeps (s : State) (tk : Nat) (h1 : Memory.wf s.mem = true) (h2 : Memory.wf s.scratch = true) : Memory.wf (performMine s tk).mem = true ∧ Memory.wf (performMine s tk).scratch = true := by simp [performMine, h1, h2]
theorem afterAll_keeps (s : State) (f : Focus) (t : Troupe) (k : State → State) (h1 : Memory.wf s.mem = true) (h2 : Memory.wf s.scratch = true)
    (hk : ∀ s, Memory.wf s.mem = true → Memory.wf s.scratch = true → Memory.wf (k s).mem = true ∧ Memory.wf (k s).scratch = true) :
    Memory.wf (afterAll s f t k).mem = true ∧ Memory.wf (afterAll s f t k).scratch = true := by
  unfold afterAll
  have g := performMine_keeps s f.troupe h1 h2
  dsimp only
  split
  · simp (maxDischargeDepth := 9) [g]
  · exact hk _ g.1 g.2
@[simp] theorem fetchLine_keeps (s : State) (unit core : Nat) (slice : Bool) (l : PLine) (h1 : Memory.wf s.mem = true) (h2 : Memory.wf s.scratch = true) : Memory.wf (fetchLine s unit core slice l).mem = true ∧ Memory.wf (fetchLine s unit core slice l).scratch = true := by
  unfold fetchLine
  dsimp only
  (repeat' split) <;> simp [h1, h2]
@[simp] theorem clearScratch_keeps (s : State) (u base count : Nat) (h1 : Memory.wf s.mem = true) (h2 : Memory.wf s.scratch = true) : Memory.wf (clearScratch s u base count).mem = true ∧ Memory.wf (clearScratch s u base count).scratch = true := by simp [clearScratch, h1, h2]
@[simp] theorem admitAt_keeps (s : State) (id : Nat) (c : Company) (linear u : Nat) (slots : List Nat) (base : Nat) (h1 : Memory.wf s.mem = true) (h2 : Memory.wf s.scratch = true) : Memory.wf (admitAt s id c linear u slots base).mem = true ∧ Memory.wf (admitAt s id c linear u slots base).scratch = true := by
  unfold admitAt
  dsimp only
  split
  · rw [(acquire_same _ _ _ _).1, (acquire_same _ _ _ _).2]
    exact foldl_keeps _ (fun _ _ g1 g2 => by simp [g1, g2]) _ _ (by simp [h1, h2]) (by simp [h1, h2])
  · exact foldl_keeps _ (fun _ _ g1 g2 => by simp [g1, g2]) _ _ (by simp [h1, h2]) (by simp [h1, h2])
@[simp] theorem freeUnit_keeps (s : State) (ek : Nat) (e : Ensemble) (h1 : Memory.wf s.mem = true) (h2 : Memory.wf s.scratch = true) : Memory.wf (freeUnit s ek e).mem = true ∧ Memory.wf (freeUnit s ek e).scratch = true := by
  unfold freeUnit
  exact foldl_keeps _ (fun _ _ g1 g2 => by simp [g1, g2]) _ _ (by simp [h1, h2]) (by simp [h1, h2])
@[simp] theorem quiesce_keeps (s : State) (u : Nat) (h1 : Memory.wf s.mem = true) (h2 : Memory.wf s.scratch = true) : Memory.wf (quiesce s u).mem = true ∧ Memory.wf (quiesce s u).scratch = true := by simp [quiesce, h1, h2]
@[simp] theorem putCells_keeps (s : State) (key : Nat) (l : List Host.Cell) (bad : List Nat) (h1 : Memory.wf s.mem = true) (h2 : Memory.wf s.scratch = true) : Memory.wf (putCells s key l bad).mem = true ∧ Memory.wf (putCells s key l bad).scratch = true := 
  ⟨h1, foldl_wf _ (fun _ _ hm => writeByte_wf _ _ hm) _ _ h2⟩
@[simp] theorem spoil_keeps (s : State) (pa n : Nat) (h1 : Memory.wf s.mem = true) (h2 : Memory.wf s.scratch = true) : Memory.wf (spoil s pa n).mem = true ∧ Memory.wf (spoil s pa n).scratch = true := by simp [spoil, h1, h2]
@[simp] theorem writeMap_keeps (s : State) (ctx : Nat) (h1 : Memory.wf s.mem = true) (h2 : Memory.wf s.scratch = true) : Memory.wf (writeMap s ctx).mem = true ∧ Memory.wf (writeMap s ctx).scratch = true := by simp [writeMap, h1, h2]
@[simp] theorem deviceWrite_keeps (s : State) (a n v : Nat) (h1 : Memory.wf s.mem = true) (h2 : Memory.wf s.scratch = true) : Memory.wf (deviceWrite s a n v).mem = true ∧ Memory.wf (deviceWrite s a n v).scratch = true := by simp [deviceWrite, h1, h2]
@[simp] theorem saveRecords_keeps (s : State) (u : Nat) (sel : Tracked → Bool) (h1 : Memory.wf s.mem = true) (h2 : Memory.wf s.scratch = true) : Memory.wf (saveRecords s u sel).mem = true ∧ Memory.wf (saveRecords s u sel).scratch = true := by
  unfold saveRecords
  refine foldl_keeps _ (fun s x g1 g2 => ?_) _ _ h1 h2
  split <;> simp [g1, g2]
@[simp] theorem saveEnsemble_keeps (s : State) (ek : Nat) (e : Ensemble) (shells : List Shell) (first units : Nat) (h1 : Memory.wf s.mem = true) (h2 : Memory.wf s.scratch = true) : Memory.wf (saveEnsemble s ek e shells first units).mem = true ∧ Memory.wf (saveEnsemble s ek e shells first units).scratch = true := by simp [saveEnsemble, h1, h2]
@[simp] theorem writePool_keeps (s : State) (ctx first units : Nat) (h1 : Memory.wf s.mem = true) (h2 : Memory.wf s.scratch = true) : Memory.wf (writePool s ctx first units).mem = true ∧ Memory.wf (writePool s ctx first units).scratch = true := by simp [writePool, h1, h2]
@[simp] theorem writePartFlags_keeps (s : State) (part flags : Nat) (h1 : Memory.wf s.mem = true) (h2 : Memory.wf s.scratch = true) : Memory.wf (writePartFlags s part flags).mem = true ∧ Memory.wf (writePartFlags s part flags).scratch = true := by simp [writePartFlags, h1, h2]
@[simp] theorem setPartErr_keeps (s : State) (part : Nat) (h1 : Memory.wf s.mem = true) (h2 : Memory.wf s.scratch = true) : Memory.wf (setPartErr s part).mem = true ∧ Memory.wf (setPartErr s part).scratch = true := by
  unfold setPartErr
  split <;> simp [h1, h2]
@[simp] theorem stopUnit_keeps (force : Bool) (s : State) (u : Nat) (h1 : Memory.wf s.mem = true) (h2 : Memory.wf s.scratch = true) : Memory.wf (stopUnit force s u).mem = true ∧ Memory.wf (stopUnit force s u).scratch = true := by simp [stopUnit, h1, h2]
@[simp] theorem spoilOverflow_keeps (s : State) (h1 : Memory.wf s.mem = true) (h2 : Memory.wf s.scratch = true) : Memory.wf (spoilOverflow s).mem = true ∧ Memory.wf (spoilOverflow s).scratch = true := by simp [spoilOverflow, h1, h2]
@[simp] theorem writeRecord_keeps (s : State) (c : Company) (a : Nat) (bs : List Byte) (h1 : Memory.wf s.mem = true) (h2 : Memory.wf s.scratch = true) : Memory.wf (writeRecord s c a bs).mem = true ∧ Memory.wf (writeRecord s c a bs).scratch = true := by simp [writeRecord, h1, h2]
@[simp] theorem makeSlip_keeps (s : State) (comp : Nat) (c : Company) (frame : Word) (step kind : Nat) (h1 : Memory.wf s.mem = true) (h2 : Memory.wf s.scratch = true) : Memory.wf (makeSlip s comp c frame step kind).mem = true ∧ Memory.wf (makeSlip s comp c frame step kind).scratch = true := by
  unfold makeSlip
  (repeat' split) <;> simp [h1, h2]
@[simp] theorem missSlots_keeps (s : State) (c : Cmd) (kind : Nat) (h1 : Memory.wf s.mem = true) (h2 : Memory.wf s.scratch = true) :
    Memory.wf (missSlots s c kind).mem = true ∧ Memory.wf (missSlots s c kind).scratch = true := by
  unfold missSlots
  split
  · exact ⟨h1, h2⟩
  · split
    · exact ⟨h1, h2⟩
    · exact foldl_keeps _ (fun _ _ g1 g2 => by simp [g1, g2]) _ _ h1 h2
@[simp] theorem frameForTt_keeps (s : State) (id : Nat) (h1 : Memory.wf s.mem = true) (h2 : Memory.wf s.scratch = true) : Memory.wf (frameForTt s id).mem = true ∧ Memory.wf (frameForTt s id).scratch = true := by
  unfold frameForTt
  (repeat' split) <;> simp [h1, h2]
@[simp] theorem performScope_keeps (s : State) (from_ scope : Nat) (h1 : Memory.wf s.mem = true) (h2 : Memory.wf s.scratch = true) :
    Memory.wf (performScope s from_ scope).mem = true ∧ Memory.wf (performScope s from_ scope).scratch = true := by
  unfold performScope
  have g := foldl_keeps (fun s (p : Nat × TileUnit) => if inScope from_ scope p.1 then flushPartials faddW bfaddW s p.1 (fun _ => true) else s)
    (fun s p g1 g2 => by split <;> simp [g1, g2]) s.units s h1 h2
  exact performCopies_keeps _ _ g.1 g.2
@[simp] theorem tlbinvEffect_keeps (s : State) (tk : Nat) (a b : Dword) (h1 : Memory.wf s.mem = true) (h2 : Memory.wf s.scratch = true) :
    Memory.wf (tlbinvEffect s tk a b).mem = true ∧ Memory.wf (tlbinvEffect s tk a b).scratch = true := by
  unfold tlbinvEffect
  dsimp only
  (repeat' split) <;> simp [h1, h2]
@[simp] theorem squashUnit_keeps (s : State) (u : Nat) (h1 : Memory.wf s.mem = true) (h2 : Memory.wf s.scratch = true) :
    Memory.wf (squashUnit s u).mem = true ∧ Memory.wf (squashUnit s u).scratch = true := by
  have g := foldl_keeps (fun s t => squashSketch cascade s u t) (fun s t g1 g2 => by simp [g1, g2])
    ((s.tile u).tracked.map (fun p => p.1)) s h1 h2
  exact saveRecords_keeps _ _ _ g.1 g.2
@[simp] theorem enterContext_keeps (s : State) (u : Nat) (inc : Option SavedUnit) (h1 : Memory.wf s.mem = true) (h2 : Memory.wf s.scratch = true) : Memory.wf (enterContext s u inc).mem = true ∧ Memory.wf (enterContext s u inc).scratch = true := by
  unfold enterContext
  cases inc with
  | none =>
    have g := foldl_keeps (fun (s : State) (i : Nat) => s.modCore (4 * u + i) (fun k => enterCtxCore 0 k { Core.init with gens := k.gens }))
      (fun _ _ g1 g2 => ⟨g1, g2⟩) (upTo 4) s h1 h2
    exact g
  | some x =>
    have g := foldl_keeps (fun (s' : State) (p : Nat × Core) => s'.modCore p.1 (fun k => enterCtxCore (s.now - x.since) k p.2))
      (fun _ _ g1 g2 => ⟨g1, g2⟩) x.cores s h1 h2
    have p := putCells_keeps ({ (x.cores.foldl (fun (s' : State) (p : Nat × Core) => s'.modCore p.1 (fun k => enterCtxCore (s.now - x.since) k p.2)) s) with ids := s.ids } : State) (scrKey u 0) x.scratch x.badScr g.1 g.2
    exact foldl_keeps (fun (s : State) (p : Nat × Troupe) => resumeLate s p.1) (fun _ _ g1 g2 => by simp [g1, g2]) _ _ p.1 p.2
theorem exchangeUnit_keeps (s s' : State) (old new u : Nat) (h : exchangeUnit s old new u = some s') (h1 : Memory.wf s.mem = true)
    (h2 : Memory.wf s.scratch = true) : Memory.wf s'.mem = true ∧ Memory.wf s'.scratch = true := by
  have hq := squashUnit_keeps s u h1 h2
  unfold exchangeUnit at h
  cases hp : placeOut s new u with
  | none => simp [hp] at h
  | some p =>
    rw [hp] at h
    injection h with h
    rw [← h]
    apply enterContext_keeps
    · split <;> simp [hq]
    · split <;> simp [hq]
theorem exchangeUnits_keeps (old new : Nat) (l : List Nat) (s s' : State) (h : exchangeUnits old new l s = some s')
    (h1 : Memory.wf s.mem = true) (h2 : Memory.wf s.scratch = true) : Memory.wf s'.mem = true ∧ Memory.wf s'.scratch = true := by
  induction l generalizing s with
  | nil => cases h; exact ⟨h1, h2⟩
  | cons u l ih =>
    unfold exchangeUnits at h
    split at h
    · cases h
    · rename_i t ht
      have g := exchangeUnit_keeps s t old new u ht h1 h2
      exact ih t h g.1 g.2
@[simp] theorem returnTo_keeps (s : State) (ctx rows : Nat) (h1 : Memory.wf s.mem = true) (h2 : Memory.wf s.scratch = true) :
    Memory.wf (returnTo s ctx rows).mem = true ∧ Memory.wf (returnTo s ctx rows).scratch = true := by
  unfold returnTo
  refine foldl_keeps _ (fun s u g1 g2 => ?_) _ _ h1 h2
  split <;> simp [g1, g2]
@[simp] theorem endCtx_keeps (s : State) (ctx : Nat) (h1 : Memory.wf s.mem = true) (h2 : Memory.wf s.scratch = true) : Memory.wf (endCtx s ctx).mem = true ∧ Memory.wf (endCtx s ctx).scratch = true := by
  unfold endCtx
  split
  · exact ⟨h1, h2⟩
  · exact foldl_keeps (fun s u => enterContext (clearScratch s u 0 (granulesOf u)) u none) (fun s u g1 g2 => by simp [g1, g2])
      ((rowsHeld s ctx).flatMap (fun r => unitsIn (2 ^ r))) (dropPins s ctx) h1 h2
@[simp] theorem stopPart_keeps (s : State) (part : Nat) (r : PartRec) (h1 : Memory.wf s.mem = true) (h2 : Memory.wf s.scratch = true) :
    Memory.wf (stopPart s part r).mem = true ∧ Memory.wf (stopPart s part r).scratch = true := by
  unfold stopPart
  (repeat' split) <;> simp [h1, h2]
@[simp] theorem claimRows_keeps (s : State) (part ctx rows : Nat) (h1 : Memory.wf s.mem = true) (h2 : Memory.wf s.scratch = true) :
    Memory.wf (claimRows s part ctx rows).2.mem = true ∧ Memory.wf (claimRows s part ctx rows).2.scratch = true := by
  unfold claimRows
  have g := foldl_keeps (stopUnit true) (fun s u g1 g2 => by simp [g1, g2])
    ((foreignRows s ctx rows).flatMap (fun p => unitsIn (2 ^ p.1))) s h1 h2
  have k : ∀ (l : List (Nat × Nat)) (a : Option State), (∀ t, a = some t → Memory.wf t.mem = true ∧ Memory.wf t.scratch = true) →
      ∀ t, l.foldl (fun (a : Option State) p => a.bind (exchangeUnits p.2 ctx (unitsIn (2 ^ p.1)))) a = some t →
        Memory.wf t.mem = true ∧ Memory.wf t.scratch = true := by
    intro l
    induction l with
    | nil => exact fun a ha t ht => ha t ht
    | cons p l ih =>
      intro a ha
      refine ih _ (fun t ht => ?_)
      cases a with
      | none => cases ht
      | some b => exact exchangeUnits_keeps _ _ _ b t ht (ha b rfl).1 (ha b rfl).2
  dsimp only
  split
  · exact g
  · split
    · simp [g]
    · rename_i t ht
      exact k _ _ (fun t ht => by cases ht; exact g) t ht
@[simp] theorem startPart_keeps (s : State) (part : Nat) (r : PartRec) (h1 : Memory.wf s.mem = true) (h2 : Memory.wf s.scratch = true) : Memory.wf (startPart s part r).mem = true ∧ Memory.wf (startPart s part r).scratch = true := by
  unfold startPart
  have g := claimRows_keeps (startCtx s r.ctx) part r.ctx r.rows (by simp [h1]) (by simp [h2])
  dsimp only
  split
  · exact g
  · have k := returnTo_keeps (claimRows (startCtx s r.ctx) part r.ctx r.rows).2 r.ctx r.rows g.1 g.2
    apply writePartFlags_keeps
    · rw [foldl_mem _ (fun s u => by simp)]
      exact k.1
    · rw [foldl_scratch _ (fun s u => by simp)]
      exact k.2
end Sys2Proof.Laws
end

