-- ==== Sys2Proof/Laws/Slices.lean ====
section
/-! SUPPORT. What a read through the slices can change, and what a walk and a fetch that read through them answer. -/

namespace Sys2Proof.Machine

/-- No line in a slice holds an uncorrectable word. -/
def noBad (l : KV Cache) : Prop := ∀ p, p ∈ l → ∀ w, w ∈ p.2.ways → w.bad = []

/-- A state that reads memory as another does: it differs in what the slices hold and in what reads through them count. -/
def ReadsAs (s s' : State) : Prop :=
  ∃ sl rp rm co, noBad sl ∧ s' = { s with slices := sl, replicas := rp, remote := rm, cores := co }

theorem noBad_kset {l : KV Cache} {k : Nat} {c : Cache} (h : noBad l) (hc : ∀ w, w ∈ c.ways → w.bad = []) : noBad (kset l k c) := by
  induction l with
  | nil =>
    intro p hp
    cases List.mem_singleton.mp hp
    exact hc
  | cons q l ih =>
    unfold kset
    have hl : noBad l := fun p hp => h p (.tail _ hp)
    split
    · intro p hp
      cases hp with
      | head => exact hc
      | tail _ hp => exact hl p hp
    · intro p hp
      cases hp with
      | head => exact h _ (.head _)
      | tail _ hp => exact ih hl p hp

theorem mem_of_kfind {l : KV Cache} {k : Nat} {c : Cache} (h : kfind l k = some c) : (k, c) ∈ l := by
  induction l with
  | nil => cases h
  | cons q l ih =>
    unfold kfind at h
    split at h
    · rename_i hk
      cases h
      exact hk ▸ .head _
    · exact .tail _ (ih h)

theorem noBad_kget {l : KV Cache} (h : noBad l) (k : Nat) : ∀ w, w ∈ (kget Cache.init l k).ways → w.bad = [] := by
  unfold kget
  cases hf : kfind l k with
  | none => intro w hw; cases hw
  | some c =>
    exact fun w hw => h (k, c) (mem_of_kfind hf) w hw

theorem putLine_noBad {c : Cache} {f : Nat → Nat} {x : Way} (h : ∀ w, w ∈ c.ways → w.bad = []) (hx : x.bad = []) :
    ∀ w, w ∈ (putLine c f x).ways → w.bad = [] := by
  intro w hw
  simp only [putLine, List.mem_append, List.mem_filter, List.mem_singleton] at hw
  rcases hw with ⟨hw, _⟩ | rfl
  · exact h w hw
  · exact hx

theorem touchLine_noBad {c : Cache} {line key : Nat} (h : ∀ w, w ∈ c.ways → w.bad = []) :
    ∀ w, w ∈ (touchLine c line key).ways → w.bad = [] := by
  unfold touchLine
  split
  · exact h
  · rename_i x hx
    intro w hw
    simp only [List.mem_append, List.mem_filter, List.mem_singleton] at hw
    rcases hw with ⟨hw, _⟩ | rfl
    · exact h w hw
    · exact h _ (List.mem_of_find?_eq_some hx)

theorem sliceTake_noBad {c : Cache} {line key : Nat} {dirty alloc : Bool} (h : ∀ w, w ∈ c.ways → w.bad = []) :
    ∀ w, w ∈ (sliceTake c line key dirty alloc).2.ways → w.bad = [] := by
  unfold sliceTake
  split
  · refine touchLine_noBad fun w hw => ?_
    obtain ⟨y, hy, rfl⟩ := List.mem_map.mp hw
    split <;> exact h y hy
  · split
    · exact h
    · split
      · exact h
      · exact putLine_noBad h rfl

theorem sliceRead_noBad {s : State} {unit pa key : Nat} {pmode alloc : Bool} (h : noBad s.slices) :
    noBad (sliceRead s unit pa key pmode alloc).slices := by
  have hk : ∀ k, ∀ w, w ∈ (s.slice k).ways → w.bad = [] := fun k => noBad_kget h k
  unfold sliceRead
  dsimp only
  split
  · exact noBad_kset h (sliceTake_noBad (hk _))
  · have hs : noBad (if isLocal s (pa / 128) then kset s.slices (sliceOn (homeDie (pa / 128)) (pa / 128))
        (sliceTake (s.slice (sliceOn (homeDie (pa / 128)) (pa / 128))) (pa / 128) key false alloc).2 else s.slices) := by
      split
      · exact noBad_kset h (sliceTake_noBad (hk _))
      · exact h
    split
    · exact noBad_kset hs (sliceTake_noBad (noBad_kget hs _))
    · exact hs

theorem ReadsAs.refl {s : State} (h : noBad s.slices) : ReadsAs s s := ⟨_, _, _, _, h, rfl⟩

theorem ReadsAs.homeRead {s s' : State} (h : ReadsAs s s') (unit core pa key : Nat) (pmode nc : Bool) :
    ReadsAs s (homeRead s' unit core pa key pmode nc) := by
  obtain ⟨sl, rp, rm, co, hb, rfl⟩ := h
  exact ⟨_, _, _, _, sliceRead_noBad (s := { s with slices := sl, replicas := rp, remote := rm, cores := co }) hb, rfl⟩

theorem ReadsAs.homeReads {s s' : State} (h : ReadsAs s s') (unit core pa key n : Nat) (pmode : Bool) :
    ReadsAs s (homeReads s' unit core pa key n pmode) := by
  unfold Machine.homeReads
  generalize linesOf pa n = l
  induction l generalizing s' with
  | nil => exact h
  | cons a l ih => exact ih (h.homeRead ..)

theorem wordBad_noBad {s : State} (h : noBad s.slices) (pa n : Nat) :
    wordBad s pa n = (!s.badMem.isEmpty && (upTo n).any (fun i => s.badMem.contains ((pa + i) / 8))) := by
  have hs : s.slices.any (fun p => p.2.ways.any (fun w => !w.bad.isEmpty &&
      (upTo n).any (fun i => w.line == (pa + i) / 128 && w.bad.contains ((pa + i) % 128 / 8)))) = false := by
    rw [List.any_eq_false]
    intro p hp hc
    obtain ⟨w, hw, hx⟩ := List.any_eq_true.mp hc
    simp [h p hp w hw] at hx
  unfold wordBad
  rw [hs, Bool.or_false]

theorem ReadsAs.memFault {s s' : State} (h : ReadsAs s s') (hs : noBad s.slices) (pa n : Nat) : memFault s' pa n = memFault s pa n := by
  obtain ⟨sl, rp, rm, co, hb, rfl⟩ := h
  have hw : wordBad ({ s with slices := sl, replicas := rp, remote := rm, cores := co } : State) pa n = wordBad s pa n := by
    rw [wordBad_noBad hs, wordBad_noBad hb]
  unfold Machine.memFault
  rw [hw]
  rfl

theorem ReadsAs.physNat {s s' : State} (h : ReadsAs s s') (key pa n : Nat) : physNat s' key pa n = physNat s key pa n := by
  obtain ⟨sl, rp, rm, co, hb, rfl⟩ := h
  induction n generalizing pa with
  | zero => rfl
  | succ n ih => exact congrArg (fun x => (physByte s key pa).toNat + 256 * x) (ih (pa + 1))

theorem ReadsAs.physList {s s' : State} (h : ReadsAs s s') (key pa n : Nat) : physList s' key pa n = physList s key pa n := by
  obtain ⟨sl, rp, rm, co, hb, rfl⟩ := h
  induction n generalizing pa with
  | zero => rfl
  | succ n ih => exact congrArg (fun x => physByte s key pa :: x) (ih (pa + 1))

theorem ReadsAs.readEntry {s s' : State} (h : ReadsAs s s') (hs : noBad s.slices) (core pa : Nat) :
    (readEntry s' core pa).1 = (readEntry s core pa).1 ∧ ReadsAs s (readEntry s' core pa).2 := by
  unfold Machine.readEntry
  rw [h.memFault hs, h.physNat]
  split
  · exact ⟨rfl, h⟩
  · exact ⟨rfl, h.homeRead ..⟩

/-- What a walk from a table answers, each entry read in the state in which the walk begins. -/
def walkOf (s : State) (core ctx va : Nat) : List (Nat × Nat) → Nat → Except Xl Tlb
  | [], _ => .error (.perm 6)
  | (level, lo) :: rest, table =>
    match (readEntry s core (table + 8 * (va / 2 ^ lo % 512))).1 with
    | .error x => .error x
    | .ok e => match pteSays level e with
      | .malformed => .error (.perm 6)
      | .absent => .error (.absent level)
      | .table pa => walkOf s core ctx va rest pa
      | .leaf span pa => (groupLeaf s core ctx va level lo table span pa e).1

theorem ReadsAs.groupLeaf {s s' : State} (h : ReadsAs s s') (hs : noBad s.slices) (core ctx va level lo table span pa : Nat) (e : Dword) :
    (groupLeaf s' core ctx va level lo table span pa e).1 = (groupLeaf s core ctx va level lo table span pa e).1 ∧
      ReadsAs s (groupLeaf s' core ctx va level lo table span pa e).2 := by
  have hd : s'.draws = s.draws := by obtain ⟨_, _, _, _, _, rfl⟩ := h; rfl
  unfold Machine.groupLeaf
  dsimp only
  split
  · exact ⟨rfl, h⟩
  · have hr := h.readEntry hs core
      (table + 8 * (va / 2 ^ lo % 512 - va / 2 ^ lo % 512 % (span / 2 ^ lo) + Config.pick s'.draws % (span / 2 ^ lo)))
    rw [hd] at hr ⊢
    rw [hr.1]
    split
    · exact ⟨rfl, hr.2⟩
    · split <;> exact ⟨rfl, hr.2⟩

theorem ReadsAs.walkFrom {s : State} (hs : noBad s.slices) (core ctx va : Nat) (l : List (Nat × Nat)) {s' : State} (h : ReadsAs s s') (table : Nat) :
    (walkFrom core ctx va l table s').1 = walkOf s core ctx va l table ∧ ReadsAs s (walkFrom core ctx va l table s').2 := by
  induction l generalizing s' table with
  | nil => exact ⟨rfl, h⟩
  | cons p l ih =>
    have hr := h.readEntry hs core (table + 8 * (va / 2 ^ p.2 % 512))
    unfold Machine.walkFrom walkOf
    dsimp only
    rw [hr.1]
    cases (Machine.readEntry s core (table + 8 * (va / 2 ^ p.2 % 512))).1 with
    | error x => exact ⟨rfl, hr.2⟩
    | ok e =>
      dsimp only
      cases pteSays p.1 e with
      | malformed => exact ⟨rfl, hr.2⟩
      | absent => exact ⟨rfl, hr.2⟩
      | table pa => exact ih hr.2 _
      | leaf span pa => exact hr.2.groupLeaf hs ..

/-- What a translation by a walk answers. -/
def translateOf (s : State) (core ctx : Nat) (ea : Dword) (need : Need) : Xl :=
  if ea.extractLsb' 56 8 != 0 || !(s.ctx ctx).ptroot.getLsbD 0 then .perm 1
  else match walkOf s core ctx ea.toNat walkLevels (((s.ctx ctx).ptroot.extractLsb' 12 44).toNat * 4096) with
    | .error x => x
    | .ok e => checkTlb s ctx ea.toNat need e

theorem ReadsAs.walkTranslate {s s' : State} (h : ReadsAs s s') (hs : noBad s.slices) (core ctx : Nat) (ea : Dword) (need : Need) :
    (walkTranslate s' core ctx ea need).1 = translateOf s core ctx ea need ∧ ReadsAs s (walkTranslate s' core ctx ea need).2 := by
  have hw := ReadsAs.walkFrom hs core ctx ea.toNat walkLevels h (((s.ctx ctx).ptroot.extractLsb' 12 44).toNat * 4096)
  have hp : s'.ctx ctx = s.ctx ctx := by obtain ⟨_, _, _, _, _, rfl⟩ := h; rfl
  have hc : ∀ r, ReadsAs s r → ∀ e, checkTlb r ctx ea.toNat need e = checkTlb s ctx ea.toNat need e := by
    rintro r ⟨_, _, _, _, _, rfl⟩ e
    rfl
  unfold Machine.walkTranslate translateOf Machine.walk
  dsimp only
  rw [hp]
  split
  · exact ⟨rfl, h⟩
  · rename_i hn
    have hn : (s.ctx ctx).ptroot.getLsbD 0 = true := by
      cases hg : (s.ctx ctx).ptroot.getLsbD 0 with
      | true => rfl
      | false => exact absurd (by rw [hg]; exact Bool.or_true _) hn
    rw [if_neg (by rw [hn]; exact Bool.false_ne_true)]
    rw [hw.1]
    cases walkOf s core ctx ea.toNat walkLevels (((s.ctx ctx).ptroot.extractLsb' 12 44).toNat * 4096) with
    | error x => exact ⟨rfl, hw.2⟩
    | ok e => exact ⟨hc _ h e, hw.2⟩

theorem ReadsAs.homeFetch {s s' : State} (h : ReadsAs s s') (hs : noBad s.slices) {unit pa key n : Nat}
    (hp : (s.tile unit).partials = []) (hr : regBlock key pa = false) (hf : Machine.memFault s pa n = none) (core ctx : Nat) (pmode : Bool) :
    (homeFetch s' unit core ctx pa key n pmode).1 = .ok (Machine.physList s key pa n) ∧
      ReadsAs s (homeFetch s' unit core ctx pa key n pmode).2 := by
  have hl : flushRange s' unit pa n = s' := by
    have ht : s'.tile unit = s.tile unit := by obtain ⟨_, _, _, _, _, rfl⟩ := h; rfl
    simp [flushRange, ht, hp]
  have hb : homeBytes s' ctx pa key n = .ok (Machine.physList s key pa n) := by
    simp [homeBytes, hr, h.memFault hs, hf, h.physList]
  unfold Machine.homeFetch
  dsimp only
  rw [hl, hr]
  exact ⟨hb, h.homeReads ..⟩

/-- A fetch within a page of memory answers its bytes, and leaves a state that reads as before. -/
theorem virtFetch_page {s : State} (hs : noBad s.slices) {core ctx ea n pa key : Nat} {pm : Bool}
    (hx : translateOf s core ctx (BitVec.ofNat 64 ea) .read = .ok pa key pm) (hn : n ≠ 0) (hk : ea % 4096 + n ≤ 4096)
    (hp : (s.tile (core / 4)).partials = []) (hr : regBlock key pa = false) (hf : memFault s pa n = none) :
    ∃ s₁, virtFetch s core ctx ea n = (.ok (physList s key pa n), s₁) ∧ ReadsAs s s₁ := by
  have hw := (ReadsAs.refl hs).walkTranslate hs core ctx (BitVec.ofNat 64 ea) .read
  have hh := hw.2.homeFetch hs hp hr hf core ctx pm
  have hm : min n (4096 - ea % 4096) = n := by omega
  unfold virtFetch virtFetchFrom
  dsimp only
  rw [if_neg hn, hw.1, hx, hm]
  dsimp only
  rw [hh.1]
  unfold virtFetchFrom
  rw [if_pos (Nat.sub_self n)]
  dsimp only
  exact ⟨_, by rw [List.append_nil], hh.2⟩

/-- A fetch whose first page does not translate fails, and leaves a state that reads as before. -/
theorem virtFetch_absent {s : State} (hs : noBad s.slices) {core ctx ea n level : Nat}
    (hx : translateOf s core ctx (BitVec.ofNat 64 ea) .read = .absent level) (hn : n ≠ 0) :
    ∃ s₁, virtFetch s core ctx ea n = (.error ((Xl.absent level).err ea), s₁) ∧ ReadsAs s s₁ := by
  have hw := (ReadsAs.refl hs).walkTranslate hs core ctx (BitVec.ofNat 64 ea) .read
  unfold virtFetch virtFetchFrom
  dsimp only
  rw [if_neg hn, hw.1, hx]
  exact ⟨_, rfl, hw.2⟩

/-- A write within a page of memory does not fail, in a state that reads as the given one. -/
theorem ReadsAs.virtWrite_page {s s' : State} (h : ReadsAs s s') (hs : noBad s.slices) {core ctx ea pa key : Nat} {pm : Bool} {bs : List Byte}
    (hx : translateOf s core ctx (BitVec.ofNat 64 ea) .write = .ok pa key pm) (hn : bs.isEmpty = false) (hk : ea % 4096 + bs.length ≤ 4096)
    (hr : regBlock key pa = false) (hf : Machine.memFault s pa bs.length = none) : (virtWrite s' core ctx ea bs).1 = none := by
  have hw := h.walkTranslate hs core ctx (BitVec.ofNat 64 ea) .write
  have hm : min bs.length (4096 - ea % 4096) = bs.length := by omega
  have he : ∀ fuel t a, (virtWriteFrom core ctx fuel t a ([] : List Byte)).1 = none := by
    intro fuel t a
    cases fuel <;> rfl
  unfold virtWrite virtWriteFrom
  dsimp only
  rw [if_neg (by rw [hn]; exact Bool.false_ne_true), hw.1, hx, hm]
  dsimp only
  unfold writeHome
  rw [List.take_length, List.drop_length, hw.2.memFault hs, hf, hr, if_neg (by rw [hn]; exact Bool.false_ne_true), if_neg Bool.false_ne_true]
  exact he _ _ _

/-- A translation by a walk answers as the tables stand, and leaves a state that reads as before. -/
theorem walkTranslate_answer {s : State} (hs : noBad s.slices) (core ctx : Nat) (ea : Dword) (need : Need) :
    (walkTranslate s core ctx ea need).1 = translateOf s core ctx ea need ∧ ReadsAs s (walkTranslate s core ctx ea need).2 :=
  (ReadsAs.refl hs).walkTranslate hs core ctx ea need

end Sys2Proof.Machine
end

