-- ==== Sys2Proof/Laws/Slot.lean ====
section
/-! SUPPORT. What the shared operations of a slot do, once each: where a slot finds its troupe, how a uniform slot runs, what a
hold, a trap, a park and the end of a bundle leave in the troupe of the slot and in every other. -/

namespace Sys2Proof.Laws
open Sys2Proof.Machine

variable {s : State} {f : Focus} {t : Troupe}

/-! ## Finding the troupe of a slot -/

theorem atSlot_next (k : Focus → Troupe → State) (hf : s.focus = some f) (ht : s.troupe f.troupe = some t) :
    atSlot s k = .next (k f t) := by simp [atSlot, hf, ht]

theorem atSlot_noFocus (k : Focus → Troupe → State) (hf : s.focus = none) : atSlot s k = .fault .noSlot := by simp [atSlot, hf]

/-- Everything a slot meaning can answer. -/
theorem atSlot_cases {k : Focus → Troupe → State} {r : Res} (h : atSlot s k = r) :
    (∃ f t, s.focus = some f ∧ s.troupe f.troupe = some t ∧ r = .next (k f t)) ∨ r = .fault .noSlot := by
  unfold atSlot at h
  split at h
  · exact .inr h.symm
  · rename_i f hf
    split at h
    · exact .inr h.symm
    · rename_i t ht
      exact .inl ⟨f, t, hf, ht, h.symm⟩

theorem atUniform_next (k : Focus → Troupe → State) (hf : s.focus = some f) (ht : s.troupe f.troupe = some t) (hr : f.run ≠ 0) :
    atUniform s k = .next (k f t) := by
  rw [atUniform, atSlot_next _ hf ht, if_neg hr]

/-- A uniform slot whose guard no thread passes does nothing (R42). -/
theorem atUniform_idle (k : Focus → Troupe → State) (hf : s.focus = some f) (ht : s.troupe f.troupe = some t) (hr : f.run = 0) :
    atUniform s k = .next s := by
  rw [atUniform, atSlot_next _ hf ht, if_pos hr]

/-! ## Holding a bundle -/

theorem holdActing_troupe (w : Wait) (ht : s.troupe f.troupe = some t) :
    (holdActing s f w).troupe f.troupe = some { t with wait := some w, readyAt := max t.readyAt (f.issue + 16) } := by
  simp only [State.troupe] at ht
  simp [holdActing, State.troupe, State.modTroupe, ht]

theorem holdActing_other (w : Wait) {k : Nat} (hk : k ≠ f.troupe) : (holdActing s f w).troupe k = s.troupe k := by
  simp [holdActing, State.troupe, State.modTroupe, kfind_kupd_other _ _ hk]

theorem holdActing_hold (w : Wait) : kfind (holdActing s f w).holds f.troupe = some { focus := f, wait := w } := by
  simp [holdActing]

theorem holdFor_troupe (w : Wait) (ht : s.troupe f.troupe = some t) :
    (holdFor s f w).troupe f.troupe = some { splitAt f f.k f.pass f.run f.op t with wait := some w } := by
  simp only [State.troupe] at ht
  simp [holdFor, State.troupe, State.modTroupe, ht]

theorem holdFor_other (w : Wait) {k : Nat} (hk : k ≠ f.troupe) : (holdFor s f w).troupe k = s.troupe k := by
  simp [holdFor, State.troupe, State.modTroupe, kfind_kupd_other _ _ hk]

/-! ## Taking a trap -/

/-- A trap in a troupe that is no handler and has no sketch out (R402, R405, R409): the whole state after it. -/
theorem takeTrap_plain (faults : List (Nat × Cause)) (ht : s.troupe f.troupe = some t) (hh : t.handler = false)
    (hs : t.spec.sketches = []) :
    takeTrap s f faults = ((({ s with ids := s.ids + faults.length, focus := none } : State).modTroupe f.troupe (fun u =>
      { writeTrapRegs f.k f.k f.base f.pass (maskOf (faults.map (fun x => x.1))) (firstFault faults).2
          (splitAt f f.k f.pass (maskOf (faults.map (fun x => x.1))) f.op u) with
        origins := u.origins ++ originsOf s.ids f.k false faults })).schedule (f.issue + 16) (.originArrival f.troupe)) := by
  have hb : (t.spec.sketches != []) = false := by simp [hs]
  unfold takeTrap
  rw [ht]
  dsimp only
  rw [hh, hb, if_neg (by simp), if_neg (by simp)]

theorem takeTrap_focus (faults : List (Nat × Cause)) (ht : s.troupe f.troupe = some t) (hh : t.handler = false)
    (hs : t.spec.sketches = []) : (takeTrap s f faults).focus = none := by
  rw [takeTrap_plain faults ht hh hs]; rfl

theorem takeTrap_troupe (faults : List (Nat × Cause)) (ht : s.troupe f.troupe = some t) (hh : t.handler = false)
    (hs : t.spec.sketches = []) :
    (takeTrap s f faults).troupe f.troupe = some
      { writeTrapRegs f.k f.k f.base f.pass (maskOf (faults.map (fun x => x.1))) (firstFault faults).2
          (splitAt f f.k f.pass (maskOf (faults.map (fun x => x.1))) f.op t) with
        origins := t.origins ++ originsOf s.ids f.k false faults } := by
  rw [takeTrap_plain faults ht hh hs]
  simp only [State.schedule, State.troupe, State.modTroupe, kfind_kupd_same]
  simp only [State.troupe] at ht
  rw [ht]; rfl

theorem takeTrap_other (faults : List (Nat × Cause)) {k : Nat} (ht : s.troupe f.troupe = some t) (hh : t.handler = false)
    (hs : t.spec.sketches = []) (hk : k ≠ f.troupe) : (takeTrap s f faults).troupe k = s.troupe k := by
  rw [takeTrap_plain faults ht hh hs]
  simp [State.schedule, State.troupe, State.modTroupe, kfind_kupd_other _ _ hk]

/-- With no fault the slot commits; otherwise it traps (R147). -/
theorem settleSlot_nil : settleSlot s f [] = s := rfl
theorem settleSlot_cons (x : Nat × Cause) (l : List (Nat × Cause)) : settleSlot s f (x :: l) = takeTrap s f (x :: l) := rfl

/-! ## The end of a bundle -/

theorem finishBundle_focus : (finishBundle s f).focus = none := rfl

theorem finishBundle_other {k : Nat} (hk : k ≠ f.troupe) : (finishBundle s f).troupe k = s.troupe k := by
  simp [finishBundle, State.troupe, State.modTroupe, kfind_kupd_other _ _ hk]

/-- The troupe of a bundle that ends with a branch taken to `a` and is not stepped by a debugger (R37, R68, R74). -/
theorem finishBundle_branch {a : Nat} (ht : s.troupe f.troupe = some t) (hh : t.halt = .running) (ha : f.target = some a) :
    (finishBundle s f).troupe f.troupe = some
      { t with pc := a, fell := false, threads := t.threads.map Thread.settle, clause := t.clause.step, split := none,
               readyAt := max t.readyAt (f.issue + 16) } := by
  simp only [State.troupe] at ht
  simp [finishBundle, State.troupe, State.modTroupe, ht, ha, hh]

/-- A write of D by a uniform slot to a g register (R106). -/
theorem writeG_g {d : BitVec 6} (v : Dword) (h1 : 32 ≤ d.toNat) (h2 : d.toNat < 48) :
    writeG s f d v = s.modTroupe f.troupe (fun t => t.gwrite (d.toNat - 32) v) := by simp [writeG, h1, h2]

/-- A write of D by a uniform slot to `z` is discarded (R32). -/
theorem writeG_z (v : Dword) : writeG s f 56 v = s := by simp [writeG]

end Sys2Proof.Laws
end

