-- ==== Sys2Proof/Tests/Slice0.lean ====
section
/-! SUPPORT. Tests: the word of every slot, read off the opcode table; ill-formed slots that are refused; single steps whose
results the manual's worked examples give; and for each statement with hypotheses a state that meets them. -/

namespace Sys2Proof.Tests

open Sys2Proof Sys2Proof.Machine Sys2Proof.Claims

/-! ## Words

Each word is a row's class and function code with field values at the places that the opcode table gives (R31, R51). -/

/-- Every word decodes to its slot, which is well formed. -/
noncomputable def readsAs (l : List (Word × Instr)) : Bool :=
  l.all (fun p => decide (decodeWord p.1 = .ok p.2) && wellFormed p.2)

theorem test_words_of_headers : readsAs
  [(0x82AF2665, .clause ⟨1, 2748, 9, 9, 37⟩)] = true := by decide

theorem test_words_of_guards : readsAs
  [(0x85C00000, .guard ⟨1, 3, 1⟩)] = true := by decide

theorem test_words_of_integer : readsAs
  [(0x8A116260, .add ⟨1, 33, 5, 34, 1, 1, 0⟩), (0x8A116261, .sub ⟨1, 33, 5, 34, 1, 1, 0⟩),
   (0x8A116262, .andB ⟨1, 33, 5, 34, 1, 1, 0⟩), (0x8A116263, .orB ⟨1, 33, 5, 34, 1, 1, 0⟩),
   (0x8A116264, .xorB ⟨1, 33, 5, 34, 1, 1, 0⟩), (0x8A116265, .andn ⟨1, 33, 5, 34, 1, 1, 0⟩),
   (0x8A116266, .shl ⟨1, 33, 5, 34, 1, 1, 0⟩), (0x8A116267, .shr ⟨1, 33, 5, 34, 1, 1, 0⟩),
   (0x8A116268, .sar ⟨1, 33, 5, 34, 1, 1, 0⟩), (0x8A116269, .minI32 ⟨1, 33, 5, 34, 1, 1, 0⟩),
   (0x8A11626A, .maxI32 ⟨1, 33, 5, 34, 1, 1, 0⟩), (0x8A11626B, .minN32 ⟨1, 33, 5, 34, 1, 1, 0⟩),
   (0x8A11626C, .maxN32 ⟨1, 33, 5, 34, 1, 1, 0⟩), (0x8A11786D, .absI32 ⟨1, 33, 5, 1, 1⟩),
   (0x8A11626E, .mad ⟨1, 33, 5, 34, 1, 1, 0⟩)] = true := by decide

theorem test_words_of_integer2 : readsAs
  [(0x8E116260, .mul ⟨1, 33, 5, 34, 1, 1, 0⟩), (0x8E116261, .mulhI32 ⟨1, 33, 5, 34, 1, 1, 0⟩),
   (0x8E116262, .mulhN32 ⟨1, 33, 5, 34, 1, 1, 0⟩), (0x8E116263, .divI32 ⟨1, 33, 5, 34, 1, 1, 0⟩),
   (0x8E116264, .divN32 ⟨1, 33, 5, 34, 1, 1, 0⟩), (0x8E116265, .remI32 ⟨1, 33, 5, 34, 1, 1, 0⟩),
   (0x8E116266, .remN32 ⟨1, 33, 5, 34, 1, 1, 0⟩), (0x8E117867, .popc ⟨1, 33, 5, 1, 1⟩), (0x8E117868, .clz ⟨1, 33, 5, 1, 1⟩),
   (0x8E117869, .brev ⟨1, 33, 5, 1, 1⟩), (0x8E11626A, .bfeN32 ⟨1, 33, 5, 34, 1, 1, 0⟩),
   (0x8E11626B, .bfeI32 ⟨1, 33, 5, 34, 1, 1, 0⟩), (0x8E11626C, .bfi ⟨1, 33, 5, 34, 1, 1, 0⟩),
   (0x8E11626D, .addsatI32 ⟨1, 33, 5, 34, 1, 1, 0⟩), (0x8E11626E, .subsatI32 ⟨1, 33, 5, 34, 1, 1, 0⟩)] = true := by decide

theorem test_words_of_immediates : readsAs
  [(0x92116AB4, .addi ⟨1, 33, 5, 341, 1, 1⟩), (0x92116AB5, .andi ⟨1, 33, 5, 341, 1, 1⟩),
   (0x92116AB6, .ori ⟨1, 33, 5, 341, 1, 1⟩), (0x92116AB7, .xori ⟨1, 33, 5, 341, 1, 1⟩)] = true := by decide

theorem test_words_of_shift_immediates : readsAs
  [(0x961145B4, .shli ⟨1, 33, 5, 45, 1, 1⟩), (0x961145B5, .shri ⟨1, 33, 5, 45, 1, 1⟩),
   (0x961145B6, .sari ⟨1, 33, 5, 45, 1, 1⟩), (0x96116AB7, .muli ⟨1, 33, 5, 341, 1, 1⟩)] = true := by decide

theorem test_words_of_moves : readsAs
  [(0x9A19C350, .movi ⟨1, 33, 39989⟩), (0x9A19C351, .movh ⟨1, 33, 39989⟩), (0x9A117862, .mov ⟨1, 33, 5, 1, 1⟩),
   (0x9A116262, .movPair ⟨1, 33, 5, 34, 1, 1, 0⟩), (0x9B817843, .drop ⟨1, 5, 1⟩), (0x98317864, .dup ⟨1, 3, 5, 1, 1⟩),
   (0x9A117845, .qcnt ⟨1, 33, 5, 1⟩), (0x9B817846, .qclr ⟨1, 5, 1⟩)] = true := by decide

theorem test_words_of_predicates : readsAs
  [(0x9C516260, .eq ⟨1, 5, 5, 34, 1, 1, 0⟩), (0x9C516261, .ne ⟨1, 5, 5, 34, 1, 1, 0⟩),
   (0x9C516262, .ltI32 ⟨1, 5, 5, 34, 1, 1, 0⟩), (0x9C516263, .leI32 ⟨1, 5, 5, 34, 1, 1, 0⟩),
   (0x9C516264, .ltN32 ⟨1, 5, 5, 34, 1, 1, 0⟩), (0x9C516265, .leN32 ⟨1, 5, 5, 34, 1, 1, 0⟩),
   (0x9C516266, .feq ⟨1, 5, 5, 34, 1, 1, 0⟩), (0x9C516267, .flt ⟨1, 5, 5, 34, 1, 1, 0⟩),
   (0x9C516268, .fle ⟨1, 5, 5, 34, 1, 1, 0⟩), (0x9C516269, .funF ⟨1, 5, 5, 34, 1, 1, 0⟩), (0x9C51820A, .pand ⟨1, 5, 6, 2⟩),
   (0x9C51820B, .por ⟨1, 5, 6, 2⟩), (0x9C51820C, .pxor ⟨1, 5, 6, 2⟩), (0x9C51B80D, .pnot ⟨1, 5, 6⟩),
   (0x9C51786E, .pset ⟨1, 5, 5, 1, 1⟩), (0x9C51B80F, .pvote ⟨1, 5, 6⟩)] = true := by decide

theorem test_words_of_float : readsAs
  [(0xA2116260, .fadd ⟨1, 33, 5, 34, 1, 1, 0⟩), (0xA2116261, .fsub ⟨1, 33, 5, 34, 1, 1, 0⟩),
   (0xA2116262, .fmul ⟨1, 33, 5, 34, 1, 1, 0⟩), (0xA2116263, .ffma ⟨1, 33, 5, 34, 1, 1, 0⟩),
   (0xA2116264, .fmin ⟨1, 33, 5, 34, 1, 1, 0⟩), (0xA2116265, .fmax ⟨1, 33, 5, 34, 1, 1, 0⟩),
   (0xA2117866, .fabs ⟨1, 33, 5, 1, 1⟩), (0xA2117867, .fneg ⟨1, 33, 5, 1, 1⟩),
   (0xA2116268, .fcopysign ⟨1, 33, 5, 34, 1, 1, 0⟩), (0xA2117869, .ffloor ⟨1, 33, 5, 1, 1⟩),
   (0xA211786A, .fceil ⟨1, 33, 5, 1, 1⟩), (0xA211786B, .ftrunc ⟨1, 33, 5, 1, 1⟩), (0xA211786C, .frint ⟨1, 33, 5, 1, 1⟩),
   (0xA211786D, .fsat ⟨1, 33, 5, 1, 1⟩)] = true := by decide

theorem test_words_of_packed : readsAs
  [(0xA6116260, .haddF16x2 ⟨1, 33, 5, 34, 1, 1, 0⟩), (0xA6116261, .hmulF16x2 ⟨1, 33, 5, 34, 1, 1, 0⟩),
   (0xA6116262, .hfmaF16x2 ⟨1, 33, 5, 34, 1, 1, 0⟩), (0xA6116263, .hminF16x2 ⟨1, 33, 5, 34, 1, 1, 0⟩),
   (0xA6116264, .hmaxF16x2 ⟨1, 33, 5, 34, 1, 1, 0⟩), (0xA6116265, .haddBf16x2 ⟨1, 33, 5, 34, 1, 1, 0⟩),
   (0xA6116266, .hmulBf16x2 ⟨1, 33, 5, 34, 1, 1, 0⟩), (0xA6116267, .hfmaBf16x2 ⟨1, 33, 5, 34, 1, 1, 0⟩),
   (0xA6116268, .hminBf16x2 ⟨1, 33, 5, 34, 1, 1, 0⟩), (0xA6116269, .hmaxBf16x2 ⟨1, 33, 5, 34, 1, 1, 0⟩)] = true := by decide

theorem test_words_of_conversions : readsAs
  [(0xAA117860, .cvtF32I32 ⟨1, 33, 5, 1, 1⟩), (0xAA117861, .cvtF32N32 ⟨1, 33, 5, 1, 1⟩),
   (0xAA117862, .cvtI32F32 ⟨1, 33, 5, 1, 1⟩), (0xAA117863, .cvtN32F32 ⟨1, 33, 5, 1, 1⟩),
   (0xAA117864, .cvtI32F32Rz ⟨1, 33, 5, 1, 1⟩), (0xAA116265, .cvtF16x2F32 ⟨1, 33, 5, 34, 1, 1, 0⟩),
   (0xAA116266, .cvtBf16x2F32 ⟨1, 33, 5, 34, 1, 1, 0⟩), (0xAA117867, .cvtF32F16 ⟨1, 33, 5, 1, 1⟩),
   (0xAA117868, .cvtF32F16h ⟨1, 33, 5, 1, 1⟩), (0xAA117869, .cvtF32Bf16 ⟨1, 33, 5, 1, 1⟩),
   (0xAA11786A, .cvtF32Bf16h ⟨1, 33, 5, 1, 1⟩), (0xAA11416B, .cvtF32E4m3 ⟨1, 33, 5, 1, 1, 1⟩),
   (0xAA11416C, .cvtF32E5m2 ⟨1, 33, 5, 1, 1, 1⟩), (0xAA11416D, .cvtF32E2m1 ⟨1, 33, 5, 1, 1, 1⟩),
   (0xAA11786E, .cvtE4m3F32 ⟨1, 33, 5, 1, 1⟩), (0xAA11786F, .cvtE5m2F32 ⟨1, 33, 5, 1, 1⟩)] = true := by decide

theorem test_words_of_special_functions : readsAs
  [(0xAE117860, .rcp ⟨1, 33, 5, 1, 1, 0⟩), (0xAE117861, .rsqrt ⟨1, 33, 5, 1, 1, 0⟩), (0xAE117862, .sqrt ⟨1, 33, 5, 1, 1, 0⟩),
   (0xAE117863, .exp2 ⟨1, 33, 5, 1, 1, 0⟩), (0xAE117864, .log2 ⟨1, 33, 5, 1, 1, 0⟩), (0xAE117865, .sin ⟨1, 33, 5, 1, 1, 0⟩),
   (0xAE117866, .cos ⟨1, 33, 5, 1, 1, 0⟩), (0xAE117867, .tanh ⟨1, 33, 5, 1, 1, 0⟩), (0xAE117868, .sigm ⟨1, 33, 5, 1, 1, 0⟩),
   (0xAE116269, .divF32 ⟨1, 33, 5, 34, 1, 1, 0⟩)] = true := by decide

theorem test_words_of_branches : readsAs
  [(0xB3AF0E10, .br ⟨1, 192737⟩), (0xB1EF0E11, .bpa ⟨1, 3, 1, 192737⟩), (0xB1EF0E12, .bpn ⟨1, 3, 1, 192737⟩),
   (0xB1EF0E13, .bif ⟨1, 3, 1, 192737⟩), (0xB3AF0E14, .belse ⟨1, 192737⟩), (0xB3800005, .bjoin ⟨1⟩),
   (0xB3AF0E16, .call ⟨1, 192737⟩), (0xB3800007, .ret ⟨1⟩), (0xB3893848, .brx ⟨1, 36, 1⟩),
   (0xB2AF0E19, .loopG ⟨1, 5, 192737⟩)] = true := by decide

theorem test_words_of_tasks : readsAs
  [(0xB7893840, .fork ⟨1, 36, 1⟩), (0xB61E0301, .takeT ⟨1, 33, 3⟩), (0xB6190342, .steal ⟨1, 33, 36, 3, 1⟩),
   (0xB6192243, .dqconf ⟨1, 33, 36, 34, 1⟩), (0xB61E3804, .dqcount ⟨1, 33⟩), (0xB6193845, .launch ⟨1, 33, 36, 1⟩),
   (0xB6193846, .cwait ⟨1, 33, 36, 1⟩), (0xB78E3807, .exitT ⟨1⟩), (0xB78E3808, .yield ⟨1⟩),
   (0xB6193849, .vclaim ⟨1, 33, 36, 1⟩), (0xB619384A, .vgive ⟨1, 33, 36, 1⟩),
   (0xB619384B, .role ⟨1, 33, 36, 1⟩)] = true := by decide

theorem test_words_of_barriers_fences : readsAs
  [(0xBB8E1300, .barArrive ⟨1, 19⟩), (0xBB8E1301, .barWait ⟨1, 19⟩), (0xBB8E1302, .barSync ⟨1, 19⟩),
   (0xBA191343, .barLink ⟨1, 33, 36, 19, 1⟩), (0xBB8E0304, .fenceAcq ⟨1, 3⟩), (0xBB8E0305, .fenceRel ⟨1, 3⟩),
   (0xBB8E0306, .fenceAr ⟨1, 3⟩), (0xBB8E3807, .mark ⟨1⟩), (0xBA1E0908, .scope ⟨1, 33, 9⟩),
   (0xBA191349, .barCount ⟨1, 33, 36, 19, 1⟩)] = true := by decide

theorem test_words_of_loads : readsAs
  [(0xBE316CB0, .ldS ⟨1, 1, 3, 5, 5, 9, 1, 2⟩), (0xBE316CB1, .ldG ⟨1, 1, 3, 5, 5, 9, 1, 2⟩),
   (0xBE316CB2, .ldGAcq ⟨1, 1, 3, 5, 5, 9, 1, 2⟩), (0xBE316CB3, .ldGNc ⟨1, 1, 3, 5, 5, 9, 1, 2⟩),
   (0xBE316CB4, .ldW ⟨1, 1, 3, 5, 5, 9, 1, 2⟩)] = true := by decide

theorem test_words_of_stores : readsAs
  [(0xC2116CB0, .stS ⟨1, 33, 5, 5, 9, 1, 2⟩), (0xC2116CB1, .stG ⟨1, 33, 5, 5, 9, 1, 2⟩),
   (0xC2116CB2, .stGRel ⟨1, 33, 5, 5, 9, 1, 2⟩), (0xC2116CB3, .stGNc ⟨1, 33, 5, 5, 9, 1, 2⟩),
   (0xC2116CB4, .stW ⟨1, 33, 5, 5, 9, 1, 2⟩)] = true := by decide

theorem test_words_of_atomics : readsAs
  [(0xC6116260, .atomAdd ⟨1, 33, 5, 34, 1, 1, 0⟩), (0xC6116261, .atomMinI32 ⟨1, 33, 5, 34, 1, 1, 0⟩),
   (0xC6116262, .atomMaxI32 ⟨1, 33, 5, 34, 1, 1, 0⟩), (0xC6116263, .atomMinN32 ⟨1, 33, 5, 34, 1, 1, 0⟩),
   (0xC6116264, .atomMaxN32 ⟨1, 33, 5, 34, 1, 1, 0⟩), (0xC6116265, .atomAnd ⟨1, 33, 5, 34, 1, 1, 0⟩),
   (0xC6116266, .atomOr ⟨1, 33, 5, 34, 1, 1, 0⟩), (0xC6116267, .atomXor ⟨1, 33, 5, 34, 1, 1, 0⟩),
   (0xC6116268, .atomXchg ⟨1, 33, 5, 34, 1, 1, 0⟩), (0xC6116269, .atomCas ⟨1, 33, 5, 34, 1, 1, 0⟩),
   (0xC611626A, .atomFaddF32 ⟨1, 33, 5, 34, 1, 1, 0⟩), (0xC611626B, .atomIncw ⟨1, 33, 5, 34, 1, 1, 0⟩)] = true := by decide

theorem test_words_of_reductions : readsAs
  [(0xCB816260, .redAdd ⟨1, 5, 34, 1, 1, 0⟩), (0xCB816261, .redMinI32 ⟨1, 5, 34, 1, 1, 0⟩),
   (0xCB816262, .redMaxI32 ⟨1, 5, 34, 1, 1, 0⟩), (0xCB816263, .redMinN32 ⟨1, 5, 34, 1, 1, 0⟩),
   (0xCB816264, .redMaxN32 ⟨1, 5, 34, 1, 1, 0⟩), (0xCB816265, .redAnd ⟨1, 5, 34, 1, 1, 0⟩),
   (0xCB816266, .redOr ⟨1, 5, 34, 1, 1, 0⟩), (0xCB816267, .redXor ⟨1, 5, 34, 1, 1, 0⟩),
   (0xCB816268, .redFaddF32 ⟨1, 5, 34, 1, 1, 0⟩), (0xCB816269, .redFaddBf16x2 ⟨1, 5, 34, 1, 1, 0⟩)] = true := by decide

theorem test_words_of_ordered_sections : readsAs
  [(0xCE116260, .osinit ⟨1, 33, 5, 34, 1, 1, 0⟩), (0xCC516261, .osenter ⟨1, 5, 5, 34, 1, 1, 0⟩),
   (0xCE116262, .ostry ⟨1, 33, 5, 34, 1, 1, 0⟩), (0xCF817863, .osleave ⟨1, 5, 1, 1⟩),
   (0xCE114164, .osquery ⟨1, 33, 5, 1, 1, 1⟩), (0xCE117865, .osdrop ⟨1, 33, 5, 1, 1⟩)] = true := by decide

theorem test_words_of_copies : readsAs
  [(0xD2116270, .cpyG2s4 ⟨1, 33, 5, 34, 1, 1, 1⟩), (0xD2116271, .cpyG2s8 ⟨1, 33, 5, 34, 1, 1, 1⟩),
   (0xD2116272, .cpyG2s16 ⟨1, 33, 5, 34, 1, 1, 1⟩), (0xD2116273, .cpyG2s32 ⟨1, 33, 5, 34, 1, 1, 1⟩),
   (0xD2116274, .cpyS2g4 ⟨1, 33, 5, 34, 1, 1, 1⟩), (0xD2116275, .cpyS2g8 ⟨1, 33, 5, 34, 1, 1, 1⟩),
   (0xD2116276, .cpyS2g16 ⟨1, 33, 5, 34, 1, 1, 1⟩), (0xD2116277, .cpyS2g32 ⟨1, 33, 5, 34, 1, 1, 1⟩),
   (0xD38E0208, .waittag ⟨1, 2⟩), (0xD21E0209, .tagcnt ⟨1, 33, 2⟩)] = true := by decide

theorem test_words_of_engines : readsAs
  [(0xD6110560, .enq ⟨1, 33, 4, 5, 1, 1⟩), (0xD6117861, .sleepto ⟨1, 33, 5, 1, 1⟩),
   (0xD61E0502, .enqstat ⟨1, 33, 5⟩)] = true := by decide

theorem test_words_of_semaphores : readsAs
  [(0xDA193840, .seminit ⟨1, 33, 36, 1⟩), (0xDA192241, .semarm ⟨1, 33, 36, 34, 1⟩), (0xDA192242, .semexp ⟨1, 33, 36, 34, 1⟩),
   (0xDA192243, .semarr ⟨1, 33, 36, 34, 1⟩), (0xDA193844, .semwait ⟨1, 33, 36, 1⟩),
   (0xDA193845, .semtest ⟨1, 33, 36, 1⟩)] = true := by decide

theorem test_words_of_vector : readsAs
  [(0xDC643C30, .vadd ⟨1, 3, 4, 7, 1, 3⟩), (0xDC643C31, .vsub ⟨1, 3, 4, 7, 1, 3⟩), (0xDC643C32, .vmul ⟨1, 3, 4, 7, 1, 3⟩),
   (0xDC643C33, .vfma ⟨1, 3, 4, 7, 1, 3⟩), (0xDC643C34, .vmax ⟨1, 3, 4, 7, 1, 3⟩), (0xDC643C35, .vmin ⟨1, 3, 4, 7, 1, 3⟩),
   (0xDC640406, .vexp2 ⟨1, 3, 4, 1⟩), (0xDC640407, .vrcp ⟨1, 3, 4, 1⟩), (0xDC640408, .vrsq ⟨1, 3, 4, 1⟩),
   (0xDC640409, .vtanh ⟨1, 3, 4, 1⟩), (0xDC643C5A, .vcvt ⟨1, 3, 4, 7, 1, 5⟩), (0xDC64043B, .vred ⟨1, 3, 4, 1, 3⟩),
   (0xDC64000C, .vbcast ⟨1, 3, 4⟩), (0xDC643C1C, .vbcastElement ⟨1, 3, 4, 7, 1⟩), (0xDC643C3D, .vsel ⟨1, 3, 4, 7, 1, 3⟩),
   (0xDC643C0E, .vperm ⟨1, 3, 4, 7, 1⟩), (0xDC64043F, .vscan ⟨1, 3, 4, 1, 3⟩)] = true := by decide

theorem test_words_of_vector_memory : readsAs
  [(0xE0643800, .vld ⟨1, 3, 4, 7⟩), (0xE0643801, .vst ⟨1, 3, 4, 7⟩), (0xE0643802, .vldStr ⟨1, 3, 4, 7⟩),
   (0xE0643803, .vstStr ⟨1, 3, 4, 7⟩), (0xE0643C14, .vgath ⟨1, 3, 4, 7, 1, 1⟩),
   (0xE0643C15, .vscat ⟨1, 3, 4, 7, 1, 1⟩)] = true := by decide

theorem test_words_of_matrix : readsAs
  [(0xE4243830, .mload ⟨1, 1, 4, 7, 1, 1⟩), (0xE4A43831, .mpass ⟨1, 5, 4, 7, 1, 1⟩), (0xE4A43832, .mjoin ⟨1, 5, 4, 7, 1, 1⟩),
   (0xE46538D3, .mdrain ⟨1, 3, 5, 7, 1, 1, 1⟩), (0xE4A00004, .mzero ⟨1, 5⟩), (0xE4200005, .mswap ⟨1, 1⟩),
   (0xE4640006, .mengage ⟨1, 3, 4⟩), (0xE4200007, .mfree ⟨1, 1⟩), (0xE4040008, .mfence ⟨1, 4⟩),
   (0xE4640009, .mwait ⟨1, 3, 4⟩)] = true := by decide

theorem test_words_of_plane : readsAs
  [(0xE8643810, .tplane ⟨1, 3, 4, 7, 1⟩), (0xE8643821, .tunplane ⟨1, 3, 4, 7, 2⟩), (0xE8643812, .trot ⟨1, 3, 4, 7, 1⟩),
   (0xE8643803, .tquant ⟨1, 3, 4, 7⟩), (0xE8643804, .tdequant ⟨1, 3, 4, 7⟩), (0xE8643805, .twin ⟨1, 3, 4, 7⟩),
   (0xE8643816, .ttrans ⟨1, 3, 4, 7, 1⟩), (0xE8640117, .xfmt ⟨1, 3, 4, 17⟩)] = true := by decide

theorem test_words_of_predicted_tiles : readsAs
  [(0xEE192240, .sktrack ⟨1, 33, 36, 34, 1⟩), (0xEE192241, .skread ⟨1, 33, 36, 34, 1⟩), (0xEE193842, .skwait ⟨1, 33, 36, 1⟩),
   (0xEE193843, .skabort ⟨1, 33, 36, 1⟩), (0xEE193844, .skstat ⟨1, 33, 36, 1⟩),
   (0xEE192245, .skpost ⟨1, 33, 36, 34, 1⟩)] = true := by decide

theorem test_words_of_graphics : readsAs
  [(0xF2116260, .tsetup ⟨1, 33, 5, 34, 1, 1, 0⟩), (0xF2116261, .rstep ⟨1, 33, 5, 34, 1, 1, 0⟩),
   (0xF2116262, .bxtest ⟨1, 33, 5, 34, 1, 1, 0⟩), (0xF2116263, .txf ⟨1, 33, 5, 34, 1, 1, 0⟩),
   (0xF2116264, .fgrid ⟨1, 33, 5, 34, 1, 1, 0⟩), (0xF2116265, .tritest ⟨1, 33, 5, 34, 1, 1, 0⟩),
   (0xF2116266, .gwrite ⟨1, 33, 5, 34, 1, 1, 0⟩)] = true := by decide

theorem test_words_of_system : readsAs
  [(0xF78E3800, .nop ⟨1⟩), (0xF7816561, .trap ⟨1, 5, 37, 1, 1⟩), (0xF78E3802, .eret ⟨1⟩),
   (0xF4216263, .resolve ⟨1, 2, 5, 34, 1, 1, 0⟩), (0xF6105004, .xrd ⟨1, 33, 1, 16⟩), (0xF6105045, .xwr ⟨1, 33, 1, 16, 1⟩),
   (0xF78E3806, .halt ⟨1⟩), (0xF78E3807, .brk ⟨1⟩), (0xF6192248, .tlbinv ⟨1, 33, 36, 34, 1⟩)] = true := by decide

theorem test_words_of_caches : readsAs
  [(0xFA192240, .pin ⟨1, 33, 36, 34, 1⟩), (0xFA192241, .unpin ⟨1, 33, 36, 34, 1⟩), (0xFA192242, .pfch ⟨1, 33, 36, 34, 1⟩),
   (0xFA193843, .flush ⟨1, 33, 36, 1⟩), (0xFA193844, .inval ⟨1, 33, 36, 1⟩), (0xFA192245, .evload ⟨1, 33, 36, 34, 1⟩),
   (0xFA192246, .pgmode ⟨1, 33, 36, 34, 1⟩)] = true := by decide

/-- Words that the manual writes out (02_words, 04_work, 05_queues, 06_numbers, 13_order, 14_sync, 16_engines, 17_sketch). -/
theorem test_words_in_the_manual : readsAs
  [(0x08413D00, .add ⟨0, 4, 4, 61, 0, 0, 0⟩), (0xB0BFFF49, .loopG ⟨1, 1, 0x3FFF4⟩), (0xB64E0101, .takeT ⟨1, 36, 1⟩),
   (0xB6497809, .vclaim ⟨1, 36, 37, 0⟩), (0xE8850037, .xfmt ⟨1, 4, 5, 3⟩), (0x2810030D, .cvtF32E2m1 ⟨0, 1, 0, 3, 0, 0⟩),
   (0x2820780E, .cvtE4m3F32 ⟨0, 2, 1, 0, 0⟩), (0x3B8E0304, .fenceAcq ⟨0, 3⟩), (0x3B8E0105, .fenceRel ⟨0, 1⟩),
   (0x3B8E0406, .fenceAr ⟨0, 4⟩), (0x3B8E3807, .mark ⟨0⟩), (0x3A4E0508, .scope ⟨0, 36, 5⟩), (0x3B8E0302, .barSync ⟨0, 3⟩),
   (0x3A494209, .barCount ⟨0, 36, 37, 2, 0⟩), (0x5A497804, .semwait ⟨0, 36, 37, 0⟩), (0x5B896603, .semarr ⟨0, 56, 37, 38, 0⟩),
   (0x44108300, .atomAdd ⟨0, 1, 2, 3, 0, 0, 0⟩), (0x44108309, .atomCas ⟨0, 1, 2, 3, 0, 0, 0⟩),
   (0x4B808308, .redFaddF32 ⟨0, 2, 3, 0, 0, 0⟩), (0x50108323, .cpyG2s32 ⟨0, 1, 2, 3, 0, 1, 0⟩), (0x538E0208, .waittag ⟨0, 2⟩),
   (0x504E0209, .tagcnt ⟨0, 4, 2⟩), (0x56400100, .enq ⟨0, 36, 0, 1, 0, 0⟩), (0x57893801, .sleepto ⟨0, 56, 36, 0, 0⟩),
   (0x6E496601, .skread ⟨0, 36, 37, 38, 0⟩), (0x6E497802, .skwait ⟨0, 36, 37, 0⟩), (0x6F896605, .skpost ⟨0, 56, 37, 38, 0⟩),
   (0xF7896608, .tlbinv ⟨1, 56, 37, 38, 0⟩)] = true := by decide

/-! ## Ill-formed slots (R32 to R34, R37, R49) -/

theorem test_refuses_reserved_destination : wellFormed (.add ⟨0, 48, 1, 2, 0, 0, 0⟩) = false := by decide
theorem test_refuses_literal_as_destination : wellFormed (.add ⟨0, 61, 1, 2, 0, 0, 0⟩) = false := by decide
theorem test_refuses_reserved_source : wellFormed (.add ⟨0, 1, 55, 2, 0, 0, 0⟩) = false ∧ wellFormed (.add ⟨0, 1, 2, 63, 0, 0, 0⟩) = false := by
  decide
theorem test_refuses_keep_bit_beside_no_queue : wellFormed (.add ⟨0, 1, 32, 2, 0, 1, 0⟩) = false := by decide
theorem test_refuses_two_literals : wellFormed (.add ⟨0, 1, 61, 61, 0, 0, 0⟩) = false := by decide
theorem test_refuses_unused_port : wellFormed (.add ⟨0, 1, 56, 61, 1, 0, 0⟩) = false := by decide
theorem test_refuses_flag_12 : wellFormed (.clause ⟨0, 0, 12, 15, 0⟩) = false ∧ wellFormed (.clause ⟨0, 0, 15, 14, 0⟩) = false := by decide
theorem test_refuses_shift_of_64 : wellFormed (.shli ⟨0, 1, 2, 64, 0, 0⟩) = false ∧ wellFormed (.shli ⟨0, 1, 2, 63, 0, 0⟩) = true := by decide
theorem test_refuses_queue_for_record : wellFormed (.fork ⟨0, 45, 0⟩) = false ∧ wellFormed (.fork ⟨0, 44, 0⟩) = true := by decide
theorem test_refuses_queue_for_g_field : wellFormed (.vclaim ⟨0, 3, 37, 0⟩) = false ∧ wellFormed (.vclaim ⟨0, 56, 37, 0⟩) = true := by decide
theorem test_refuses_v_form_g16 : wellFormed (.vld ⟨0, 1, 16, 2⟩) = false ∧ wellFormed (.vld ⟨0, 1, 31, 2⟩) = true := by decide
theorem test_refuses_saturating_float_vector : wellFormed (.vadd ⟨0, 1, 2, 3, 0, 16⟩) = false ∧ wellFormed (.vadd ⟨0, 1, 2, 3, 0, 19⟩) = true := by
  decide
theorem test_refuses_reduction_type_1 : wellFormed (.vred ⟨0, 1, 2, 0, 1⟩) = false := by decide
theorem test_refuses_conversion_17 : wellFormed (.vcvt ⟨0, 1, 2, 0, 0, 17⟩) = false ∧ wellFormed (.vcvt ⟨0, 1, 2, 3, 0, 0⟩) = false := by decide
theorem test_refuses_unassigned_register : wellFormed (.xrd ⟨0, 36, 0, 6⟩) = false ∧ wellFormed (.xrd ⟨0, 36, 1, 33⟩) = false := by decide
theorem test_refuses_unlisted_function :
    decodeTableWord 32 0x0830640F = none ∧ decodeTableWord 32 0x7C000000 = none ∧ (decodeTableWord 32 0x08306400).isSome = true := by decide

/-! ## One step on a small state -/

/-- A thread whose queues 1, 2 and 3 hold one word each, and whose queue 4 holds 5 then 7. -/
def thr (a b c : Word) : Thread :=
  { Thread.init with qs := [(1, [⟨.filled a false, false, false⟩]), (2, [⟨.filled b false, false, false⟩]), (3, [⟨.filled c false, false, false⟩]),
      (4, [⟨.filled 5 false, false, false⟩, ⟨.filled 7 false, false, false⟩])] }

/-- Troupe 0, of ensemble 1 of company 1, with all sixteen threads so. -/
def trp (a b c : Word) : Troupe := { Troupe.init with comp := 1, ens := 1, threads := List.replicate 16 (thr a b c) }

/-- Its slot 0 of the bundle at 4096, issued at cycle 96, in the threads of a mask. -/
def foc (t : Troupe) (run : BitVec 16) : Focus :=
  { troupe := 0, k := 0, base := 4096, issue := 96, latch := t, pass := run, run := run, word := 0, lit := 0, target := none,
    resuming := false, acted := false, sent := [], answer := none, op := none, first := true, width := 1, last := false, cont := (0, false), ctl := none }

/-- Its ensemble: one granule of tile 0, two barriers, two semaphores, two accumulators. -/
def ens1 : Ensemble :=
  { ctx := 0, comp := 1, linear := 0, unit := 0, base := 0, count := 1, size := 1, troupes := [0], exited := 0, bars := [], sems := [],
    accs := [], naccs := 2, cur := 0, banks := [], joins := [], matExc := 0, latch := none, engaged := false,
    desc := { Desc.init with barriers := 2, sems := 2, accs := 2, scratch := 1 } }

/-- The machine at that slot, at cycle 100, with every function ready. -/
def at_ (t : Troupe) (run : BitVec 16) : State :=
  { State.reset with now := 100, troupes := [(0, t)], focus := some (foc t run), enss := [(1, ens1)],
                     mgmt := { Mgmt.init with ready := 0x7FFFFFFFF } }

/-- The answer is a next state in which p holds. -/
def after (r : Host.Outcome State Fault Refusal) (p : State → Bool) : Bool := match r with | .next s => p s | _ => false

/-- The words in a queue of thread 0 of troupe 0. -/
def words (s : State) (q : Nat) : List Word :=
  match s.troupe 0 with
  | some t => ((t.thread 0).queue q).filterMap (fun e => match e.pos with | .filled v _ => some v | _ => none)
  | none => []

/-- What a register form makes of q2, q3 and D = q1 in thread 0 alone: the words of q1 afterwards, and SAT. -/
def result (i : RegF → Instr) (a b : Word) : List Word × BitVec 1 :=
  match exec (i ⟨0, 0, 2, 3, 0, 0, 0⟩) (at_ (trp 0 a b) 1) with
  | .next s => (words s 0, ((s.troupe 0).map (fun t => t.sat)).getD 0)
  | _ => ([], 0)

/-- 07_scalar, "Integer edges and a split at division". -/
theorem test_shl_beyond_width : result .shl 1 33 = ([0], 0) := by decide
theorem test_sar_beyond_width : result .sar 0x80000000 40 = ([0xFFFFFFFF], 0) := by decide
theorem test_div_of_minimum : result .divI32 0x80000000 0xFFFFFFFF = ([0x80000000], 0) := by decide
theorem test_rem_takes_sign_of_dividend : result .remI32 0xFFFFFFF9 2 = ([0xFFFFFFFF], 0) := by decide
theorem test_bfe_signed : result .bfeI32 0xF00 0x408 = ([0xFFFFFFFF], 0) := by decide
theorem test_bfe_unsigned : result .bfeN32 0xF00 0x408 = ([0xF], 0) := by decide
theorem test_addsat_clamps : result .addsatI32 0x7FFFFFF0 0x20 = ([0x7FFFFFFF], 1) := by decide
theorem test_clz_of_zero : after (exec (.clz ⟨0, 0, 2, 0, 0⟩) (at_ (trp 0 0 0) 1)) (fun s => words s 0 == [32]) = true := by decide
/-- `bfi` reads its base from D. -/
theorem test_bfi_drops_high_bits : after (exec (.bfi ⟨0, 1, 2, 3, 0, 0, 0⟩) (at_ (trp 0 5 0x41E) 1)) (fun s => words s 1 == [0x40000000]) = true := by
  decide

/-- 05_queues: `mad q4, &q4, q4` on 5, 7 pushes 5 × 5 + 7. -/
theorem test_mad_peeks_pops_pops :
    after (exec (.mad ⟨0, 4, 4, 4, 0, 1, 0⟩) (at_ (trp 0 0 0) 1)) (fun s => words s 4 == [32]) = true := by decide

/-- 04_work: `bif` on threads 0 to 4 keeps them and saves the others for `belse`. -/
theorem test_bif_divides :
    let t := { trp 0 0 0 with threads := (List.range 16).map (fun i => { Thread.init with preds := if i < 5 then 2 else 0 }) }
    after (exec (.bif ⟨0, 1, 0, 8⟩) (at_ t 0xFFFF)) (fun s =>
      (s.troupe 0).map (fun u => (u.active, u.maskStack)) == some (0x001F, [(0xFFFF, 0xFFE0)])) = true := by decide

/-- 06_numbers: `xfmt g4, g5, 0x3` with g5 = 0x309 at reset. -/
theorem test_xfmt_merges_fields :
    after (exec (.xfmt ⟨1, 4, 5, 3⟩) (at_ { trp 0 0 0 with g := [(5, 0x309)] } 1)) (fun s =>
      (s.core 0).fmtNext == [(100, 0x85309)] && ((s.troupe 0).map (fun t => t.gread 4) == some 0x85505)) = true := by decide

/-- 06_numbers: nibble 3 of 0xE000 is −4.0, and 464.0 clamps to 448 and sets SAT. -/
theorem test_cvt_from_e2m1 :
    after (exec (.cvtF32E2m1 ⟨0, 0, 2, 3, 0, 0⟩) (at_ (trp 0 0xE000 0) 1)) (fun s => words s 0 == [0xC0800000]) = true := by decide
theorem test_cvt_to_e4m3_clamps :
    after (exec (.cvtE4m3F32 ⟨0, 0, 2, 0, 0⟩) (at_ (trp 0 0x43E80000 0) 1)) (fun s =>
      words s 0 == [0x7E] && ((s.troupe 0).map (fun t => t.sat) == some 1)) = true := by decide +kernel

/-- 08_vector: `vred.add.f32` rounds 2^24 + 1 to even twice, and sets NX. -/
theorem test_vred_keeps_tree_order :
    let t := { trp 0 0 0 with vclaim := 8, vregs := [(3, 0x4B800000 :: 0x3F800000 :: 0x3F800000 :: List.replicate 93 0)] }
    after (exec (.vred ⟨0, 5, 3, 0, 0x20⟩) (at_ t 1)) (fun s =>
      (s.troupe 0).map (fun u => (u.gread 5, u.fpFlags &&& 1)) == some (0x4B800000, 1)) = true := by decide +kernel

/-- R221, R225, R226: `st.s.b32` puts the low byte at the lowest address of the allocation, 10 cycles after its own. -/
theorem test_store_is_little_endian :
    after (exec (.stS ⟨0, 2, 3, 0, 1, 0, 2⟩) (at_ (trp 0 0x11223344 0x10) 1)) (fun s =>
      after (exec .storePerform { s with now := 110 }) (fun s =>
        s.scratch == [(0x14, 0x44), (0x15, 0x33), (0x16, 0x22), (0x17, 0x11)])) = true := by decide

/-- R405, R415: a software trap saves its slot and bundle, keeps the queues, and leaves the pc. -/
theorem test_trap_saves_slot :
    after (exec (.trap ⟨1, 2, 3, 0, 0⟩) (at_ (trp 0 9 0) 1)) (fun s =>
      (s.troupe 0).map (fun t => (t.causeReg, t.epc, t.slotResume, t.redo, t.eaddr)) == some (0x30E, 4096, 0, 1, 9)) = true := by decide

/-- R308: an arrival that completes the phase raises COUNT and clears the rest. -/
theorem test_semaphore_phase_completes :
    let e := { ens1 with sems := [(1, { Sem.init with pending := 8, expect := 1, armed := true })] }
    after (exec (.semarr ⟨0, 36, 37, 38, 0⟩) { at_ { trp 0 0 0 with g := [(5, 1), (6, 8)] } 1 with enss := [(1, e)] }) (fun s =>
      (s.ens 1).map (fun e => kget Sem.init e.sems 1) == some { Sem.init with count := 1 }) = true := by decide

/-- R300: one arrival completes a barrier of one. -/
theorem test_barrier_phase_completes :
    after (exec (.barArrive ⟨0, 1⟩) (at_ (trp 0 0 0) 1)) (fun s =>
      (s.ens 1).map (fun e => (kget (Bar.init 1) e.bars 1).phases) == some 1) = true := by decide

/-- A program placed for the next step runs: `addi q0, z, −1` at reset. -/
theorem test_step_runs_placed_word :
    after (step (State.reset.withFetchWord 32 0x100E1FF0)) (fun _ => true) = true := by decide +kernel

/-- R240 names AES-256; the key, block and answer are the example of FIPS 197, C.3. -/
theorem test_aes_256 :
    Aes.valueOf (Aes.encrypt (List.range 32) ((List.range 16).map (fun i => 17 * i))) = 0x8960494b9049fceabf456751cab7a28e := by
  decide +kernel

/-! ## Witnesses: for each statement a state and operands that meet its hypotheses -/

/-- A property of the threads that run a slot of thread 0 alone is one of thread 0. -/
theorem runs_zero {f : Focus} {p : Nat → Prop} (hf : f.run = 1) (h : p 0) : ∀ i, Runs f i → p i := by
  intro i hi
  have key : ∀ i, i < 16 → (1#16).getLsbD i = true → i = 0 := by decide
  have hr := hi.2
  rw [hf] at hr
  exact key i hi.1 hr ▸ h

/-- The machine of the tests with q1 = 1, q2 = 9, q3 = 3 and q4 = 5, 7, at a slot of thread 0. -/
def wt : Troupe := trp 1 9 3
def wf : Focus := foc wt 1
def ws : State := at_ wt 1

/-- Its thread 0 after pops of q2, of q2 and q3, and then of q4. -/
def p1 : Nat → Thread := fun _ => (thr 1 9 3).drop 2
def p2 : Nat → Thread := fun _ => ((thr 1 9 3).drop 2).drop 3
def p3 : Nat → Thread := fun _ => (((thr 1 9 3).drop 2).drop 3).drop 4

theorem at_ws : At ws wf wt := ⟨rfl, rfl, rfl⟩

/-- A property of the one entry of a list is one of all its entries. -/
theorem mem_one {α : Type} {p : α → Prop} {a : α} (h : p a) : ∀ x, x ∈ [a] → p x := by
  intro x hx
  rw [List.mem_singleton] at hx
  exact hx ▸ h

/-- Nothing is still to perform in a state with empty queues, no matrix operation on the unit and no joint pass. -/
theorem done_of {s : State} {u : Nat} (h1 : s.storeQ = []) (h2 : s.waitQ = []) (h3 : ∀ p, p ∈ s.cores → p.2.port = [] ∧ p.2.pushes = [])
    (h4 : matOps s u = []) (h5 : ∀ e, e ∈ s.enss → e.2.joins = []) (h6 : ∀ p, p ∈ s.troupes → p.2.spec.held = []) : StoresDone s u := by
  refine ⟨h1, h2, h3, fun tk lim hu => ?_, h6⟩
  subst hu
  have hj : (s.enss.filter (fun e => e.2.unit == unitOf tk)).flatMap (fun e =>
      physRanges s e.1 (MatKind.reads (.pass true ((e.2.joins.flatMap (fun j => j.2)).filter (fun p => p.troupe == tk && earlier lim p.id))))) = [] := by
    rw [List.flatMap_eq_nil_iff]
    intro e he
    rw [h5 e (List.mem_filter.mp he).1]
    rfl
  simp [matReads, matWrites, h4, hj]

theorem ok_of {ε α : Type} {e : Except ε α} (h : e.toBool = true) : ∃ r, e = .ok r := by
  cases e with
  | ok r => exact ⟨r, rfl⟩
  | error c => exact absurd h (by simp [Except.toBool])

/-- An answer that is there and has a property. -/
theorem ok_such {ε α : Type} {e : Except ε α} (p : α → Bool) (h : (match e with | .ok a => p a | .error _ => false) = true) :
    ∃ a, e = .ok a ∧ p a = true := by
  cases e with
  | ok a => exact ⟨a, rfl, h⟩
  | error c => exact absurd h (by simp)

/-- The same of an answer beside a state. -/
theorem ok_fetch {ε α σ : Type} {e : Except ε α × σ} (p : α → σ → Bool) (h : (match e with | (.ok a, s) => p a s | (.error _, _) => false) = true) :
    ∃ a s, e = (.ok a, s) ∧ p a s = true := by
  obtain ⟨r, s⟩ := e
  cases r with
  | ok a => exact ⟨a, s, rfl, h⟩
  | error c => exact absurd h (by simp)

/-- A refusal that is there and has a property. -/
theorem error_such {ε α : Type} {e : Except ε α} (p : ε → Bool) (h : (match e with | .error c => p c | .ok _ => false) = true) :
    ∃ c, e = .error c ∧ p c = true := by
  cases e with
  | ok a => exact absurd h (by simp)
  | error c => exact ⟨c, rfl, h⟩

/-- A translation that finds a page absent, and one that gives an address under a key slot. -/
theorem absent_of {r : Xl × State} (h : (match r with | (.absent _, _) => true | _ => false) = true) : ∃ l s, r = (.absent l, s) := by
  obtain ⟨x, s⟩ := r
  cases x <;> first | exact ⟨_, _, rfl⟩ | exact absurd h (by simp)

theorem gives_of {x : Xl} {pa key : Nat} (h : (match x with | .ok a k _ => a == pa && k == key | _ => false) = true) : ∃ pm, x = .ok pa key pm := by
  cases x with
  | ok a k pm =>
    simp only [Bool.and_eq_true, beq_iff_eq] at h
    exact ⟨pm, by rw [h.1, h.2]⟩
  | _ => exact absurd h (by simp)

/-- Nothing that a posted operation must follow, with no access that waits, none at the port, and no push or partial. -/
theorem order_of {s : State} {tk : Nat} (t : Troupe) (m : BitVec 16) (h1 : s.waitQ = []) (h2 : (s.core (coreOf tk)).port = [])
    (h3 : s.cores.any (fun c => !c.2.pushes.isEmpty) = false) (h4 : (s.tile (unitOf tk)).partials = []) :
    orderPending s tk t m .posted = false := by
  have hp : ∀ w, pushHeld s w = false := by
    intro w
    simp only [pushHeld, List.any_eq_false] at h3 ⊢
    intro c hc
    have := h3 c hc
    cases hl : c.2.pushes with
    | nil => simp
    | cons a l => simp [hl] at this
  simp [orderPending, portPending, partialHeld, whoOf, h1, h2, h4, hp]

theorem done_ws : StoresDone ws 0 := done_of rfl rfl (fun p h => by cases h) rfl (mem_one rfl) (mem_one rfl)
theorem quiet_ws : Quiet ws 0 := ⟨done_ws, rfl⟩
theorem reads1_ws : Reads1 wf wt 2 0 (fun _ => .narrow 9) p1 := runs_zero rfl rfl
theorem reads2_ws : Reads2 wf wt 2 3 0 0 (fun _ => .narrow 9) (fun _ => .narrow 3) p2 := ⟨p1, reads1_ws, runs_zero rfl rfl⟩
theorem reads3_ws : Reads3 wf wt 2 3 4 0 0 (fun _ => .narrow 9) (fun _ => .narrow 3) (fun _ => .narrow 5) p3 :=
  ⟨p2, reads2_ws, runs_zero rfl rfl⟩

/-- The hypotheses of the statements of two sources, with D = q0, and of those that read and push D = q4. -/
theorem witness_WidthArithmeticWritesResult :
    At ws wf wt ∧ Reads2 wf wt 2 3 0 0 (fun _ => .narrow 9) (fun _ => .narrow 3) p2 ∧ HasRoom wf 0 1 p2 ∧ HasRoom wf 36 1 p2 :=
  ⟨at_ws, reads2_ws, runs_zero rfl (fun _ => by decide), runs_zero rfl (fun h => absurd h (by decide))⟩

theorem witness_ImmediatesAndMovesWriteResult :
    At ws wf wt ∧ Reads1 wf wt 2 0 (fun _ => .narrow 9) p1 ∧ HasRoom wf 0 1 p1 ∧ HasRoom wf 0 1 wt.thread ∧ (63#9).toNat < 64 ∧
      Reads2 wf wt 2 3 0 0 (fun _ => .narrow 9) (fun _ => .narrow 3) p2 ∧ HasRoom wf 0 1 p2 :=
  ⟨at_ws, reads1_ws, runs_zero rfl (fun _ => by decide), runs_zero rfl (fun _ => by decide), by decide, reads2_ws,
   runs_zero rfl (fun _ => by decide)⟩

theorem witness_WordFunctionsWriteResult :
    At ws wf wt ∧ Reads1 wf wt 2 0 (fun _ => .narrow 9) p1 ∧ HasRoom wf 0 1 p1 ∧
      Reads2 wf wt 2 3 0 0 (fun _ => .narrow 9) (fun _ => .narrow 3) p2 ∧ HasRoom wf 0 1 p2 :=
  ⟨at_ws, reads1_ws, runs_zero rfl (fun _ => by decide), reads2_ws, runs_zero rfl (fun _ => by decide)⟩

/-- With a = 9, b = 3 (pos 3, len 0) and base 5, `bfi` gives the base. -/
theorem witness_FieldAndAccumulatingFormsWriteResult :
    At ws wf wt ∧ Reads3 wf wt 2 3 4 0 0 (fun _ => .narrow 9) (fun _ => .narrow 3) (fun _ => .narrow 5) p3 ∧ HasRoom wf 4 1 p3 ∧
      (∀ k, k < 32 → (5#32).getLsbD k =
        (if fieldPos 3 ≤ k ∧ k < fieldPos 3 + fieldLen 3 then (9#32).getLsbD (k - fieldPos 3) else (5#32).getLsbD k)) :=
  ⟨at_ws, reads3_ws, runs_zero rfl (fun _ => by decide), by decide⟩

theorem witness_SaturatingFormsClampAndSetSat :
    At ws wf wt ∧ Reads2 wf wt 2 3 0 0 (fun _ => .narrow 9) (fun _ => .narrow 3) p2 ∧ HasRoom wf 0 1 p2 :=
  ⟨at_ws, reads2_ws, runs_zero rfl (fun _ => by decide)⟩

/-- `drop` of q2; `dup` into q0 and, with two free positions left, into q4; `qclr` of q31 and of g0. -/
theorem witness_QueueMovesChangeQueues :
    At ws wf wt ∧ Reads1 wf wt 2 0 (fun _ => .narrow 9) p1 ∧ HasRoom wf 0 2 p1 ∧ HasRoom wf 4 2 p1 ∧ HasRoom wf 0 1 wt.thread ∧
      (∀ i, Runs wf i → ((wt.thread i).queue 4).length ≤ 4) ∧ (31#6).toNat < 48 ∧ (32#6).toNat < 48 :=
  ⟨at_ws, reads1_ws, runs_zero rfl (fun _ => by decide), runs_zero rfl (fun _ => by decide), runs_zero rfl (fun _ => by decide),
   runs_zero rfl (by decide), by decide, by decide⟩

/-- The float compares need no enabled signal: here every exception is enabled, and 2.0 and 3.0 signal none. -/
def wtf : Troupe := { trp 1 0x40000000 0x40400000 with fpEnable := 0x1F }
def wff : Focus := foc wtf 1
def wsf : State := at_ wtf 1
def pf1 : Nat → Thread := fun _ => (thr 1 0x40000000 0x40400000).drop 2
def pf2 : Nat → Thread := fun _ => ((thr 1 0x40000000 0x40400000).drop 2).drop 3
def pf3 : Nat → Thread := fun _ => (((thr 1 0x40000000 0x40400000).drop 2).drop 3).drop 1

theorem at_wsf : At wsf wff wtf := ⟨rfl, rfl, rfl⟩
theorem reads1_wsf : Reads1 wff wtf 2 0 (fun _ => .narrow 0x40000000) pf1 := runs_zero rfl rfl
theorem reads2_wsf : Reads2 wff wtf 2 3 0 0 (fun _ => .narrow 0x40000000) (fun _ => .narrow 0x40400000) pf2 :=
  ⟨pf1, reads1_wsf, runs_zero rfl rfl⟩
theorem reads3_wsf :
    Reads3 wff wtf 2 3 1 0 0 (fun _ => .narrow 0x40000000) (fun _ => .narrow 0x40400000) (fun _ => .narrow 1) pf3 :=
  ⟨pf2, reads2_wsf, runs_zero rfl rfl⟩

theorem witness_ComparesAndPredicatesWritePredicate :
    At wsf wff wtf ∧ Reads1 wff wtf 2 0 (fun _ => .narrow 0x40000000) pf1 ∧
      Reads2 wff wtf 2 3 0 0 (fun _ => .narrow 0x40000000) (fun _ => .narrow 0x40400000) pf2 ∧
      (nvOf (ffDecode f32 0x40000000) ||| nvOf (ffDecode f32 0x40400000)) &&& wtf.fpEnable = 0 ∧
      (if fvUnordered (ffDecode f32 0x40000000) (ffDecode f32 0x40400000) then fpNV else 0) &&& wtf.fpEnable = 0 :=
  ⟨at_wsf, reads1_wsf, reads2_wsf, by decide, by decide⟩

theorem witness_FloatFunctionsWriteResult :
    At wsf wff wtf ∧ Reads1 wff wtf 2 0 (fun _ => .narrow 0x40000000) pf1 ∧
      Reads2 wff wtf 2 3 0 0 (fun _ => .narrow 0x40000000) (fun _ => .narrow 0x40400000) pf2 ∧ HasRoom wff 0 1 pf1 ∧ HasRoom wff 0 1 pf2 ∧
      (∀ op ∈ [ffAdd f32, ffSub f32, ffMul f32, ffMinMax f32 false, ffMinMax f32 true],
        (op 0x40000000 0x40400000).2 &&& wtf.fpEnable = 0) ∧
      (∀ op ∈ [ffIntegral f32 .floor, ffIntegral f32 .ceil, ffIntegral f32 .trunc, ffIntegral f32 .nearest, ffSat01 f32],
        (op 0x40000000).2 &&& wtf.fpEnable = 0) :=
  ⟨at_wsf, reads1_wsf, reads2_wsf, runs_zero rfl (fun _ => by decide), runs_zero rfl (fun _ => by decide), by decide +kernel,
   by decide +kernel⟩

/-- `ffma q1, q2, q3` with q1 = 2^−149, and no exception enabled. -/
theorem witness_FloatMultiplyAdd :
    let f := foc { wtf with fpEnable := 0 } 1
    Reads3 f { wtf with fpEnable := 0 } 2 3 1 0 0 (fun _ => .narrow 0x40000000) (fun _ => .narrow 0x40400000) (fun _ => .narrow 1) pf3 ∧
      HasRoom f 1 1 pf3 ∧ (ffFma f32 0x40000000 0x40400000 1).2 &&& ({ wtf with fpEnable := 0 } : Troupe).fpEnable = 0 :=
  ⟨⟨pf2, ⟨pf1, runs_zero rfl rfl, runs_zero rfl rfl⟩, runs_zero rfl rfl⟩, runs_zero rfl (fun _ => by decide), by decide +kernel⟩

theorem witness_PackedFunctionsWriteResult :
    At wsf wff wtf ∧ Reads2 wff wtf 2 3 0 0 (fun _ => .narrow 0x40000000) (fun _ => .narrow 0x40400000) pf2 ∧ HasRoom wff 0 1 pf2 ∧
      Reads3 wff wtf 2 3 1 0 0 (fun _ => .narrow 0x40000000) (fun _ => .narrow 0x40400000) (fun _ => .narrow 1) pf3 ∧ HasRoom wff 1 1 pf3 ∧
      ((ffAdd f16 0 0).2 ||| (ffAdd f16 0x4000 0x4040).2) &&& wtf.fpEnable = 0 ∧
      ((ffFma f16 0 0 1).2 ||| (ffFma f16 0x4000 0x4040 0).2) &&& wtf.fpEnable = 0 :=
  ⟨at_wsf, reads2_wsf, runs_zero rfl (fun _ => by decide), reads3_wsf, runs_zero rfl (fun _ => by decide), by decide +kernel,
   by decide +kernel⟩

theorem witness_ConversionsWriteResult :
    At wsf wff wtf ∧ Reads1 wff wtf 2 0 (fun _ => .narrow 0x40000000) pf1 ∧ HasRoom wff 0 1 pf1 ∧
      Reads2 wff wtf 2 3 0 0 (fun _ => .narrow 0x40000000) (fun _ => .narrow 0x40400000) pf2 ∧ HasRoom wff 0 1 pf2 :=
  ⟨at_wsf, reads1_wsf, runs_zero rfl (fun _ => by decide), reads2_wsf, runs_zero rfl (fun _ => by decide)⟩

theorem witness_SpecialFunctionsDeliverAfterTwentyCycles :
    At ws wf wt ∧ Reads1 wf wt 2 0 (fun _ => .narrow 9) p1 ∧ Reads2 wf wt 2 3 0 0 (fun _ => .narrow 9) (fun _ => .narrow 3) p2 ∧
      HasRoom wf 0 1 p1 ∧ HasRoom wf 0 1 p2 ∧ (0#6).toNat < 32 ∧ wf.run ≠ 0 ∧ wf.op = none ∧ (∀ c, c < 12 → wt.flagCount c < 63) ∧
      (∀ k, Runs wf k → (sfuUnary 0 9).2 &&& 0x18 &&& wt.fpEnable = 0) :=
  ⟨at_ws, reads1_ws, reads2_ws, runs_zero rfl (fun _ => by decide), runs_zero rfl (fun _ => by decide), by decide, by decide, rfl,
   by decide, fun _ _ => BitVec.and_zero⟩

/-- A header that waits on every flag; a guard; a branch, `call` with 15 addresses stacked, `ret`, `brx` and `loop`. -/
theorem witness_HeadersGuardsAndBranchesAct :
    At ws wf wt ∧ (∀ i, i < 12 → (0xFFF#12).getLsbD i = true → wt.flagCount i = 0) ∧ wf.first = true ∧ wf.run ≠ 0 ∧
      (List.replicate 15 4096).length < 16 ∧ (wf.latch.gread 0).toNat % 4 = 0 ∧ (wf.lit.signExtend 64 : Dword).toNat % 4 = 0 ∧
      At (at_ { wt with retStack := [4096] } 1) (foc { wt with retStack := [4096] } 1) { wt with retStack := [4096] } :=
  ⟨at_ws, by decide, rfl, by decide, by decide, by decide, by decide, ⟨rfl, rfl, rfl⟩⟩

/-- `bif` with 0 and with 15 masks stacked; `belse` and `bjoin` on one; both ends of the stack's range. -/
theorem witness_DivergenceKeepsMaskStack :
    let m (n : Nat) : Troupe := { wt with maskStack := List.replicate n (1, 0) }
    (∀ n ∈ [0, 1, 15, 16], At (at_ (m n) 1) (foc (m n) 1) (m n) ∧ PlainTrap (foc (m n) 1) (m n)) ∧ (m 0).maskStack = [] ∧
      (m 1).maskStack = (1, 0) :: [] ∧ (m 15).maskStack.length < 16 ∧ 16 ≤ (m 16).maskStack.length ∧
      (∀ i, i < 16 → (0#16).getLsbD i = condAt (foc (m 0) 1) 0 0 i) ∧ wf.run ≠ 0 := by
  refine ⟨fun n _ => ⟨⟨rfl, rfl, rfl⟩, rfl, rfl, by show (0 : Nat) < 8; decide⟩, rfl, rfl, by decide, by decide, by decide, by decide⟩

theorem witness_ControlTrapsArePrecise :
    let m (n : Nat) : Troupe := { wt with retStack := List.replicate n 4096, g := [(1, 4098)] }
    (∀ n, At (at_ (m n) 1) (foc (m n) 1) (m n) ∧ PlainTrap (foc (m n) 1) (m n)) ∧ (m 0).retStack = [] ∧ 16 ≤ (m 16).retStack.length ∧
      ((foc (m 0) 1).latch.gread (33 - 32)).toNat % 4 ≠ 0 ∧ (((3 : Word).signExtend 64 : Dword)).toNat % 4 ≠ 0 ∧
      At { at_ wt 1 with focus := some { wf with lit := 3 } } { wf with lit := 3 } wt := by
  refine ⟨fun n => ⟨⟨rfl, rfl, rfl⟩, rfl, rfl, by show (0 : Nat) < 8; decide⟩, rfl, by decide, by decide, by decide, ⟨rfl, rfl, rfl⟩⟩

/-- A divisor of 3 in thread 0, and of 0. -/
theorem witness_DivisionTruncatesAndTrapsOnZero :
    (At ws wf wt ∧ Reads2 wf wt 2 3 0 0 (fun _ => .narrow 9) (fun _ => .narrow 3) p2 ∧ HasRoom wf 0 1 p2 ∧ (3 : Word) ≠ 0) ∧
    (let t := trp 1 9 0
     let q : Nat → Thread := fun _ => ((thr 1 9 0).drop 2).drop 3
     At (at_ t 1) (foc t 1) t ∧ PlainTrap (foc t 1) t ∧ HasRoom (foc t 1) 0 1 q ∧
       Reads2 (foc t 1) t 2 3 0 0 (fun _ => .narrow 9) (fun _ => .narrow 0) q ∧
       (∀ i, i < 16 → (1#16).getLsbD i = ((foc t 1).run.getLsbD i && decide ((0 : Word) = 0))) ∧ (1 : BitVec 16) ≠ 0) :=
  ⟨⟨at_ws, reads2_ws, runs_zero rfl (fun _ => by decide), by decide⟩, ⟨rfl, rfl, rfl⟩, ⟨rfl, rfl, by decide⟩,
   runs_zero rfl (fun _ => by decide), ⟨fun _ => (thr 1 9 0).drop 2, runs_zero rfl rfl, runs_zero rfl rfl⟩, by decide, by decide⟩

/-- A company of depth 9, so that a child may still be launched. -/
def cmp1 : Company :=
  { ctx := 0, part := 0, parent := none, depth := 9, desc := Desc.init, next := 1, total := 1, since := 0, retired := 0, kids := [],
    firstCause := none, order := 0, tt := none }

/-- Tables at 0x1000 to 0x4000 that map the first 2 MiB to 0x400000, read and write, under key slot 0; and at virtual 0x8000 the
least legal descriptor. -/
def tables : Memory :=
  [(0x1000, 1), (0x1001, 0x20), (0x2000, 1), (0x2001, 0x30), (0x3000, 1), (0x3001, 0x40), (0x4000, 0x1B), (0x4002, 0x40),
   (0x40802C, 1), (0x40802E, 1), (0x408030, 1), (0x408032, 1)]

/-- That mapping in the core's L1 TLB. -/
def tlb1 : Tlb :=
  { ctx := 0, base := 0, span := 0x200000, pa := 0x400000, key := 0, pmode := false, priv := false, w := true, r := true }

/-- The machine of the tests, mapped, with a partition, and g8 as given. -/
def wtm (g8 : Dword) : Troupe := { wt with g := [(8, g8)] }
def wfm (g8 : Dword) : Focus := foc (wtm g8) 1
def wsm (g8 : Dword) : State :=
  { at_ (wtm g8) 1 with
      mem := tables, ctxs := [(0, { Ctx.init with ptroot := 0x1001 })], keys := [(0, { loaded := true, key := 0 })],
      cores := [(0, { Core.init with tlb := [tlb1] })], comps := [(1, cmp1)],
      parts := [(0, { running := true, ctx := 0, rows := 1, refused := none, holds := [] })] }

theorem at_wsm (g8 : Dword) : At (wsm g8) (wfm g8) (wtm g8) := ⟨rfl, rfl, rfl⟩
theorem reads_z (g8 : Dword) : Reads1 (wfm g8) (wtm g8) 56 0 (fun _ => .plain 0) (wtm g8).thread := runs_zero rfl rfl
theorem alone_wfm (g8 : Dword) : Alone (wfm g8) 0 := ⟨by decide, rfl⟩
theorem plain_wtm (g8 : Dword) : Plain (wtm g8) := ⟨rfl, rfl⟩
theorem done_wsm (g8 : Dword) : StoresDone (wsm g8) 0 := done_of rfl rfl (mem_one ⟨rfl, rfl⟩) rfl (mem_one rfl) (mem_one rfl)
theorem quiet_wsm (g8 : Dword) : Quiet (wsm g8) 0 := ⟨done_wsm g8, rfl⟩
theorem room_wfm (g8 : Dword) : FlagRoom (wfm g8) (wtm g8) := ⟨rfl, by show ∀ c, c < 12 → (0 : Nat) < 63; decide⟩

/-- `vclaim` of 8 and of 33; `vgive` of 8 from a claim of 16 with a VMEM operation on its way to register 3, and of 24. -/
theorem witness_ClaimsRoleAndYieldAct :
    At ws wf wt ∧ wf.run ≠ 0 ∧ Plain wt ∧ GOrZ 32 ∧ GOrZ 47 ∧ GOrZ 56 ∧ 32 ≤ (47#6).toNat ∧ (47#6).toNat < 48 ∧
      (8 ≤ 32 ∧ 8 % 8 = 0 ∧ wt.vclaim ≤ 8) ∧ ¬ 33 ≤ 32 ∧
      (let t : Troupe := { wt with vclaim := 16, g := [(1, 8), (2, 24)] }
       let s : State := { at_ t 1 with agenda := [(120, .vmemComplete 0 ⟨7, [3]⟩)] }
       At s (foc t 1) t ∧ (gVal (foc t 1) 33).toNat ≤ t.vclaim ∧ (gVal (foc t 1) 33).toNat % 8 = 0 ∧
         (∀ e o r, e ∈ s.agenda → e.2 = .vmemComplete 0 o → r ∈ o.regs → ¬ ((gVal (foc t 1) 33).toNat ≤ r ∧ r < t.vclaim)) ∧
         ¬ ((gVal (foc t 1) 34).toNat ≤ t.vclaim ∧ (gVal (foc t 1) 34).toNat % 8 = 0)) := by
  refine ⟨at_ws, by decide, ⟨rfl, rfl⟩, .inl (by decide), .inl (by decide), .inr rfl, by decide, by decide, by decide, by decide,
    ⟨rfl, rfl, rfl⟩, by decide, by decide, fun e o r he h hr => ?_, by decide⟩
  cases List.mem_singleton.mp he
  cases h
  cases List.mem_singleton.mp hr
  decide

/-- A deque of no record, of one and of 31; a legal and an illegal `dqconf`; a core that can be robbed. -/
theorem witness_DequeSlotsAct :
    let q (n : Nat) : Deque := { Deque.init with recs := List.replicate n [1, 2, 3, 4] }
    let s (n : Nat) : State := { wsm 0 with cores := [(0, { Core.init with deque := q n })] }
    (∀ n, At (s n) (wfm 0) (wtm 0) ∧ ((s n).core (coreOf 0)).deque = q n ∧ Quiet (s n) 0 ∧ (q n).head = (q n).tail ∧ (q n).lifo = false) ∧
      Plain (wtm 0) ∧ (wfm 0).run ≠ 0 ∧ (wfm 0).acted = false ∧ ({ wfm 0 with acted := true } : Focus).acted = true ∧ (q 0).recs = [] ∧ (q 1).recs = [1, 2, 3, 4] :: [] ∧ (q 31).recs.length < 32 ∧
      (gVal (wfm 0) 33).toNat % 32 = 0 ∧ ((32 * 2 ^ 32 + 1 : Nat) % 2 ^ 32 < 2 ∧ (32 * 2 ^ 32 + 1) / 2 ^ 32 % 32 = 0) ∧
      (32 : Nat) ≤ (44#6).toNat ∧ (44#6).toNat ≤ 44 ∧ robbable (s 1) 0 0 (gVal (wfm 0) 33) = true := by
  refine ⟨fun n => ⟨⟨rfl, rfl, rfl⟩, rfl, ⟨done_of rfl rfl (mem_one ⟨rfl, rfl⟩) rfl (mem_one rfl) (mem_one rfl), rfl⟩, rfl, rfl⟩, ⟨rfl, rfl⟩, by decide, rfl, rfl, rfl, rfl, by decide, by decide, by decide,
    by decide, by decide, by decide⟩

/-- `launch` of the descriptor at g8 = 0x8000 (in g9 of the statement's A = 40); `cwait` on a retired child and on none; `exit`. -/
theorem witness_CompanySlotsAct :
    (At (wsm 0x8000) (wfm 0x8000) (wtm 0x8000) ∧ Quiet (wsm 0x8000) 0 ∧ (wsm 0x8000).comp 1 = some cmp1 ∧ cmp1.depth < 10 ∧
      (gVal (wfm 0x8000) 40).toNat % 64 = 0 ∧ companyLimit (wsm 0x8000) 0 = false ∧
      ∃ bs s₁, virtFetch (wsm 0x8000) 0 0 0x8000 64 = (.ok bs, s₁) ∧ descLegal (rowsOf s₁ 0) true bs (descOf bs) = true) ∧
    (let c : Company := { cmp1 with kids := [{ comp := 0, status := some 3 }] }
     ({ wsm 0 with comps := [(1, c)] } : State).comp 1 = some c ∧
       c.kids.find? (fun k => k.comp == (gVal (wfm 0) 33).toNat) = some { comp := 0, status := some 3 } ∧
       cmp1.kids.find? (fun k => k.comp == (gVal (wfm 0) 33).toNat) = none) ∧
    ws.ens wt.ens = some ens1 := by
  refine ⟨⟨at_wsm _, quiet_wsm _, rfl, by decide, by decide, by decide, ?_⟩, ⟨rfl, rfl, rfl⟩, rfl⟩
  obtain ⟨s₁, h, r⟩ := virtFetch_page (s := wsm 0x8000) (core := 0) (ctx := 0) (ea := 0x8000) (n := 64) (pa := 0x408000) (key := 0)
    (pm := false) (fun p h => by cases h) (by decide +kernel) (by decide) (by decide) rfl (by decide) (by decide +kernel)
  refine ⟨_, s₁, h, ?_⟩
  obtain ⟨_, _, _, _, _, rfl⟩ := r
  exact (by decide +kernel : descLegal (rowsOf (wsm 0x8000) 0) true (physList (wsm 0x8000) 0 0x408000 64)
    (descOf (physList (wsm 0x8000) 0 0x408000 64)) = true)

/-- `ld.s.b32` of the last word of the allocation; and a load of it at a port, taken in its cycle. -/
def por0 : PortItem :=
  { id := 0, present := 100, lane := 0, take := 100, word := 8191, due := 110, troupe := 0, gen := 0, thread := 0, ens := 1,
    act := .load 65532 2 0 3 [5] 65532 }

theorem witness_ScratchLoadsReadAllocation :
    (let s : State := { wsm 65532 with now := 96 }
     At s (wfm 65532) (wtm 65532) ∧ Plain (wtm 65532) ∧ FlagRoom (wfm 65532) (wtm 65532) ∧ StoresDone s 0 ∧
      s.now ≤ (wfm 65532).issue ∧ s.ens 1 = some ens1 ∧ (wtm 65532).handler = false ∧
      Reads1 (wfm 65532) (wtm 65532) 56 0 (fun _ => .plain 0) (wtm 65532).thread ∧
      ∀ i, Runs (wfm 65532) i → (((wtm 65532).thread i).queue 0).length + 1 ≤ 4 ∧
        (eaOf (wfm 65532) 0 false (.plain 0) 0 2).toNat % 4 = 0 ∧ (eaOf (wfm 65532) 0 false (.plain 0) 0 2).toNat + 4 ≤ 65536 * ens1.count) ∧
    (let s : State := { wsm 0 with cores := [(0, { Core.init with port := [por0] })] }
     portReady s = none ∧ s.waitQ = [] ∧ s.storeQ = [] ∧ portTaken s = some (0, por0) ∧ por0.act = .load 65532 2 0 3 [5] 65532 ∧
       (∀ k, k ∈ s.cores → ∀ y, y ∈ k.2.port → y.writes = false) ∧ scrBad s 0 65532 (2 ^ 2) = false ∧ s.troupe por0.troupe = some (wtm 0) ∧
       s.genOf por0.troupe = por0.gen ∧ (wtm 0).drains = false ∧ (wtm 0).threads.length = 16 ∧ por0.thread < 16 ∧ [5].Nodup ∧
       [5].length = (pushedWords 2 0).length) :=
  ⟨⟨⟨rfl, rfl, rfl⟩, plain_wtm _, room_wfm _, done_of rfl rfl (mem_one ⟨rfl, rfl⟩) rfl (mem_one rfl) (mem_one rfl), Nat.le_refl _, rfl, rfl, reads_z _,
   runs_zero rfl (by decide)⟩,
   ⟨rfl, rfl, rfl, rfl, rfl, mem_one (mem_one rfl), rfl, rfl, rfl, rfl, rfl, by decide, by decide, rfl⟩⟩

/-- `ld.g.b64` at 0x40 of the mapped pages, with no copy in the L1; at tile scope and, for the acquire, at device scope. -/
theorem witness_GlobalLoadsReadMemory :
    At (wsm 0x40) (wfm 0x40) (wtm 0x40) ∧ Plain (wtm 0x40) ∧ FlagRoom (wfm 0x40) (wtm 0x40) ∧ Alone (wfm 0x40) 0 ∧ Quiet (wsm 0x40) 0 ∧
      Reads1 (wfm 0x40) (wtm 0x40) 56 0 (fun _ => .plain 0) (wtm 0x40).thread ∧ (((wtm 0x40).thread 0).queue 0).length + 2 ≤ 4 ∧
      (eaOf (wfm 0x40) 0 false (.plain 0) 0 3).toNat % 8 = 0 ∧
      (∃ pm s₁, translateEa (wsm 0x40) 0 0 (eaOf (wfm 0x40) 0 false (.plain 0) 0 3) .read = (.ok 0x400040 0 pm, s₁)) ∧
      inBlocks 0x400040 = false ∧ l1Find (wsm 0x40) 0 (0x400040 / 128) 0 = none ∧ memFault (wsm 0x40) 0x400040 8 = none ∧
      wideScope (wsm 0x40) 0 0 (wfm 0x40).latch.scopesel.toNat = true :=
  ⟨at_wsm _, plain_wtm _, room_wfm _, alone_wfm _, quiet_wsm _, reads_z _, by decide, by decide, ⟨_, _, rfl⟩, by decide, rfl, by decide +kernel,
   by decide⟩

/-- The scratch window of tile 0 at offset 0x20: as the access is sent, and as its answer has come, for `ld.w` with its position
reserved at number 0. -/
def wtk : Troupe := (wtm 0x8000020).setThread 0 (((wtm 0x8000020).thread 0).setQueue 0 (spots 0 0 2))

theorem witness_ScratchWindowsReachNamedUnit :
    let g : Dword := 0x8000020
    At (wsm g) (wfm g) (wtm g) ∧ Plain (wtm g) ∧ (wfm g).acted = false ∧ Alone (wfm g) 0 ∧ Quiet (wsm g) 0 ∧
      Reads1 (wfm g) (wtm g) 56 0 (fun _ => .plain 0) (wtm g).thread ∧ (((wtm g).thread 0).queue 0).length + 1 ≤ 4 ∧
      (∃ th, readData (wfm g) 96 0 ((wtm g).thread 0) 2 2 = .ok (9, th)) ∧
      (eaOf (wfm g) 0 false (.plain 0) 0 2).toNat % 4 = 0 ∧
      (let ea : Dword := 0x8000020
       ea.extractLsb' 40 20 = 0 ∧ ea.getLsbD 27 = true) ∧
      (let f : Focus := { wfm g with acted := true, sent := [.ok 0 g 0], kept := some 0 }
       let s : State := { wsm g with focus := some f, troupes := [(0, wtk)] }
       At s f wtk ∧ StoresDone s 0 ∧ s.badScr = [] ∧ windowScratch s 0 0x8000020 = some (0, 0x20) ∧
         readSrc f s.now 0 (wtk.thread 0) 56 false = .ok (.plain 0, wtk.thread 0) ∧
         (∃ y, y ∈ (wtk.thread 0).queue 0 ∧ y.pos = .reserved (0 + 2 * 0)) ∧ (wtk.thread 0).queue 0 = [] ++ spots 0 0 2 ∧
         (∃ th, readData f s.now 0 (wtk.thread 0) 2 2 = .ok (9, th))) := by
  refine ⟨at_wsm _, plain_wtm _, rfl, alone_wfm _, quiet_wsm _, reads_z _, by decide, ⟨_, rfl⟩, by decide, by decide,
    ⟨rfl, rfl, rfl⟩, done_of rfl rfl (mem_one ⟨rfl, rfl⟩) rfl (mem_one rfl) (mem_one rfl), rfl, by decide, rfl, ⟨_, .head _, rfl⟩, rfl, ⟨_, rfl⟩⟩

/-- `st.s.b32 q2` at the last word of the allocation, whose slot answers, also as a uniform slot; and a store at a port whose cycle has
come. -/
def por1 : PortItem :=
  { id := 0, present := 90, lane := 0, take := 90, word := 8191, due := 100, troupe := 0, gen := 0, thread := 0, ens := 1,
    act := .store 65532 4 9 65532 }

theorem witness_ScratchStoresWriteTheirBytes :
    At (wsm 65532) (wfm 65532) (wtm 65532) ∧ Plain (wtm 65532) ∧ Alone (wfm 65532) 0 ∧ Quiet (wsm 65532) 0 ∧
      (wsm 65532).ens 1 = some ens1 ∧
      (∀ y : StF, storeCycle (wfm 65532) y 0 = 96) ∧
      readSrc (wfm 65532) 96 0 ((wtm 65532).thread 0) 56 false = .ok (.plain 0, (wtm 65532).thread 0) ∧
      (∃ th, readData (wfm 65532) 96 0 ((wtm 65532).thread 0) 2 2 = .ok (9, th)) ∧
      (eaOf (wfm 65532) 0 false (.plain 0) 0 2).toNat % 4 = 0 ∧ (eaOf (wfm 65532) 0 false (.plain 0) 0 2).toNat + 4 ≤ 65536 * ens1.count ∧
      ((wsm 65532).core 0).port = [] ∧ after (exec (.stS ⟨0, 2, 56, 0, 0, 0, 2⟩) (wsm 65532)) (fun _ => true) = true ∧
      (let s : State := { wsm 0 with cores := [(0, { Core.init with port := [por1] })] }
       s.memOk = true ∧ portReady s = some (0, por1) ∧ (s.core 0).port = [por1] ∧ por1.act = .store 65532 4 9 65532 ∧ s.storeQ = [] ∧
         s.badScr = []) :=
  ⟨at_wsm _, plain_wtm _, alone_wfm _, quiet_wsm _, rfl, fun y => by unfold storeCycle; split <;> rfl, rfl, ⟨_, rfl⟩, by decide, by decide, rfl,
   by decide, ⟨by decide, rfl, rfl, rfl, rfl, rfl⟩⟩

/-- A store on its way. -/
def sto1 : StoreItem :=
  { id := 0, troupe := 0, gen := 0, thread := 0, unit := 0, ctx := 0, ea := 0x78, pa := 0x400078, key := 0, size := 8, data := 9, nc := false,
    mca := false, due := 90 }

/-- `st.g.b32 q2` at 0x40; and a queue whose oldest store ends at the end of its line. -/
theorem witness_GlobalStoresQueueAndPerform :
    (At (wsm 0x40) (wfm 0x40) (wtm 0x40) ∧ Plain (wtm 0x40) ∧ Alone (wfm 0x40) 0 ∧ Quiet (wsm 0x40) 0 ∧
      readSrc (wfm 0x40) 96 0 ((wtm 0x40).thread 0) 56 false = .ok (.plain 0, (wtm 0x40).thread 0) ∧
      (∃ th, readData (wfm 0x40) 96 0 ((wtm 0x40).thread 0) 2 2 = .ok (9, th)) ∧ (eaOf (wfm 0x40) 0 false (.plain 0) 0 2).toNat % 4 = 0 ∧
      ∃ pm s₁, translateEa (wsm 0x40) 0 0 (eaOf (wfm 0x40) 0 false (.plain 0) 0 2) .write = (.ok 0x400040 0 pm, s₁)) ∧
    (let s : State := { wsm 0 with storeQ := [sto1, sto1] }
     s.memOk = true ∧ s.storeQ = sto1 :: [sto1] ∧ NoPorts s ∧ s.waitQ = [] ∧ inBlocks sto1.pa = false ∧ memFault s sto1.pa sto1.size = none ∧
       Held s sto1.key sto1.pa sto1.size) :=
  ⟨⟨at_wsm _, plain_wtm _, alone_wfm _, quiet_wsm _, rfl, ⟨_, rfl⟩, by decide, ⟨_, _, rfl⟩⟩,
   ⟨by decide, rfl, mem_one rfl, rfl, by decide, by decide +kernel, fun _ _ _ => rfl⟩⟩

/-- `atom.cas` of q2 with D = q4 on the word at 0x40, at device scope; and D = g1. -/
theorem witness_AtomicsUpdateTheirWord :
    (wsm 0x40).memOk = true ∧ At (wsm 0x40) (wfm 0x40) (wtm 0x40) ∧ Plain (wtm 0x40) ∧ FlagRoom (wfm 0x40) (wtm 0x40) ∧ Alone (wfm 0x40) 0 ∧
      Quiet (wsm 0x40) 0 ∧ readSrc (wfm 0x40) 96 0 ((wtm 0x40).thread 0) 56 false = .ok (.plain 0, (wtm 0x40).thread 0) ∧
      (∃ m, readSrc (wfm 0x40) 96 0 ((wtm 0x40).thread 0) 2 false = .ok (.narrow 9, m) ∧
        ∃ th, readSrc (wfm 0x40) 96 0 m 4 false = .ok (.narrow 5, th) ∧ (th.queue 4).length < 4) ∧
      ((wfm 0x40).latch.gread 8 + Operand.addr false (.plain 0)).toNat % 4 = 0 ∧
      (∃ pm s₁, translateEa (wsm 0x40) 0 0 ((wfm 0x40).latch.gread 8 + Operand.addr false (.plain 0)) .both = (.ok 0x400040 0 pm, s₁)) ∧
      0x400040 % 4 = 0 ∧ inBlocks 0x400040 = false ∧ memFault (wsm 0x40) 0x400040 4 = none ∧ Held (wsm 0x40) 0 0x400040 4 ∧
      wideScope (wsm 0x40) 0 0 (wfm 0x40).latch.scopesel.toNat = true :=
  ⟨by decide, at_wsm _, plain_wtm _, room_wfm _, alone_wfm _, quiet_wsm _, rfl, ⟨_, rfl, _, rfl, by decide⟩, by decide, ⟨_, _, rfl⟩, by decide,
   by decide, by decide +kernel, fun _ _ _ => rfl, by decide⟩

/-- A partial of `red.xor`, 64 cycles old. -/
def par1 : Partial :=
  { pa := 0x400040, key := 0, fn := 7, v := 3, by_ := [{ troupe := 0, gen := 0, thread := 0, ens := 1, ea := 0x40 }], first := 36 }

/-- A reduction on an empty buffer, on a partial of its word, and a partial that is due. -/
theorem witness_ReductionsCombineAndFlush :
    (At (wsm 0x40) (wfm 0x40) (wtm 0x40) ∧ Plain (wtm 0x40) ∧ Alone (wfm 0x40) 0 ∧ StoresDone (wsm 0x40) 0 ∧
      readSrc (wfm 0x40) 96 0 ((wtm 0x40).thread 0) 56 false = .ok (.plain 0, (wtm 0x40).thread 0) ∧
      (∃ th, readSrc (wfm 0x40) 96 0 ((wtm 0x40).thread 0) 2 false = .ok (.narrow 9, th)) ∧
      (∃ pm s₁, translateEa (wsm 0x40) 0 0 ((wfm 0x40).latch.gread 8 + Operand.addr false (.plain 0)) .write = (.ok 0x400040 0 pm, s₁)) ∧
      inBlocks 0x400040 = false ∧ wideScope (wsm 0x40) 0 0 (wfm 0x40).latch.scopesel.toNat = true ∧ ((wsm 0x40).tile 0).partials = []) ∧
    (let s : State := { wsm 0x40 with units := [(0, { TileUnit.init with partials := [par1] })] }
     At s (wfm 0x40) (wtm 0x40) ∧ StoresDone s 0 ∧ (s.tile 0).partials = [par1] ∧ par1.pa = 0x400040 ∧ par1.key = 0 ∧ par1.fn = 7 ∧
       s.memOk = true ∧ par1.first + 64 ≤ s.now ∧ par1.fn < 10 ∧ memFault s par1.pa 4 = none ∧ Held s par1.key par1.pa 4) :=
  ⟨⟨at_wsm _, plain_wtm _, alone_wfm _, done_wsm _, rfl, ⟨_, rfl⟩, ⟨_, _, rfl⟩, by decide, by decide, rfl⟩,
   ⟨⟨rfl, rfl, rfl⟩, done_of rfl rfl (mem_one ⟨rfl, rfl⟩) rfl (mem_one rfl) (mem_one rfl), rfl, rfl, rfl, rfl, by decide, by decide, by decide, by decide +kernel,
    fun _ _ _ => rfl⟩⟩

/-- A transfer in flight into scratch, of 20 bytes of 32. -/
def cop1 : CopyOp :=
  { troupe := 0, gen := 0, op := 1, ens := 1, threads := [0], tag := 2, toScratch := true, ga := 0x40, sa := 0, pa := 0x400040, key := 0,
    off := 0, size := 32, count := 20 }

/-- `cpy` of 9 bytes from 0x40, with the scratch address 0; and the transfer as it performs. -/
theorem witness_TransfersCountAndMoveBytes :
    (At (wsm 0x40) (wfm 0x40) (wtm 0x40) ∧ Plain (wtm 0x40) ∧ FlagRoom (wfm 0x40) (wtm 0x40) ∧ Alone (wfm 0x40) 0 ∧ Quiet (wsm 0x40) 0 ∧
      (wsm 0x40).ens 1 = some ens1 ∧ readSrc (wfm 0x40) 96 0 ((wtm 0x40).thread 0) 56 false = .ok (.plain 0, (wtm 0x40).thread 0) ∧
      (∃ m, readSrc (wfm 0x40) 96 0 ((wtm 0x40).thread 0) 2 false = .ok (.narrow 9, m) ∧
        readSrc (wfm 0x40) 96 0 m 56 false = .ok (.plain 0, m)) ∧ (((wtm 0x40).thread 0).tag 3).n < 63 ∧ (Operand.narrow 9).lo.toNat ≠ 0 ∧
      ((wfm 0x40).latch.gread 8 + Operand.addr false (.plain 0)).toNat % 32 = 0 ∧
      (Operand.addr false (.plain 0)).toNat + 32 ≤ 65536 * ens1.count ∧
      (∃ pm s₁, translateEa (wsm 0x40) 0 0 ((wfm 0x40).latch.gread 8 + Operand.addr false (.plain 0)) .write = (.ok 0x400040 0 pm, s₁)) ∧
      (∃ pm s₁, translateEa (wsm 0x40) 0 0 ((wfm 0x40).latch.gread 8 + Operand.addr false (.plain 0)) .read = (.ok 0x400040 0 pm, s₁))) ∧
    ((wsm 0).troupe cop1.troupe = some (wtm 0) ∧ (wtm 0).threads.length = 16 ∧ (wsm 0).genOf cop1.troupe = cop1.gen ∧ cop1.threads = [0] ∧
      ((wsm 0).tile 0).partials = [] ∧ (wsm 0).badScr = [] ∧ 0 < cop1.count ∧ cop1.count ≤ cop1.size ∧ inBlocks cop1.pa = false ∧
      memFault (wsm 0) cop1.pa cop1.count = none ∧ Held (wsm 0) cop1.key cop1.pa cop1.count) :=
  ⟨⟨at_wsm _, plain_wtm _, room_wfm _, alone_wfm _, quiet_wsm _, rfl, rfl, ⟨_, rfl, rfl⟩, by decide, by decide, by decide, by decide,
    ⟨_, _, rfl⟩, ⟨_, _, rfl⟩⟩,
   ⟨rfl, rfl, rfl, rfl, rfl, rfl, by decide, by decide, by decide, by decide +kernel, fun _ _ _ => rfl⟩⟩

/-- No transfer outstanding; one; and none, with a failure (WINDOW_ABSENT at 9) recorded. -/
theorem witness_TagSlotsWaitAndCount :
    (At ws wf wt ∧ wf.run ≠ 0 ∧ (∀ i, Runs wf i → (wt.thread i).tag 3 = { n := 0, err := none }) ∧ HasRoom wf 0 1 wt.thread) ∧
    (let t : Troupe := { wt with threads := List.replicate 16 { thr 1 9 3 with tags := [(3, { n := 1, err := none })] } }
     At (at_ t 1) (foc t 1) t ∧ Runs (foc t 1) 0 ∧ ((t.thread 0).tag 3).n ≠ 0) ∧
    (let t : Troupe := { wt with threads := List.replicate 16 { thr 1 9 3 with tags := [(3, { n := 0, err := some (0x0108, 9) })] } }
     At (at_ t 1) (foc t 1) t ∧ PlainTrap (foc t 1) t ∧ (foc t 1).run ≠ 0 ∧ (∀ i, Runs (foc t 1) i → ((t.thread i).tag 3).n = 0) ∧ (1 : BitVec 16) ≠ 0 ∧
       (∀ i, i < 16 → (1 : BitVec 16).getLsbD i = ((foc t 1).run.getLsbD i && ((t.thread i).tag 3).err.isSome)) ∧
       (t.thread (leaderOf 1)).tag 3 = { n := 0, err := some (0x0108, 9) } ∧ (0x0108 : Nat) < 65536) :=
  ⟨⟨at_ws, by decide, runs_zero rfl rfl, runs_zero rfl (fun _ => by decide)⟩, ⟨⟨rfl, rfl, rfl⟩, ⟨by decide, by decide⟩, by decide⟩,
   ⟨⟨rfl, rfl, rfl⟩, ⟨rfl, rfl, by decide⟩, by decide, runs_zero rfl rfl, by decide, by decide, by decide, by decide⟩⟩

/-- Wide and narrow scopes, with nothing before; and a store that `mark` and `st.g.rel` find queued. -/
theorem witness_FencesDrainAndAcquire :
    (At ws wf wt ∧ wf.run ≠ 0 ∧ Quiet ws 0 ∧ wideScope ws 0 0 2 = true ∧ wideScope ws 0 0 4 = true ∧ wideScope ws 0 0 1 = false ∧
      wideScope ws 0 0 31 = false ∧ GOrZ 56) ∧
    (let s : State := { wsm 0x40 with storeQ := [sto1] }
     At s (wfm 0x40) (wtm 0x40) ∧ (wfm 0x40).run ≠ 0 ∧ s.storeQ = [sto1] ∧ (s.tile 0).partials = [] ∧ sto1.troupe = (wfm 0x40).troupe ∧
       sto1.gen = s.genOf 0 ∧ sto1.thread < 16 ∧ Plain (wtm 0x40) ∧ Alone (wfm 0x40) 0 ∧ sto1.thread = 0 ∧
       readSrc (wfm 0x40) 96 0 ((wtm 0x40).thread 0) 56 false = .ok (.plain 0, (wtm 0x40).thread 0) ∧
       (∃ th, readData (wfm 0x40) 96 0 ((wtm 0x40).thread 0) 2 2 = .ok (9, th)) ∧ (eaOf (wfm 0x40) 0 false (.plain 0) 0 2).toNat % 4 = 0 ∧
       ∃ pm s₁, translateEa s 0 0 (eaOf (wfm 0x40) 0 false (.plain 0) 0 2) .write = (.ok 0x400040 0 pm, s₁)) :=
  ⟨⟨at_ws, by decide, quiet_ws, by decide, by decide, by decide, by decide, .inr rfl⟩,
    ⟨⟨rfl, rfl, rfl⟩, by decide, rfl, rfl, rfl, rfl, by decide, plain_wtm _, alone_wfm _, rfl, rfl, ⟨_, rfl⟩, by decide, ⟨_, _, rfl⟩⟩⟩

/-- Ensemble 1 with one barrier and one semaphore set as given, and a second ensemble of its company. -/
def bar1 (b : Bar) : Ensemble := { ens1 with bars := [(1, b)] }
def sem1 (m : Sem) : Ensemble := { ens1 with sems := [(1, m)] }
def ens2 : Ensemble := { ens1 with linear := 1, base := 1, troupes := [] }
def wse (t : Troupe) (e : Ensemble) : State := { at_ t 1 with enss := [(1, e), (2, ens2)], comps := [(1, { cmp1 with total := 2 })] }

theorem joins_two (e : Ensemble) (h : e.joins = []) : ∀ q, q ∈ [(1, e), (2, ens2)] → q.2.joins = [] := by
  intro q hq
  simp only [List.mem_cons, List.not_mem_nil, or_false] at hq
  rcases hq with rfl | rfl
  · exact h
  · rfl

theorem quiet_wse (t : Troupe) (e : Ensemble) (h : e.joins = []) (hs : t.spec.held = []) : Quiet (wse t e) 0 :=
  ⟨done_of rfl rfl (fun p h => by cases h) rfl (joins_two e h) (mem_one hs), rfl⟩

/-- Barrier 1, the last of the allotment: without a home and with one; recorded and not; before and at the last arrival; and index
2, the first beyond it. -/
theorem witness_BarriersCountArrivals :
    (∀ t b, t.threads.length = 16 → t.spec.held = [] → At (wse t (bar1 b)) (foc t 1) t ∧ Quiet (wse t (bar1 b)) 0) ∧ Plain wt ∧ wf.run ≠ 0 ∧ wf.acted = false ∧
      (∀ b, HasBar (wse wt (bar1 b)) wt 1 (bar1 b) b) ∧
      (let b : Bar := { Bar.init 1 with link := some (1, 0) }
       b.link = some (1, 0) ∧ (wse wt (bar1 b)).ensAt (bar1 b).comp 1 = some (2, ens2)) ∧
      (let r : BarTag := { arrived := true, tag := 0 }
       kget { arrived := false, tag := 0 } [(1, r)] 1 = r ∧ (Bar.init 1).phases = r.tag ∧ ({ Bar.init 1 with phases := 1 } : Bar).phases ≠ r.tag) ∧
      (Bar.init 1).e ≤ (Bar.init 1).arr + 1 ∧ (Bar.init 2).arr + 1 < (Bar.init 2).e ∧
      GOrZ 56 ∧ UName 61 ∧ UName 32 ∧ (wse wt ens1).comp 1 = some { cmp1 with total := 2 } ∧
      (wse wt ens1).ens 1 = some ens1 ∧ ens1.desc.barriers ≤ (2#6).toNat ∧ PlainTrap wf wt := by
  refine ⟨fun t b h hs => ⟨⟨rfl, rfl, h⟩, quiet_wse _ _ rfl hs⟩, ⟨rfl, rfl⟩, by decide, rfl, fun b => ⟨rfl, by show (1 : Nat) < 2; decide, rfl⟩, ⟨rfl, rfl⟩,
    ⟨rfl, rfl, by decide⟩, by decide, by decide, .inr rfl, .inr rfl, .inl (.inl (by decide)), rfl, rfl, by decide, rfl, rfl, by decide⟩

/-- The values of `bar.count` and `bar.link` at which their clauses part. -/
theorem witness_BarrierFields :
    (4096 : Nat) < 4097 ∧ ¬ (4096 : Nat) < 4096 ∧ (2 ^ 22 - 1) / 2 ^ 22 = 0 ∧ 2 ^ 22 / 2 ^ 22 ≠ 0 ∧
      (let v : Dword := 0x100000000
       v.toNat / 2 ^ 37 = 0 ∧ v.toNat % 2 ^ 32 < 2 ∧ v.toNat % 2 ^ 32 = ens1.linear ∧ v.toNat / 2 ^ 32 % 32 = 1) ∧
      (let v : Dword := 1
       v.toNat / 2 ^ 37 = 0 ∧ v.toNat % 2 ^ 32 < 2 ∧ v.toNat % 2 ^ 32 ≠ ens1.linear ∧ (wse wt ens1).ensAt 1 1 = some (2, ens2)) ∧
      (let s : State := { wse wt ens1 with enss := [(1, ens1)] }
       s.ensAt 1 1 = none) := by
  refine ⟨by decide, by decide, by decide, by decide, by decide, ⟨by decide, by decide, by decide, rfl⟩, rfl⟩

/-- Semaphore 1, the last of the allotment, and 2, the first beyond it; `semwait` at its COUNT and off it; PENDING at both ends of its
range; ARR and EXPECT at 65,535. -/
theorem witness_SemaphoresCountPhases :
    (∀ g m, At (wse { wt with g := g } (sem1 m)) (foc { wt with g := g } 1) { wt with g := g } ∧ Quiet (wse { wt with g := g } (sem1 m)) 0 ∧
      (wse { wt with g := g } (sem1 m)).ens 1 = some (sem1 m) ∧ kget Sem.init (sem1 m).sems 1 = m) ∧
      Plain wt ∧ wf.run ≠ 0 ∧ wf.k < 8 ∧ wf.acted = false ∧ GOrZ 32 ∧ UName 33 ∧ UName 34 ∧
      (let a : Dword := 1
       gVal (foc { wt with g := [(1, a)] } 1) 33 = a ∧ a.toNat % 256 < ens1.desc.sems ∧ a.toNat / 2 ^ 8 = 0 ∧ a.toNat / 2 ^ 13 = 0 ∧
         Sem.init.ovf = false ∧ Sem.init.count.toNat = a.toNat / 2 ^ 32 ∧ ({ Sem.init with count := 1 } : Sem).count.toNat ≠ a.toNat / 2 ^ 32) ∧
      ens1.desc.sems ≤ (2 : Dword).toNat % 256 ∧
      (let b : Nat := 2 ^ 31 - 1
       Fits (0 + b) ∧ ¬ Fits (1 + b) ∧ Fits (-1 - b) ∧ ¬ Fits (-2 - b)) ∧ (65534 : Nat) < 65535 ∧ 65535 < (65535 : Nat) + 1 ∧
      (let a : Dword := 0x100000101
       a.getLsbD 8 = true ∧ a.toNat / 2 ^ 9 % 2 ^ 23 = 0 ∧
         a.toNat / 2 ^ 32 = 1) ∧
      (∀ n, let f : Focus := { wf with acted := true, answer := some (0, n) }
        let s : State := { wse wt ens1 with focus := some f }
        At s f wt ∧ Quiet s 0 ∧ s.ens wt.ens = some ens1 ∧ f.acted = true ∧ f.answer = some (0, n)) := by
  refine ⟨fun g m => ⟨⟨rfl, rfl, rfl⟩, quiet_wse _ _ rfl rfl, rfl, rfl⟩, ⟨rfl, rfl⟩, by decide, by decide, rfl, .inl (by decide), .inl (.inl (by decide)),
    .inl (.inl (by decide)), by decide, by decide, ?_, by decide, by decide, by decide,
    fun n => ⟨⟨rfl, rfl, rfl⟩, ⟨done_of rfl rfl (fun p h => by cases h) rfl (joins_two ens1 rfl) (mem_one rfl), rfl⟩, rfl, rfl, rfl⟩⟩
  simp [Fits]

/-- An ensemble there; one swapped out, with a shell; a remote arrival at ensemble 2 and at none. -/
theorem witness_SyncEventsCountAtTheirTarget :
    (wse wt ens1).ens 1 = some ens1 ∧
      (let h : Shell := { slice := 0, ctx := 0, comp := 1, linear := 0, idx := 1, bar := Bar.init 1 }
       let v : SavedEns :=
         { ens := ens1, troupes := [], scratch := [], banks := [], holds := [], ops := [], tracked := [], first := 0, units := 1, since := 0,
           ready := none }
       let s : State := { ws with enss := [], saved := [(1, v)], shells := [h] }
       s.ensKept 1 = none ∧ kfind s.saved 1 = some v ∧ s.shells = [h] ∧ h.ctx = v.ens.ctx ∧ h.comp = v.ens.comp ∧ h.linear = v.ens.linear ∧
         h.idx = 1) ∧
      (wse wt ens1).ensAt 1 1 = some (2, ens2) ∧ (wse wt ens1).ens 2 = some ens2 ∧ (1 : Nat) < ens2.desc.sems ∧ Fits (Sem.init.pending - 4) ∧
      Sem.init.arr < 65535 ∧ ¬ Fits (-2 ^ 31 - 1) ∧ (wse wt ens1).ensAt 1 2 = none ∧ ens2.desc.sems ≤ 2 ∧
      (let h : Hold := { focus := { wf with acted := true }, wait := .until 120 }
       kfind ({ ws with holds := [(0, h)] } : State).holds 0 = some h ∧ h.focus.acted = true ∧ h.focus.answer = none) := by
  refine ⟨rfl, ⟨rfl, rfl, rfl, rfl, rfl, rfl, rfl⟩, rfl, rfl, by decide, ?_, by decide, ?_, rfl, by decide, rfl, rfl, rfl⟩
  · simp [Fits, Sem.init]
  · simp [Fits]

/-- The section of key 9 (the word in q2), with E = 3 (the word in q3) unless changed. -/
def sec1 : Section :=
  { ctx := 0, key := 9, e := 3, held := false, holder := 0, abandoned := false, gapStart := none, spilled := none }
def wso (l : List Section) : State := { ws with sections := l }

theorem ordAlone_wso (e : Section) (h : e.spilled = none) : OrdAlone (wso [e]) wf wt 0 :=
  ⟨⟨rfl, rfl, rfl⟩, ⟨rfl, rfl⟩, ⟨by decide, rfl⟩, rfl, fun x hx _ => by
    cases hx with
    | head => exact h
    | tail _ h => cases h⟩

/-- No entry and one; held by nobody, by the troupe itself and by another; E equal to the number, behind it and ahead of it by 2^31;
abandoned; and a wait that closes no cycle and one that does. -/
theorem witness_OrderedSectionsGrantInSequence :
    (∃ th, readSrc wf 96 0 ((thr 1 9 3).drop 2) 3 false = .ok (.narrow 3, th)) ∧ readSrc wf 96 0 (wt.thread 0) 2 false = .ok (.narrow 9, p1 0) ∧
      ((p1 0).queue 0).length < 4 ∧ findSection (wso []) 0 9 = none ∧ (wso []).sections.length < ((wso []).ctx 0).osquota.toNat ∧
      (∀ e : Section, e.ctx = 0 → e.key = 9 → findSection (wso [e]) 0 9 = some e) ∧ hasWaiter (wso [sec1]) 0 9 = false ∧ PlainTrap wf wt ∧
      wf.resuming = false ∧ (3 : Word) = sec1.e ∧ 2 ^ 31 ≤ (3 - 0x80000003 : Word).toNat ∧ (3 : Word) ≠ 2 ∧ (3 - 2 : Word).toNat < 2 ^ 31 ∧
      (3 - 0x80000004 : Word).toNat < 2 ^ 31 ∧
      (let mine : Section := { sec1 with held := true, holder := holderOf ws 0 0 }
       heldByTroupe (wso [mine]) 0 mine = true ∧ mine.owner = wf.troupe ∧ mine.holder = holderOf (wso [mine]) 0 0 ∧ sec1.holder ≠ 1) ∧
      (let other : Section := { sec1 with e := 2, held := true, holder := 2048, owner := 1 }
       heldByTroupe (wso [other]) 0 other = false ∧ closesCycle (wso [other]) 0 0 [9] = false ∧ other.holder ≠ holderOf (wso [other]) 0 0 ∧
       (let s : State := { wso [other, { sec1 with key := 7, held := true, holder := holderOf ws 0 0 }] with
                           troupes := [(0, wt), (1, wt)], holds := [(1, { focus := { wf with troupe := 1 }, wait := .osenter [(0, 7, 9)] })] }
        closesCycle s 0 0 [9] = true)) ∧ Quiet (wso [sec1]) 0 := by
  refine ⟨⟨_, rfl⟩, rfl, by decide, rfl, by decide, ?_, rfl, ⟨rfl, rfl, by decide⟩, rfl, rfl, by decide, by decide, by decide, by decide,
    by decide, by decide, ⟨done_of rfl rfl (fun p h => by cases h) rfl (mem_one rfl) (mem_one rfl), rfl⟩⟩
  intro e hc hk
  simp [findSection, wso, hc, hk]

/-- A tile copy of 4 bytes inside the allocation, with its done record at virtual 0x9000. -/
def cwords : List Word := [0, 0x9000, 0, 7, 0, 0, 64, 0, 4, 1, 0, 0, 5, 0, 0, 0]
def cmd1 : Cmd :=
  { id := 0, words := cwords, ens := 1, ctx := 0, troupe := 0, gen := 0, slot := 0, promise := 90, due := 90, donePa := 0x409000,
    doneKey := 0, performed := false, status := 0, fault := 0, bytes := 0, broken := false }

/-- A thread that holds a command in q0 to q15. -/
def thrCmd (ws : List Word) : Thread := { Thread.init with qs := ws.zipIdx.map (fun w => (w.2, [⟨.filled w.1 false, false, false⟩])) }

/-- A command whose words keep their limits and whose DONE translates is accepted. -/
theorem accept_of {s : State} {tk : Nat} {t : Troupe} {e issue pa key p : Nat} {ws : List Word} {pm : Bool} (h1 : wordsOk s tk t e ws = true)
    (h2 : (walkTranslate s (coreOf tk) t.ctx (BitVec.ofNat 64 (wordPair ws 1)) .write).1 = .ok pa key pm)
    (h3 : promiseOf s (coreOf tk) t.comp e issue ws = some p) (h4 : ¬ issue + 2 ^ 30 < p) : ∃ k, (acceptCmd s tk t e issue ws).1 = some k := by
  unfold acceptCmd
  simp only [h1, h2, h3, h4, Bool.not_true, Bool.false_eq_true, if_false]
  exact ⟨_, rfl⟩

/-- Engine 2 does not serve a tile; a full queue; a command that is accepted and one that is not; `sleepto` at its cycle, before it, and
at a refusal value. -/
theorem witness_EngineSlotsQueueCommands :
    (let t (l : List Word) : Troupe := { wtm 0 with threads := List.replicate 16 (thrCmd l) }
     let s (l : List Word) (q : Nat) : State :=
       { wsm 0 with troupes := [(0, t l)], focus := some (foc (t l) 1), cores := [(0, { Core.init with engines := [(0, List.replicate q cmd1)] })] }
     (∀ q, At (s cwords q) (foc (t cwords) 1) (t cwords) ∧ Quiet (s cwords q) 0) ∧ Plain (t cwords) ∧
       FlagRoom (foc (t cwords) 1) (t cwords) ∧ (foc (t cwords) 1).answer = none ∧ serves 0 2 = false ∧ serves 0 0 = true ∧
       16 ≤ (((s cwords 16).core 0).engine 0).length ∧ (((s cwords 15).core 0).engine 0).length < 16 ∧
       HasRoom (foc (t cwords) 1) 56 1 (fun _ => (t cwords).thread 0) ∧
       (∃ lead, readSixteen 96 ((t cwords).thread 0) 0 false 16 = .ok (cwords, lead)) ∧
       (∃ k, (acceptCmd (openOp (s cwords 15) (foc (t cwords) 1) (selectFlag (s cwords 15) (foc (t cwords) 1) false)).2 0 (t cwords) 0 96 cwords).1 = some k) ∧
       (let bad : List Word := 255 :: cwords.tail
        let s' := (openOp (s bad 15) (foc (t bad) 1) (selectFlag (s bad 15) (foc (t bad) 1) false)).2
        (∃ lead, readSixteen 96 ((t bad).thread 0) 0 false 16 = .ok (bad, lead)) ∧ wordsOk s' 0 (t bad) 0 bad = false ∧
          (acceptCmd s' 0 (t bad) 0 96 bad).1 = none) ∧
       (∀ y, y ∈ ((s cwords 0).core 0).engine 0 → y.performed = true) ∧ awaitsPeers (s cwords 0) 0 cwords = false) ∧
    (At ws wf wt ∧ FlagRoom wf wt ∧ wf.answer = none ∧ wt.late = [] ∧ overdue ws 0 = [] ∧ readSrc wf 96 0 (wt.thread 0) 2 false = .ok (.narrow 9, p1 0) ∧
      (BitVec.ofNat 32 ws.now - 9 : Word).toNat < 2 ^ 31 ∧ (BitVec.ofNat 32 ws.now - 100 : Word).toNat < 2 ^ 31 ∧
      (101 : Word).toNat < 0xFFFFFFFD ∧ ¬ (BitVec.ofNat 32 ws.now - 101 : Word).toNat < 2 ^ 31 ∧ 0xFFFFFFFD ≤ (0xFFFFFFFD : Word).toNat ∧
      HasRoom wf 56 1 wt.thread ∧ ((ws.core 0).engine 0).length ≤ 16) := by
  refine ⟨⟨fun q => ⟨⟨rfl, rfl, rfl⟩, done_of rfl rfl (mem_one ⟨rfl, rfl⟩) rfl (mem_one rfl) (mem_one rfl), rfl⟩, ⟨rfl, rfl⟩,
      ⟨rfl, by show ∀ c, c < 12 → (0 : Nat) < 63; decide⟩, rfl, by decide, by decide, by decide, by decide,
      runs_zero rfl (fun h => absurd h (by decide)), ⟨_, rfl⟩, ?_, ⟨⟨_, rfl⟩, by decide +kernel, by decide +kernel⟩, fun y h => (by cases h), by decide⟩,
    ⟨at_ws, ⟨rfl, by show ∀ c, c < 12 → (0 : Nat) < 63; decide⟩, rfl, rfl, by decide, rfl, by decide, by decide, by decide, by decide, by decide,
      runs_zero rfl (fun h => absurd h (by decide)), by decide⟩⟩
  refine accept_of (pa := 0x409000) (key := 0) (pm := false) (by decide +kernel) ?_ rfl (by decide +kernel)
  rw [(walkTranslate_answer (fun p h => by cases h) _ _ _ _).1]
  decide +kernel

/-- A timetable without a slip ring. -/
def ttNoRing : Timetable :=
  { addr := 0x100, rev := 64, steps := [], deadline := 100, margin := 0, place := [], mesh := [], bridge := [], slipOff := 0, slipCap := 0,
    slipCnt := 0, frame := 0, start := 0, step := 0, released := false, held := false, dropped := [], switched := [], done := [],
    finished := false, missed := false, overrun := false, admitted := true, waiting := false, phases := [], zero := 0 }

/-- The tile copy of 4 bytes in its core's turn, whole, and one of 300 at its first and its last piece; a source one byte beyond the
allocation; a stream of 4 bytes to the window of tile 0. -/
theorem witness_CopyEnginesMoveBytes :
    let s (e : Nat) (c : Cmd) : State :=
      { ws with cores := [(0, { Core.init with engines := [(e, [c])] })], parts := [(0, { running := true, ctx := 0, rows := 1, refused := none, holds := [] })] }
    (s 0 cmd1).ens cmd1.ens = some ens1 ∧ (s 0 cmd1).badScr = [] ∧ Waiting (s 0 cmd1) 0 0 cmd1 ∧ Waiting (s 1 cmd1) 0 1 cmd1 ∧
      unitServes (s 0 cmd1) 0 0 = true ∧ engineTurn (s 0 cmd1) 0 0 = 0 ∧ engineTurn (s 1 cmd1) 1 0 = 0 ∧
      wordN cwords 9 = 1 ∧ wordN cwords 12 = 5 ∧ cmd1.bytes < wordN cwords 8 ∧ wordPair cwords 4 + wordN cwords 8 ≤ 65536 * ens1.count ∧
      wordPair cwords 6 + wordN cwords 8 ≤ 65536 * ens1.count ∧ 65536 * ens1.count < 2 ^ 63 ∧ wordN cwords 8 ≤ cmd1.bytes + min 256 (4 - cmd1.bytes) ∧
      (let long : List Word := [0, 0x9000, 0, 7, 0, 0, 512, 0, 300, 1, 0, 0, 5, 0, 0, 0]
       ¬ wordN long 8 ≤ 0 + min 256 (300 - 0) ∧ wordN long 8 ≤ 256 + min 256 (300 - 256) ∧ 256 < wordN long 8) ∧
      65536 * ens1.count ≤ wordPair [0, 0x9000, 0, 7, 65536, 0, 64, 0, 4, 1, 0, 0, 5] 4 + cmd1.bytes ∧
      (let c : Cmd := { cmd1 with words := [0, 0x9000, 0, 7, 65532, 0, 0x8000000, 0, 4] }
       Waiting (s 2 c) 0 2 c ∧ engineTurn (s 2 c) 2 0 = 0 ∧ ttOf (s 2 c) ens1.comp = none ∧ c.bytes < wordN c.words 8 ∧
         wordN c.words 4 + wordN c.words 8 ≤ 65536 * ens1.count ∧ wordPair c.words 6 % 8 = 0 ∧ c.bytes % 8 = 0 ∧ wordPair c.words 6 + wordN c.words 8 < 2 ^ 40 ∧
         ∀ k, k < wordN c.words 8 → isScratchWindow (wordPair c.words 6 + k) = true ∧
           windowScratch (s 2 c) c.ctx (wordPair c.words 6 + k) = some (0, 0 + k)) := by
  refine ⟨rfl, rfl, ⟨rfl, rfl⟩, ⟨rfl, rfl⟩, by decide, by decide, by decide, by decide, by decide, by decide, by decide, by decide, by decide, by decide,
    by decide, by decide, ⟨rfl, rfl⟩, by decide, rfl, by decide, by decide, by decide, by decide, by decide, by decide⟩

/-- A collective of one i32 over the domain, alone, from its root and from another, and with a peer that agrees and one that does not; a
present of one pixel, as it performs and as it completes; a command that has performed, and one whose promise has passed. -/
theorem witness_EngineCommandsComplete :
    let s (e : Nat) (c : Cmd) : State := { wsm 0 with cores := [(0, { Core.init with engines := [(e, [c])] })] }
    (let w (root : Word) : List Word := [0, 0x9000, 0, 7, 0x8000, 0, 0xA000, 0, 1, 2, 4, root, 5]
     (∀ r, Waiting (s 3 { cmd1 with words := w r }) 0 3 { cmd1 with words := w r }) ∧ wordN (w 0) 10 = 4 ∧
       (s 3 { cmd1 with words := w 0 }).mgmt.drained = [] ∧ (s 3 { cmd1 with words := w 0 }).mgmt.member = false ∧ wordN (w 0) 9 = 2 ∧
       wordN (w 0) 11 = ws.mgmt.deviceNo.toNat ∧ wordN (w 1) 11 ≠ ws.mgmt.deviceNo.toNat ∧
       (∃ bs s₁, virtFetch (s 3 { cmd1 with words := w 0 }) 0 0 0x8000 4 = (.ok bs, s₁) ∧
         ∀ v : Word, (virtWrite s₁ 0 0 0xA000 (elementBytes (w 0) [v])).1 = none) ∧
       (let p : Peer := { device := 1, op := 0, ty := 2, red := 0, group := 4, seq := 5, count := 1, data := [8] }
        p.group = 4 ∧ p.seq = (w 0).getD 12 0 ∧ p.device ≠ ws.mgmt.deviceNo.toNat ∧ p.op = cmdOp (w 0) ∧
          p.ty = wordN (w 0) 9 % 4 ∧ p.red = wordN (w 0) 9 / 16 ∧ p.count = 1 ∧ ¬ ({ p with count := 2 } : Peer).count = 1)) ∧
    (let c : Cmd := { cmd1 with words := [0, 0x9000, 0, 7, 0x8000, 0, 0x10001, 0, 3, 0] }
     Waiting (s 5 c) 0 5 c ∧
       ∃ bs s₁, virtFetch (s 5 c) 0 0 (wordPair c.words 4) (4 * (wordN c.words 6 % 65536) * (wordN c.words 6 / 65536)) = (.ok bs, s₁)) ∧
    (let img : Image := { width := 1, height := 1, format := 0, pixels := [7] }
     let c : Cmd := { cmd1 with words := [0, 0x9000, 0, 7, 0x8000, 0, 0x10001, 0, 3, 0], performed := true, image := some img }
     ((s 5 c).core 0).engine 5 = [c] ∧ c.performed = true ∧ c.status = 0 ∧ c.image = some img ∧ wordN c.words 0 / 256 % 2 = 0 ∧ inBlocks c.donePa = false) ∧
    (let c : Cmd := { cmd1 with performed := true, status := 7 }
     ((s 3 c).core 0).engine 3 = [c] ∧ c.performed = true ∧ wordN c.words 0 / 256 % 2 = 0 ∧ (3 : Nat) ≠ 5 ∧
       ((s 3 c).tile (noCore / 4)).partials = [] ∧ inBlocks c.donePa = false ∧ memFault (s 3 c) c.donePa 16 = none ∧
       Held (s 3 c) c.doneKey c.donePa 16 ∧ c.status < 8) ∧
    (((s 3 cmd1).core 0).engine 3 = [cmd1] ∧ cmd1.broken = false ∧ cmd1.promise < (s 3 cmd1).now ∧ (s 3 cmd1).troupe 0 = some (wtm 0) ∧
      (s 3 cmd1).genOf 0 = cmd1.gen ∧ (wtm 0).ctx = cmd1.ctx ∧ (wtm 0).late = [] ∧ kfind (s 3 cmd1).holds 0 = none ∧ (wtm 0).wait = none) := by
  refine ⟨⟨fun r => ⟨rfl, rfl⟩, by decide, rfl, rfl, by decide, by decide, by decide, ?_, by decide⟩, ⟨⟨rfl, rfl⟩, ?_⟩,
    ⟨rfl, rfl, rfl, rfl, by decide, by decide⟩,
    ⟨rfl, rfl, by decide, by decide, rfl, by decide, by decide +kernel, fun _ _ _ => rfl, by decide⟩,
    ⟨rfl, rfl, by decide, rfl, rfl, rfl, rfl, rfl, rfl⟩⟩
  · obtain ⟨s₁, h, r⟩ := virtFetch_page
      (s := { wsm 0 with cores := [(0, { Core.init with engines := [(3, [{ cmd1 with words := [0, 0x9000, 0, 7, 0x8000, 0, 0xA000, 0, 1, 2, 4, 0, 5] }])] })] })
      (core := 0) (ctx := 0) (ea := 0x8000) (n := 4) (pa := 0x408000) (key := 0)
      (pm := false) (fun p h => by cases h) (by decide +kernel) (by decide) (by decide) rfl (by decide) (by decide +kernel)
    exact ⟨_, s₁, h, fun v => r.virtWrite_page (pa := 0x40A000) (key := 0) (pm := false) (fun p h => by cases h) (by decide +kernel) rfl
      (by show 0xA000 % 4096 + 4 ≤ 4096; decide) (by decide) (by show memFault _ _ 4 = none; decide +kernel)⟩
  · obtain ⟨s₁, h, r⟩ := virtFetch_page
      (s := { wsm 0 with cores := [(0, { Core.init with engines := [(5, [{ cmd1 with words := [0, 0x9000, 0, 7, 0x8000, 0, 0x10001, 0, 3, 0] }])] })] })
      (core := 0) (ctx := 0) (ea := 0x8000) (n := 4) (pa := 0x408000) (key := 0)
      (pm := false) (fun p h => by cases h) (by decide +kernel) (by decide) (by decide) rfl (by decide) (by decide +kernel)
    exact ⟨_, s₁, h⟩

/-- A troupe with eight claimed vector registers: v3 holds 0 to 95. -/
def wtv (g : KV Dword) : Troupe := { wt with vclaim := 8, vregs := [(3, (List.range 96).map (fun i => BitVec.ofNat 32 i))], g := g }
def wfv (g : KV Dword) : Focus := foc (wtv g) 1
def wsv (g : KV Dword) : State := at_ (wtv g) 1

theorem at_wsv (g : KV Dword) : At (wsv g) (wfv g) (wtv g) := ⟨rfl, rfl, rfl⟩

theorem hasV_wsv (g : KV Dword) (x : BitVec 5) (h : x = 1 ∨ x = 3 ∨ x = 7) : HasV (wfv g) (wtv g) x := by
  rcases h with rfl | rfl | rfl <;> exact ⟨by show _ < (8 : Nat); decide, rfl⟩

theorem sound_wfv (g : KV Dword) (l : List (BitVec 5)) : Sound (wfv g) l := fun _ _ h => by cases h

/-- Register 7 is the last claimed, and 8 the first that is not; then register 3 holds an uncorrectable word. -/
theorem witness_VectorArithmeticWritesElements :
    At (wsv []) (wfv []) (wtv []) ∧ (wfv []).run ≠ 0 ∧ HasV (wfv []) (wtv []) 7 ∧ HasV (wfv []) (wtv []) 3 ∧ HasV (wfv []) (wtv []) 1 ∧
      (4#5).toNat % 8 ≤ 4 ∧ (4#5).getLsbD 3 = false ∧ (4#5).getLsbD 4 = false ∧ (12#5).getLsbD 3 = true ∧
      ((20#5).getLsbD 4 = true ∧ 3 ≤ (20#5).toNat % 8 ∧ (20#5).toNat % 8 ≤ 4) ∧ PlainTrap (wfv []) (wtv []) ∧ (wtv []).vclaim ≤ (8#5).toNat ∧ Sound (wfv []) [7, 3, 1] ∧
      (let t : Troupe := { wtv [] with badVregs := [3] }
       At (at_ t 1) (foc t 1) t ∧ PlainTrap (foc t 1) t ∧ HasV (foc t 1) t 3 ∧ HasV (foc t 1) t 1 ∧ ¬ Sound (foc t 1) [3, 1]) :=
  ⟨at_wsv _, by decide, hasV_wsv _ 7 (by decide), hasV_wsv _ 3 (by decide), hasV_wsv _ 1 (by decide), by decide, by decide, by decide,
   by decide, by decide, ⟨rfl, rfl, by decide⟩, by decide, sound_wfv _ _, ⟨rfl, rfl, rfl⟩, ⟨rfl, rfl, by decide⟩,
   ⟨by show _ < (8 : Nat); decide, rfl⟩, ⟨by show _ < (8 : Nat); decide, rfl⟩, fun h => h 3 (.head _) (by decide)⟩

/-- Codes 0, 10, 11 and 13 (with and without rotation) and 14; the shapes of `vred`, `vscan` and `vsel`. -/
theorem witness_VectorFunctionsWriteElements :
    At (wsv []) (wfv []) (wtv []) ∧ (wfv []).run ≠ 0 ∧ HasV (wfv []) (wtv []) 7 ∧ HasV (wfv []) (wtv []) 3 ∧ HasV (wfv []) (wtv []) 1 ∧
      (((wsv []).core 0).fmtAt 96).getLsbD 18 = false ∧
      (vQuantise 3 true ((List.range 96).map (fun k => (lane (wfv []) 1 k).toNat))).isSome = true ∧
      (vQuantise 5 true ((List.range 96).map (fun k => (lane (wfv []) 1 k).toNat))).isSome = true ∧
      (let s : State := { wsv [] with cores := [(0, { Core.init with fmt := 0xC5505 })] }
       At s (wfv []) (wtv []) ∧ ((s.core 0).fmtAt 96).getLsbD 18 = true ∧
         (vQuantise 3 true (rotateRow ((wfv []).latch.gread 0) 0 ((List.range 96).map (fun k => (lane (wfv []) 1 k).toNat))).1).isSome = true) ∧
      (∃ l, vExpand 3 ((List.range 96).map (lane (wfv []) 1)) = some l ∧ l.length = 96) ∧
      redType ((4#6).toNat % 8) = true ∧ (20#6).toNat / 8 % 4 < 3 ∧ (20#6).toNat < 32 ∧ 32 ≤ (32#6).toNat ∧ (15#5).toNat < 16 ∧
      (44#6).toNat % 8 ≤ 4 ∧ (44#6).toNat / 8 ≤ 5 ∧ Sound (wfv []) [7, 3, 1] := by
  refine ⟨at_wsv _, by decide, hasV_wsv _ 7 (by decide), hasV_wsv _ 3 (by decide), hasV_wsv _ 1 (by decide), by decide, by decide +kernel,
    by decide +kernel, ⟨⟨rfl, rfl, rfl⟩, by decide, by decide +kernel⟩, ?_, by decide, by decide, by decide, by decide, by decide, by decide,
    by decide, sound_wfv _ _⟩
  have h : (vExpand 3 ((List.range 96).map (lane (wfv []) 1))).any (fun l => l.length == 96) = true := by decide +kernel
  cases hv : vExpand 3 ((List.range 96).map (lane (wfv []) 1)) with
  | none => rw [hv] at h; exact absurd h (by decide)
  | some l => rw [hv] at h; exact ⟨l, rfl, by simpa using h⟩

theorem quiet_wsv (g : KV Dword) : Quiet (wsv g) 0 := ⟨done_of rfl rfl (fun p h => by cases h) rfl (mem_one rfl) (mem_one rfl), rfl⟩

/-- The last 384 bytes of the allocation; a misaligned first element, and one beyond the allocation; an operation on its way that
names register 3, which `vgive` gives back. -/
theorem witness_VectorMemoryMovesElements :
    (let g : KV Dword := [(9, 65152)]
     VmemReady (wsv g) (wfv g) (wtv g) ens1 (fun i => Claims.gField (wfv g) 9 + Claims.gField (wfv g) 31 + BitVec.ofNat 64 (4 * i)) ∧
       HasV (wfv g) (wtv g) 1 ∧ (wsv g).memOk = true) ∧
    (let g : KV Dword := [(9, 65532), (10, -4)]
     VmemReady (wsv g) (wfv g) (wtv g) ens1 (fun i => Claims.gField (wfv g) 9 + BitVec.ofNat 64 i * Claims.gField (wfv g) 10)) ∧
    (let g : KV Dword := [(9, 2)]
     VmemReady (wsv g) (wfv g) (wtv g) ens1 (fun i => Claims.gField (wfv g) 9 + Claims.gField (wfv g) 9 + (lane (wfv g) 1 i).setWidth 64) ∧
       PlainTrap (wfv g) (wtv g) ∧ (wfv g).acted = false ∧ (Claims.gField (wfv g) 9 + Claims.gField (wfv g) 31 + BitVec.ofNat 64 (4 * 0)).toNat % 4 ≠ 0) ∧
    (let g : KV Dword := [(9, 65156)]
     (∀ i, i < 96 → (Claims.gField (wfv g) 9 + Claims.gField (wfv g) 31 + BitVec.ofNat 64 (4 * i)).toNat % 4 = 0) ∧
       65536 * ens1.count < (Claims.gField (wfv g) 9 + Claims.gField (wfv g) 31 + BitVec.ofNat 64 (4 * 95)).toNat + 4) ∧
    (let t : Troupe := { wt with outs := [{ op := 7, flag := 2, pend := 1 }] }
     (at_ t 1).troupe 0 = some t ∧ t.outs = [{ op := 7, flag := 2, pend := 1 }]) ∧
    (∀ l, Sound (wfv []) l) ∧
    (let s : State := { wsv [] with agenda := [(120, .vmemComplete 0 ⟨7, [3]⟩)] }
     At s (wfv []) (wtv []) ∧ Plain (wtv []) ∧ (gVal (wfv []) 41).toNat = 0 ∧ (120, Instr.vmemComplete 0 ⟨7, [3]⟩) ∈ s.agenda ∧
       0 ≤ (wtv []).vclaim ∧ 0 % 8 = 0 ∧ 3 ∈ [3] ∧ 0 ≤ 3 ∧ 3 < (wtv []).vclaim) := by
  refine ⟨⟨⟨at_wsv _, by decide, ⟨rfl, rfl⟩, rfl, ⟨rfl, by decide⟩, rfl, quiet_wsv _, rfl, by decide⟩, hasV_wsv _ 1 (by decide), by decide⟩,
    ⟨at_wsv _, by decide, ⟨rfl, rfl⟩, rfl, ⟨rfl, by decide⟩, rfl, quiet_wsv _, rfl, by decide⟩,
    ⟨⟨at_wsv _, by decide, ⟨rfl, rfl⟩, rfl, ⟨rfl, by decide⟩, rfl, quiet_wsv _, rfl, by decide⟩, ⟨rfl, rfl, by decide⟩, rfl, by decide⟩,
    ⟨by decide, by decide⟩, ⟨rfl, rfl⟩, fun l => sound_wfv _ l,
    ⟨⟨rfl, rfl, rfl⟩, ⟨rfl, rfl⟩, by decide, .head _, by decide, by decide, .head _, by decide, by decide⟩⟩

/-- Ensemble 1 with bank b0 bound, and with an operation of a kind in its unit's table or running. -/
def ensm : Ensemble := { ens1 with banks := [(0, 0)] }
def wsx (g : KV Dword) (e : Ensemble) : State :=
  { at_ { wt with g := g } 1 with enss := [(1, e)], cores := [(0, { Core.init with fmt := 0x85005 })] }

theorem matReady (g : KV Dword) (e : Ensemble) (h : e.latch = none) (hj : e.joins = []) (hu : e.unit = 0) :
    MatReady (wsx g e) (foc { wt with g := g } 1) { wt with g := g } e :=
  ⟨⟨rfl, rfl, rfl⟩, by show (1 : BitVec 16) ≠ 0; decide, ⟨rfl, rfl⟩, rfl, h, order_of (tk := 0) _ _ rfl rfl rfl rfl, by
    simp [tableCount, enssOn, unformed, wsx, unitOf, State.tile, kget, kfind, at_, foc, State.reset, TileUnit.init, hj, hu],
   ⟨rfl, by show ∀ c, c < 12 → (0 : Nat) < 63; decide⟩, rfl⟩

/-- `mload` of all 384 rows and of none, with the bank bound and not; `mpass` of 48 columns of the last accumulator; a first and a last
piece; `mdrain` of a corner; `mengage` with 0, 1 and 2; `mwait` with nothing to wait for; and a latched fault. -/
theorem witness_MatrixSlotsPostOperations :
    (∀ g, MatReady (wsx g ensm) (foc { wt with g := g } 1) { wt with g := g } ensm) ∧
      (∀ g, MatReady (wsx g ens1) (foc { wt with g := g } 1) { wt with g := g } ens1) ∧
      (let d : Nat := 0 + 384 * 512 + 16 * 2 ^ 32
       d / 2 ^ 18 % 2 ^ 14 = 0 ∧ d % 512 + d / 512 % 512 ≤ 384 ∧ (d / 2 ^ 32) % 16 = 0 ∧
         0 + ((d / 512 % 512 - 1) * (d / 2 ^ 32) + 288) ≤ 65536 * ens1.count) ∧
      kfind ensm.banks 0 = some 0 ∧ kfind ens1.banks 0 = none ∧ freeBank (wsx [] ens1) 0 = some 0 ∧ (kfind ensm.banks 0).isSome = true ∧
      (let d : Nat := 48 + 3 * 64
       (1#3).toNat < ens1.naccs ∧ 1 ≤ d % 64 ∧ d % 64 ≤ 48 ∧ d / 256 % 64 + d % 64 ≤ 48 ∧ d / 2 ^ 14 % 4 = 0 ∧ d / 2 ^ 32 = 0 ∧
         16 * (5 + 1) ≤ 16 * (5 + 1) ∧ 0 + (d % 64 - 1) * 96 + 96 ≤ 65536 * ens1.count) ∧
      (let d : Nat := 1 + 2 ^ 32 * 3 + 2 ^ 36
       d / 2 ^ 34 % 4 = 0 ∧ d / 2 ^ 39 = 0 ∧ 1 < d / 2 ^ 36 % 8 + 1) ∧
      (let q : Piece := { id := 0, troupe := 0, eix := 0, op := none, fence := [], addr := 0, n := 1, k := 1, c0 := 0, stride := 96, acc := 0,
                          zero := true, p := 5, pieces := 2 }
       kget [] [(3, [q])] 3 = [q] ∧ q.pieces = 2) ∧
      (let d : Nat := 383 + 1 * 512 + 47 * 2 ^ 18
       d / 2 ^ 30 % 4 = 0 ∧ d % 512 + d / 512 % 512 ≤ 384 ∧ d / 2 ^ 18 % 64 + (d / 2 ^ 24 % 64 + 1) ≤ 48 ∧ (65532 : Nat) % 4 = 0 ∧
         65532 + (1 - 1) * 0 + 1 * 4 ≤ 65536 * ens1.count) ∧
      Claims.gField (foc { wt with g := [(1, 1)] } 1) 1 = 1 ∧ Claims.gField wf 1 = 0 ∧ otherEngaged (wsx [] ens1) 0 1 = false ∧
      otherEngaged { wsx [] ens1 with enss := [(1, ens1), (2, { ens2 with engaged := true })] } 0 1 = true ∧
      planesGone (wsx [] ens1) 0 1 = true ∧ mwaitIds (wsx [] ens1) 0 wt ens1 31 = [] ∧ wf.resuming = false ∧
      (let l : Latch := { cause := 0x15, value := 0x700 }
       let e : Ensemble := { ens1 with latch := some l }
       At (wsx [] e) (foc { wt with g := [] } 1) { wt with g := [] } ∧ PlainTrap (foc { wt with g := [] } 1) { wt with g := [] } ∧
         orderPending (wsx [] e) 0 { wt with g := [] } 0xFFFF .posted = false ∧ (wsx [] e).ens 1 = some e ∧ e.latch = some l ∧ l.cause < 256 ∧
         (foc { wt with g := [] } 1).resuming = false) := by
  refine ⟨fun g => matReady g ensm rfl rfl rfl, fun g => matReady g ens1 rfl rfl rfl, by decide, rfl, rfl, by decide, rfl, by decide, by decide,
    ⟨rfl, rfl⟩, by decide, by decide, by decide, by decide, by decide, by decide, by decide, rfl,
    ⟨⟨rfl, rfl, rfl⟩, ⟨rfl, rfl, by decide⟩, order_of _ _ rfl rfl rfl rfl, rfl, rfl, by decide, rfl⟩⟩

/-- Operations of the engine: one of each kind, in the table or running. -/
def opOf (k : MatKind) : MatOp :=
  { id := 4, ens := 1, troupe := 0, eix := 0, op := none, kind := k, fence := [], posted := 98, eligible := some 98, waited := 0,
    raised := false, granted := none, started := none, bank := none, a17 := false, rows := [], cols := [], done := 0 }
def pce1 : Piece :=
  { id := 4, troupe := 0, eix := 0, op := none, fence := [], addr := 0, n := 1, k := 4, c0 := 47, stride := 96, acc := 1, zero := false,
    p := 5, pieces := 1 }
def col1 : Rec := { col := 47, v := List.replicate 96 1, x := [0, 0, 0, 0], mark := false }
def wsu (u : TileUnit) : State :=
  { wsx [] ensm with units := [(0, u)], parts := [(0, { running := true, ctx := 0, rows := 1, refused := none, holds := [] })] }

/-- A swap; a pass of the last column with no record read; an older pass; a pass, a load and a drain that have started; and each kind as
it completes. -/
theorem witness_MatrixEngineRunsOperations :
    (let o := opOf (.swap 1)
     let s := wsu { TileUnit.init with rtab := [o] }
     (s.tile 0).running = [] ∧ (s.tile 0).rtab = [o] ∧ o.posted ≤ s.now ∧ o.fence = [] ∧ o.op = none ∧ s.ens o.ens = some ensm ∧
       unitServes s 0 ensm.ctx = true) ∧
    (let o := opOf (.pass false [pce1])
     let s := wsu { TileUnit.init with rtab := [o] }
     (s.tile 0).running = [] ∧ (s.tile 0).rtab = [o] ∧ o.posted ≤ s.now ∧ o.eligible.isSome = true ∧
       (∀ q, q ∈ s.enss → q.2.engaged = true → q.2.unit = 0 → q.1 = o.ens) ∧ (s.tile 0).arrayFree ≤ s.now ∧ s.mgmt.matHold ≤ s.now ∧
       unitServes s 0 ensm.ctx = true ∧ ∃ bank k, passCheck s 0 ensm [pce1] = .ok (bank, k)) ∧
    (let o : MatOp := { opOf (.pass false [pce1]) with waited := 4094 }
     ((wsu { TileUnit.init with rtab := [o] }).tile 0).rtab = [o] ∧ o.eligible = some 98 ∧ 4096 ≤ o.waited + (ws.now - 98)) ∧
    (let start (k : MatKind) : MatOp := { opOf k with granted := some 96, started := some 96, bank := some 0, rows := [(0, BankRow.zero)] }
     let s (o : MatOp) : State := wsu { TileUnit.init with running := [o] }
     (∀ o, ((s o).tile 0).running = [o] ∧ (s o).ens 1 = some ensm ∧ (s o).badScr = [] ∧ ensm.badAccs = []) ∧
       (∀ k, (start k).ens = 1 ∧ (start k).started = some 96 ∧ 96 + (start k).done ≤ (s (start k)).now ∧ (start k).bank = some 0 ∧
         (start k).rows[(start k).done]? = some (0, BankRow.zero)) ∧
       (∀ k ∈ [MatKind.pass false [pce1], .load 0 0 0 1 0 false, .drain 1 0 0 1 0 1 0 0 false], (start k).done < k.cycles) ∧
       kfind ensm.banks 0 = some 0 ∧
       ∃ l, readCycle { s (start (.pass false [pce1])) with scratch := writeNat [] 8 1 5 } 0 0 (start (.pass false [pce1])) [pce1] = .ok l) ∧
    (let o : MatOp :=
       { opOf (.pass false [pce1]) with rows := [(191, { w := List.replicate 96 2, xw := [], mark := false })], cols := [col1] }
     let s := wsu { TileUnit.init with running := [o] }
     (s.tile 0).running = [o] ∧ s.ens o.ens = some ensm ∧ (∀ i j, o.cols[i]? = some j → j.col = pce1.c0 + i) ∧ o.cols.length = pce1.n ∧
       pce1.c0 + pce1.n ≤ 48 ∧ (∀ m, (kget (List.replicate 48 0) (kget [] ensm.accs pce1.acc) m).length = 48) ∧
       (∀ q, q ∈ o.rows → q.2.w.length = 96) ∧ (∀ r, r ∈ o.cols → r.v.length = 96) ∧ pce1.k ≤ 4 ∧ pce1.op = none) ∧
    (∀ k ∈ [MatKind.zero 1, .load 0 0 383 1 0 false, .drain 1 65532 383 1 47 1 0 0 false],
      ((wsu { TileUnit.init with running := [opOf k] }).tile 0).running = [opOf k] ∧ (opOf k).op = none ∧ (wsu TileUnit.init).ens 1 = some ensm) := by
  refine ⟨⟨rfl, rfl, by decide, rfl, rfl, rfl, by decide⟩, ⟨rfl, rfl, by decide, rfl, by decide, by decide, by decide, by decide, ⟨0, Bank.init, rfl⟩⟩,
    ⟨rfl, rfl, by decide⟩,
    ⟨fun o => ⟨rfl, rfl, rfl, rfl⟩, fun k => ⟨rfl, rfl, by show (96 : Nat) ≤ 100; decide, rfl, rfl⟩, by decide, rfl, ok_of (by decide +kernel)⟩, ?_,
    fun k _ => ⟨rfl, rfl, rfl⟩⟩
  refine ⟨rfl, rfl, fun i j h => ?_, rfl, by decide, fun m => rfl, by decide, by decide, by decide, rfl⟩
  cases i with
  | zero => exact (Option.some.inj h) ▸ rfl
  | succ i => exact absurd h (by simp)

/-- A tensor header at 0 of the allocation (f32, 96 columns, one row, at 64), one at 32 (E4M3, at 96 and block records at 192), a window
record at 40 with the image at 0, and an empty plane record of P = 5 at 2048. -/
def plMem : Memory :=
  writeNat (writeNat (writeNat (writeNat (writeNat [] 4 2 96) 6 2 1) 8 4 384) 16 4 64) 2056 1 5
def mxMem : Memory :=
  writeNat (writeNat (writeNat (writeNat (writeNat (writeNat (writeNat [] 32 1 3) 36 2 96) 38 2 1) 40 4 96) 44 4 8) 48 4 64) 52 4 160
def winMem : Memory :=
  writeList [] 40 [4, 0, 4, 0, 1, 0, 3, 3, 1, 1, 8, 8, 8, 8, 0, 0, 16, 0, 0, 0, 0, 0, 0, 0, 4, 0, 0, 0, 5, 0, 0, 0]

def wsp (g : KV Dword) (m : Memory) : State :=
  { at_ { wt with g := g } 1 with scratch := m, cores := [(0, { Core.init with fmt := 0x85005 })] }
def wfp (g : KV Dword) : Focus := foc { wt with g := g } 1
def wtp (g : KV Dword) : Troupe := { wt with g := g }

theorem planeReady (g : KV Dword) (m : Memory) : PlaneReady (wsp g m) (wfp g) (wtp g) ens1 :=
  ⟨⟨rfl, rfl, rfl⟩, by show (1 : BitVec 16) ≠ 0; decide, ⟨rfl, rfl⟩, rfl, rfl, done_of rfl rfl (mem_one ⟨rfl, rfl⟩) rfl (mem_one rfl) (mem_one rfl), rfl⟩

/-- The one row of a statement is row 0. -/
theorem rows_one {p : Nat → Prop} (h : p 0) : ∀ j, j < 1 → p j := fun _ hj => (Nat.lt_one_iff.mp hj) ▸ h

/-- `tplane` of the header at 0 (g0) into 1024 (g1); `tunplane` and `tdequant` of the record at 2048 (g2). -/
theorem witness_PlaneSlotsWriteRows :
    let g : KV Dword := [(1, 1024), (2, 2048)]
    PlaneReady (wsp g plMem) (wfp g) (wtp g) ens1 ∧
      (∃ h, readHeader (wsp g plMem) (wfp g) 0 0 65536 0 = .ok h ∧ tensorOk 0 h false = true ∧ h.fmt = 0 ∧ h.rotate = false ∧
        (((0x85005 : Dword).extractLsb' 8 3).toNat = 0 ∧ (0x85005 : Dword).getLsbD 18 = false) ∧
        spanCheck 65536 (tensorSpans h (tensorDesc 0) ++ [{ off := 1024, len := 96, al := 16 }]) = none ∧
        (∀ j, j < (tensorDesc 0).count → ∃ r, tplaneRow { wsp g plMem with scratch := plMem } 0 0 h 0 5 (0 + j) = .ok r) ∧
        spanCheck 65536 ([{ off := 2048, len := 288, al := 16 }] ++ tensorSpans h (tensorDesc 0)) = none) ∧
      (∀ F ∈ [f32, f16, bf16], ∃ r, unplaneRow { wsp g plMem with scratch := plMem } 0 0 2048 1024 96 F = .ok r) ∧
      spanCheck 65536 ([{ off := 2048, len := 288, al := 16 }] ++ [{ off := 1024, len := 384, al := 4 }]) = none := by
  refine ⟨planeReady _ _, ⟨_, rfl, by decide, by decide, by decide, by decide, by decide, rows_one (ok_of (by decide +kernel)), by decide⟩, ?_, by decide⟩
  intro F hF
  have key : ∀ F ∈ [f32, f16, bf16], (unplaneRow { wsp [(1, 1024), (2, 2048)] plMem with scratch := plMem } 0 0 2048 1024 96 F).toBool = true := by
    decide +kernel
  exact ok_of (key F hF)

/-- `trot` and `ttrans` in the allocation, `tquant` by the header at 32, `twin` by the record at 40; `xfmt` of P 9 and of P 1; and the unit
as it runs. -/
theorem witness_PlaneSlotsOtherForms :
    (let g : KV Dword := [(2, 1024)]
     PlaneReady (wsp g []) (wfp g) (wtp g) ens1 ∧ (14#5).toNat ≤ 14 ∧
       spanCheck 65536 ([{ off := 0, len := 384, al := 4 }] ++ [{ off := 1024, len := 384, al := 4 }]) = none) ∧
    (let d : Nat := 96 + 96 * 128 + 384 * 2 ^ 32 + 384 * 2 ^ 48
     d / 2 ^ 14 % 2 ^ 18 = 0 ∧ d % 128 = 96 ∧ d / 128 % 128 = 96 ∧
       spanCheck 65536 ((List.range 96).map (fun i => { off := i * 384, len := 96 * 4, al := 4 }) ++
         (List.range 96).map (fun j => { off := j * 384, len := 96 * 4, al := 4 })) = none) ∧
    (let g : KV Dword := [(1, 32), (2, 1024)]
     PlaneReady (wsp g mxMem) (wfp g) (wtp g) ens1 ∧
       ∃ h, readHeader (wsp g mxMem) (wfp g) 0 0 65536 32 = .ok h ∧ tensorOk 0 h false = true ∧ 3 ≤ h.fmt ∧ h.rotate = false ∧
         spanCheck 65536 ([{ off := 1024, len := 384, al := 4 }] ++ tensorSpans h (tensorDesc 0)) = none ∧
         ((runsOf 24 4 (List.replicate 96 0)).filterMap (quantBlock h.fmt true)).length = 4) ∧
    (let g : KV Dword := [(1, 40), (2, 1024)]
     PlaneReady (wsp g winMem) (wfp g) (wtp g) ens1 ∧
       ∃ l, headerBytes (wsp g winMem) (wfp g) 0 0 65536 40 = .ok l ∧ windowBad l 4 (parseWindow l) = false ∧ (parseWindow l).count = 1 ∧
         spanCheck 65536 ([{ off := 0, len := 3 * 16 + 16, al := 4 }] ++ [{ off := 1024, len := 96, al := 16 }]) = none ∧
         ∃ taps, windowTaps (wsp g winMem) 0 0 0 0 (parseWindow l) 0 = .ok taps ∧ (floatRecord 5 0 false taps).isSome = true) ∧
    fmtLegal (xfmtMask 3) (0x309 &&& xfmtMask 3) = true ∧ fmtLegal (xfmtMask 1) (1 &&& xfmtMask 1) = false ∧ PlainTrap wf wt ∧
    wt.spec.sketches = [] ∧ (let t : Troupe := { wt with spec := { Spec.none with sketches := [(0, 3)] } }
      At (at_ t 1) (foc t 1) t ∧ (foc t 1).run ≠ 0 ∧ t.spec.sketches ≠ []) ∧
    (({ ws with cores := [(0, { Core.init with plane := some 0 })] } : State).core (coreOf 0)).plane = some 0 := by
  refine ⟨⟨planeReady _ _, by decide, by decide⟩, by decide +kernel, ⟨planeReady _ _, _, rfl, by decide, by decide, by decide, by decide, by decide +kernel⟩,
    ⟨planeReady _ _, _, rfl, by decide, by decide, by decide, _, rfl, by decide +kernel⟩, by decide, by decide, ⟨rfl, rfl, by decide⟩, rfl,
    ⟨⟨rfl, rfl, rfl⟩, by decide, by decide⟩, rfl⟩

/-- A tracked tile of one f32 block with two versions posted, without and with a sketch out. -/
def trk1 : Tracked :=
  { ens := 1, hist := 0x2000, blocks := 1, fmt := 0, hold := false, version := 2, v0 := some 0, v1 := some 1, undo := none, sketch := none,
    specBy := none, outcome := 0 }
def wsk (g : KV Dword) (ks : KV Tracked) : State :=
  { at_ { wt with g := g } 1 with now := 200, units := [(0, { TileUnit.init with tracked := ks })] }

theorem sketchReady (g : KV Dword) (ks : KV Tracked) : SketchReady (wsk g ks) (wfp g) (wtp g) ens1 :=
  ⟨⟨rfl, rfl, rfl⟩, by show (1 : BitVec 16) ≠ 0; decide, ⟨rfl, rfl, by show (0 : Nat) < 8; decide⟩, by show unitOf 0 < 288; decide, rfl, rfl, rfl⟩

theorem settled_wtp (s : State) (g : KV Dword) : Settled s (wtp g) := by
  intro th hth q hq p hp
  have h1 := List.eq_of_mem_replicate hth
  subst h1
  have key : ∀ q ∈ (thr 1 9 3).qs, ∀ p ∈ q.2, (match p.pos with | .filled _ _ => true | _ => false) = true := by decide
  have h2 := key q hq p hp
  cases hpos : p.pos <;> simp_all [Pos.value] <;> split <;> rfl

/-- A SPEC slot of a guide cluster; before and after its cycle; a legal and an illegal `sktrack`, with a free entry and with none; an entry
with a sketch and without; a destination at the end of the allocation. -/
theorem witness_SketchSlotsActOnTheirEntry :
    (let f : Focus := { wf with troupe := 73728 }
     let s : State := { ws with troupes := [(73728, wt)], focus := some f }
     At s f wt ∧ f.run ≠ 0 ∧ 288 ≤ unitOf f.troupe) ∧
    (∀ g ks, SketchReady (wsk g ks) (wfp g) (wtp g) ens1 ∧ Settled (wsk g ks) (wtp g)) ∧ ws.now < wf.issue + 16 ∧ wf.issue + 16 ≤ (wsk [] []).now ∧
    (let b : Nat := 2 ^ 14 + 1
     b / 2 ^ 11 % 2 = 0 ∧ b / 2 ^ 15 % 2 ^ 48 = 0 ∧ b < 2 ^ 63 ∧ b % 2048 = 1 ∧ b / 4096 % 4 ≠ 3 ∧ ¬ 65536 * ens1.count < 0 + (64 + 192 * (b % 2048)) ∧
       65536 * ens1.count < (65536 - 255) + (64 + 192 * (b % 2048))) ∧
    (let full : KV Tracked := (List.range 16).map (fun i => (i, trk1))
     (∀ m, m < 16 → (tracked (wsk [] full) 0 m).isSome = true) ∧
       tracked (wsk [] (full.filter (fun p => p.1 != 15))) 0 15 = none ∧
       ∀ j, j < 15 → (tracked (wsk [] (full.filter (fun p => p.1 != 15))) 0 j).isSome = true) ∧
    (let held : Tracked := { trk1 with sketch := some (3, 1, [1]) }
     tracked (wsk [] [(0, held)]) 0 0 = some held ∧ held.ens = 1 ∧ held.specBy = none ∧ held.sketch.isSome = true) ∧
    (tracked (wsk [] [(0, trk1)]) 0 0 = some trk1 ∧ trk1.ens = 1 ∧ trk1.specBy = none ∧ trk1.sketch = none ∧ trk1.v1 = some 1 ∧ trk1.v0 = some 0 ∧
      wf.issue + 16 + 4 * trk1.blocks ≤ (wsk [] []).now ∧ ws.now < wf.issue + 16 + 4 * trk1.blocks ∧ 65472 % 64 = 0 ∧
      65472 + 64 * trk1.blocks ≤ 65536 * ens1.count ∧ 64 = 64 * max trk1.blocks (15 / 65536)) ∧
    (∀ k, tracked (wsk [] []) 0 0 = some k → k.ens ≠ 1) ∧ (16 : Nat) < 32 ∧ UName 32 ∧ UName 61 ∧
    (let tc : Troupe := { wt with spec := { Spec.none with sketches := [(0, 3)] } }
     let s : State := { wsk [] [(0, { trk1 with sketch := some (3, 1, [1]) })] with troupes := [(0, wtp []), (1, tc)] }
     s.troupe 1 = some tc ∧ unitOf 1 = 0 ∧ (1 : Nat) ≠ wf.troupe ∧ ∀ m km, (m, km) ∈ (s.tile 0).tracked → km.specBy ≠ some 1) := by
  refine ⟨⟨⟨rfl, rfl, rfl⟩, by decide, by decide⟩, fun g ks => ⟨sketchReady g ks, settled_wtp _ g⟩, by decide, by decide, by decide,
    ⟨by decide, rfl, by decide⟩, ⟨rfl, rfl, rfl, rfl⟩, ⟨rfl, rfl, rfl, rfl, rfl, rfl, by decide, by decide, by decide, by decide, by decide⟩,
    fun k h => (by cases h), by decide, .inl (.inl (by decide)), .inr rfl, ⟨rfl, rfl, by decide, ?_⟩⟩
  intro m km h
  have h : (m, km) ∈ [((0 : Nat), ({ trk1 with sketch := some (3, 1, [1]) } : Tracked))] := h
  simp at h
  rw [h.2]
  decide

/-- A fourth depth, a fifth entry. -/
theorem witness_SketchLimits :
    (let tp (k : Nat) : Troupe := { wt with spec := { Spec.none with sketches := [(k, 3)] } }
     let s : State := { wsk [] [(0, { trk1 with specBy := some 3 }), (1, { trk1 with sketch := some (3, 1, [1]) }),
                                (2, { trk1 with sketch := some (3, 2, [2]) }), (3, { trk1 with sketch := some (3, 3, [3]) })] with
                        troupes := [(0, wtp []), (1, tp 1), (2, tp 2), (3, tp 3)] }
     tracked s 0 0 = some { trk1 with specBy := some 3 } ∧ s.troupe 3 = some (tp 3) ∧ (tp 3).spec.sketches ≠ [] ∧ 3 ≤ troupeDepth s 3) ∧
    (let t : Troupe := { wtp [] with spec := { Spec.none with sketches := [(1, 3), (2, 3), (3, 3), (4, 3)] } }
     let s : State := { wsk [] [(0, trk1)] with troupes := [(0, t)], focus := some (foc t 1) }
     At s (foc t 1) t ∧ t.handler = false ∧ t.spec.sketches.length = 4 ∧ (∀ p, p ∈ t.spec.sketches → p.1 ≠ 0) ∧
       tracked s 0 0 = some trk1 ∧ s.ens t.ens = some ens1) := by
  refine ⟨⟨rfl, rfl, by decide, by decide⟩, ⟨⟨rfl, rfl, rfl⟩, rfl, rfl, by decide, rfl, rfl⟩⟩

/-- A compare of entry 0 with no sketch, with one whose blocks pass and with one that fails; a squashed troupe whose version is posted. -/
theorem witness_CompareDecidesSketches :
    (let c : Cmd := { cmd1 with words := [0, 0x9000, 0, 7, 0, 4096, 1, 0] }
     let t : Troupe := { wt with spec := { Spec.none with sketches := [(0, 3)] } }
     let s (sk : Option (Word × Nat × List Nat)) (m : Memory) : State :=
       { wsk [] [(0, { trk1 with sketch := sk })] with cores := [(0, { Core.init with engines := [(4, [c])] })], scratch := m, troupes := [(1, t)] }
     (∀ sk m, m = [] ∨ m = [(4096, 1)] → Waiting (s sk m) 0 4 c ∧ (s sk m).ens c.ens = some ens1 ∧
       tracked (s sk m) 0 0 = some { trk1 with sketch := sk } ∧ (s sk m).troupe 1 = some t ∧ (s sk m).memOk = true ∧ (s sk m).badScr = [] ∧
       ens1.unit = 0 / 4 ∧ ∀ k km, (k, km) ∈ ((s sk m).tile 0).tracked → km.specBy = none) ∧ compareWaits (s none []) 0 c = false ∧ compareWaits (s (some (3, 1, [1])) []) 0 c = false ∧
       (∃ pred, predict (s none []) 0 trk1 = some pred ∧ failing 0 1 (readList [] 4096 64) pred 0 = []) ∧
       (∃ pred, predict (s none [(4096, 1)]) 0 trk1 = some pred ∧ failing 0 1 (readList [(4096, 1)] 4096 64) pred 0 ≠ []) ∧
       t.spec.sketches = [(0, 3)] ∧ t.spec.held = [] ∧ t.spec.trap = [] ∧ unitOf 1 = 0) ∧
    (let ck : Checkpoint :=
       { threads := List.replicate 16 Thread.init, g := [], active := 1, maskStack := [], retStack := [], clause := Clause.none, outs := [],
         vregs := [], scopesel := 3, label := 0, wopen := 0, fpFlags := 0, sat := 0, pc := 4096, fell := false, split := none, t := 0,
         version := 2, dst := 0 }
     let t : Troupe := { wtp [] with spec := { Spec.none with squashed := true, checkpoint := some ck } }
     let s : State := { wsk [] [(0, trk1)] with troupes := [(0, t)] }
     let u : Troupe := { t with spec := { t.spec with restored := true } }
     t.spec.restored = false ∧ u.spec.restored = true ∧ ({ wsk [] [(0, trk1)] with troupes := [(0, u)] } : State).troupe 0 = some u ∧
       tracked { wsk [] [(0, { trk1 with version := 1 })] with troupes := [(0, u)] } 0 0 = some { trk1 with version := 1 } ∧
       ((1 : Word) - ck.version).toNat ≥ 2 ^ 31 ∧
     s.troupe 0 = some t ∧ t.handler = false ∧ t.spec.squashed = true ∧ Settled s t ∧ t.spec.checkpoint = some ck ∧
       tracked s (unitOf 0) ck.t = some trk1 ∧ trk1.ens = t.ens ∧ trk1.version = ck.version ∧ trk1.specBy = none ∧ trk1.v1 = some 1 ∧
       s.ens t.ens = some ens1) := by
  refine ⟨⟨fun sk m hm => by
      rcases hm with rfl | rfl <;>
        exact ⟨⟨rfl, rfl⟩, rfl, rfl, rfl, rfl, rfl, rfl, fun k km h => by cases h with | head => rfl | tail _ h => cases h⟩,
      by decide, by decide, ⟨_, rfl, by decide +kernel⟩, ⟨_, rfl, by decide +kernel⟩, rfl, rfl, rfl,
    by decide⟩, ⟨rfl, rfl, rfl, rfl, by decide, rfl, rfl, rfl, settled_wtp _ [], rfl, rfl, rfl, rfl, rfl, rfl, rfl⟩⟩

/-- A graphics slot of thread 0 with both sources `z`; the allocation as given. -/
def gx : RegF := ⟨0, 0, 40, 56, 0, 0, 0⟩
def wsg (g : KV Dword) (m : Memory) : State := wsp g m

theorem gfxReady (g : KV Dword) (m : Memory) :
    GfxReady (wsg g m) (wfp g) (wtp g) ens1 gx 0 (.wide ((wfp g).latch.gread 8)) (.plain 0) ((wtp g).thread 0) :=
  ⟨⟨rfl, rfl, rfl⟩, ⟨rfl, rfl⟩, ⟨by decide, rfl⟩, rfl, rfl, ⟨done_of rfl rfl (mem_one ⟨rfl, rfl⟩) rfl (mem_one rfl) (mem_one rfl), rfl⟩, ⟨(wtp g).thread 0, rfl, rfl⟩⟩

/-- A triangle with its corners at (0, 0), (2, 0) and (0, 2), one of no area, one with an infinite corner and one with an infinite depth; a triangle set up under handle 0; a ray that has ended, one at its
limit, and one at a node and at a leaf; a texture and a grid. -/
def triMem : Memory := writeNat (writeNat [] 14 2 0x4000) 30 2 0x4000
def rayMem (limit status : Nat) : Memory := writeNat (writeNat (writeNat [] 52 4 256) 56 2 limit) 60 1 status

theorem witness_GraphicsSlotsAnswer :
    (∀ g m, GfxReady (wsg g m) (wfp g) (wtp g) ens1 gx 0 (.wide ((wfp g).latch.gread 8)) (.plain 0) ((wtp g).thread 0)) ∧
      ((wtp []).thread 0).queue 0 = [] ∧ (wfp []).latch.gread 8 = 0 ∧
      (let l := readList triMem 0 36
       (∀ k, k < 9 → gFinite (fieldAt l (4 * k) 4) = true) ∧ (gRound 8 (fieldAt l 12 4) = 512 ∧ gRound 8 (fieldAt l 28 4) = 512)) ∧
      (∀ v, v < 3 → gFinite (fieldAt (readList [] 0 36) (12 * v) 4) = true ∧ gRound 8 (fieldAt (readList [] 0 36) (12 * v) 4) = 0) ∧
      gFinite (fieldAt (readList (writeNat [] 2 2 0x7F80) 0 36) 0 4) = false ∧
      (let l := readList (writeNat triMem 10 2 0x7F80) 0 36
       gFinite (fieldAt l 8 4) = false ∧ ∀ v, v < 3 → gFinite (fieldAt l (12 * v) 4) = true ∧ gFinite (fieldAt l (12 * v + 4) 4) = true) ∧
      (let k : Setup := { gen := 0, valid := true, xy := [(0, 0), (512, 0), (0, 512)], area := 262144, z := [0, 0, 0] }
       let s : State := { wsg [] [] with units := [(0, { TileUnit.init with setups := [(0, k)] })] }
       (kget Setup.init (s.tile 0).setups (0 % 1024)).valid = true ∧ setupGen (s.tile 0) (0 % 1024) = 0 / 1024 % 2 ^ 20) ∧
      (∀ b ∈ [1, 0], let r : Ray := { off := 0, raw := readList (rayMem b 0) 0 64 }
        r.status = 0 ∧ r.base % 16 = 0 ∧ r.base + r.len ≤ 65536 * ens1.count ∧ r.used < r.limit) ∧
      ({ off := 0, raw := readList (rayMem 1 3) 0 64 } : Ray).status ≠ 0 ∧
      (let r : Ray := { off := 0, raw := readList (writeNat (rayMem 1 0) 58 2 1) 0 64 }
       r.limit ≤ r.used) ∧
      (let r : Ray := { off := 0, raw := readList (rayMem 1 0) 0 64 }
       fieldAt r.raw 61 3 = 0 ∧ fieldAt (readList (rayMem 1 0) 128 128) 112 16 = 0 ∧ 16 * 8 + 128 ≤ r.len ∧ 0 + 64 ≤ r.base + 16 * 8 ∧ r.len < 16 * 9 + 128 ∧ 16 * 13 + 48 ≤ r.len ∧
         (boxHits r (readList (rayMem 1 0) 128 128)).any (fun h => badChild r (childOf (readList (rayMem 1 0) 128 128) h.1)) = false) ∧
      FlagRoom (wfp []) (wtp []) := by
  refine ⟨gfxReady, by decide, by decide, by decide +kernel, by decide +kernel, by decide +kernel, by decide +kernel, ⟨rfl, by decide⟩, by decide +kernel, by decide +kernel, by decide +kernel,
    by decide +kernel, ⟨rfl, by decide⟩⟩

/-- The texture descriptor of one rgba8 texel at g9 = 64, and the grid descriptor at g10 = 128; both answers are words. -/
theorem witness_TexturesAndGrids :
    let m : Memory := writeNat (writeNat (writeNat (writeNat (writeNat [] 68 2 1) 70 2 1) 72 4 4) 132 2 1) 134 1 4
    let g : KV Dword := [(9, 64), (10, 128)]
    (∃ tex ws, readTexture (wsg g m) (wfp g) (wtp g) = .ok tex ∧ sampleTexture (wsg g m) (wfp g) (wtp g) tex 0 0 = .ok ws) ∧
      (∃ q ws, readGrid (wsg g m) (wfp g) (wtp g) = .ok q ∧ sampleGrid (wsg g m) (wfp g) (wtp g) q 0 0 = .ok ws) :=
  ⟨⟨_, _, rfl, rfl⟩, ⟨_, _, rfl, rfl⟩⟩

/-- `gwrite` of q0 to q3 to the last pixel of the allocation: it wins, and it loses. -/
theorem witness_PixelUpdateKeepsNearest :
    let th : Thread := { Thread.init with qs := [(0, [5, 0x3F000000, 7, 8].map (fun w => ⟨.filled w false, false, false⟩))] }
    let t : Troupe := { wt with threads := List.replicate 16 th, g := [(1, 65520)] }
    (At (at_ t 1) (foc t 1) t ∧ Plain t ∧ Alone (foc t 1) 0 ∧ (at_ t 1).ens t.ens = some ens1 ∧ (at_ t 1).badScr = [] ∧ Quiet (at_ t 1) 0 ∧
      (∃ m, readFour 96 (t.thread 0) 0 false = .ok ([5, 0x3F000000, 7, 8], m) ∧ readSrc (foc t 1) 96 0 m 56 false = .ok (.plain 0, m)) ∧
      gVal (foc t 1) 33 = 65520 ∧ (65520 : Nat) % 16 = 0 ∧ 65520 + 16 ≤ 65536 * ens1.count) ∧
    fvLt (ffDecode f32 0x3F000000) (ffDecode f32 0x3F800000) = true ∧ fvLt (ffDecode f32 0x3F000000) (ffDecode f32 0) = false := by
  refine ⟨⟨⟨rfl, rfl, rfl⟩, ⟨rfl, rfl⟩, ⟨by decide, rfl⟩, rfl, rfl,
    ⟨done_of rfl rfl (fun p h => by cases h) rfl (mem_one rfl) (mem_one rfl), rfl⟩, ⟨_, rfl, rfl⟩, by decide, by decide, by decide⟩, by decide, by decide⟩

/-- A read of CYCLE by thread 0, and a bundle that reads it; writes in a privileged context and in one that is not, a legal and an illegal `fmt`; PFTAIL with
records between, and a word of an entry of the scope table. -/
theorem witness_ControlRegistersReadAndWrite :
    (At ws wf wt ∧ wf.run ≠ 0 ∧ HasRoom wf 36 1 wt.thread ∧ HasRoom wf 0 1 wt.thread ∧ (64 * (0 : Nat) + 0x20, (96 : Dword)) ∈ ctlTable ws wf wt) ∧
    (let s : State := { ws with cores := [(0, { Core.init with frames := [{ ctx := 0, text := 0, seg := 1, words := [0xF6402004] }] })] }
     s.focus = some wf ∧ scanBundle (wordAt s wf.troupe wf.latch wf.base) 8 0 = some ([(0, 0xF6402004)], 1) ∧
       ([(0, 0xF6402004)] : List (Nat × Word)).find? (fun p => classOf p.2 == 29 && fnOf p.2 == 4) = some (0, 0xF6402004) ∧
       (bitsAt 0xF6402004 8 12, (96 : Dword)) ∈ ctlTable s wf wf.latch) ∧
    (PlainTrap wf wt ∧ UName 36 ∧ wt.ctx < 16 ∧ (ws.ctx 0).pfheld = [] ∧ (ws.ctx 0).pftail = (ws.ctx 0).pfhead ∧ ws.sections = [] ∧
      (let p : Nat := 2 + 5 * 2 ^ 8 + 5 * 2 ^ 12
       2 ≤ p % 32 ∧ p % 32 ≤ 17 ∧ p / 2 ^ 8 % 8 < 6 ∧ p / 2 ^ 12 % 8 < 6) ∧ ¬ (18 : Nat) ≤ 17) ∧
    (let t : Troupe := { wt with ctx := 16 }
     At (at_ t 1) (foc t 1) t ∧ (foc t 1).run ≠ 0 ∧ PlainTrap (foc t 1) t ∧ 16 ≤ t.ctx) ∧
    (let s : State := { ws with ctxs := [(0, { Ctx.init with pftail := 2, pfhead := 1 })] }
     At s wf wt ∧ (s.ctx 0).pfheld = [] ∧ (s.ctx 0).pftail ≠ (s.ctx 0).pfhead ∧ (3 : Word) = (5 : Word) - (s.ctx 0).pftail ∧
       (3 : Word) ≠ 0 ∧ (3 : Word).toNat < 2 ^ 31) ∧ (5 : Nat) ≤ 31 ∧ (17 : Nat) < 18 := by
  refine ⟨⟨at_ws, by decide, runs_zero rfl (by decide), runs_zero rfl (by decide), by decide⟩,
    ⟨rfl, by decide, by decide, by decide⟩,
    ⟨⟨rfl, rfl, by decide⟩, .inl (.inl (by decide)), by decide, rfl, rfl, rfl, by decide, by decide⟩,
    ⟨⟨rfl, rfl, rfl⟩, by decide, ⟨rfl, rfl, by decide⟩, by decide⟩, ⟨⟨rfl, rfl, rfl⟩, rfl, by decide, by decide, by decide, by decide⟩, by decide, by decide⟩

/-- A trap of thread 0; the debug block at its context, and off. -/
def ori1 : Origin :=
  { id := 7, thread := 0, cause := 0x0E, detail := 3, value := 9, slot := 0, async := false, arrived := true, res := none }
def tic1 : Ticket := { id := 7, ctx := 0, tag := 5, cause := 0x0E, detail := 3, value := 9, slot := 0, arrived := 50 }
/-- A handler troupe at slot 32 with one origin, of troupe 1, which stands at an `add q0, q2, q3`. -/
def wth : Troupe := { wt with handler := true, tickets := [tic1] }
def wfh : Focus := { foc wth 1 with troupe := 32 }
def wtr (l : List Origin) : Troupe := { wt with pc := 4096, text := 4096, segs := 1, active := 3, origins := l }
def wsh (l : List Origin) : State :=
  { ws with troupes := [(1, wtr l), (32, wth)], focus := some wfh,
            cores := [(0, { Core.init with frames := [{ ctx := 0, text := 4096, seg := 0, words := [0x08008300] }] })] }

theorem oneOrigin_wsh (o : Origin) (h : o.res = none) : OneOrigin (wsh [o]) 1 (wtr [o]) o := by
  refine ⟨rfl, rfl, h, rfl, rfl, ?_⟩
  intro p hp ⟨x, hx, _⟩
  simp [wsh] at hp
  rcases hp with rfl | rfl
  · rfl
  · exact absurd hx (by simp [wth, wt, trp, Troupe.init])

theorem witness_TrapsReachHandlersAndReturn :
    (At ws wf wt ∧ PlainTrap wf wt ∧ wf.run ≠ 0 ∧ Reads1 wf wt 2 0 (fun _ => .narrow 9) p1 ∧ wt.ctx < 16 ∧ ws.dbg.en = false ∧
      (let s : State := { ws with dbg := { ws.dbg with en := true } }
       At s wf wt ∧ s.dbg.en = true ∧ s.dbg.ctx = wt.ctx) ∧
      (let t : Troupe := { wt with ctx := 16 }
       At (at_ t 1) (foc t 1) t ∧ PlainTrap (foc t 1) t ∧ 16 ≤ t.ctx)) ∧
    (At (wsh [ori1]) wfh wth ∧ wfh.run ≠ 0 ∧ wth.handler = true ∧ wth.spec.sketches = [] ∧ wth.tickets = [tic1] ∧ (1 : Nat) ≠ wfh.troupe ∧
      OneOrigin (wsh [ori1]) 1 (wtr [ori1]) ori1 ∧ tic1.id = ori1.id ∧ wth.origins = [] ∧ Alone wfh 0 ∧
      (∃ th, readSrc wfh (wfh.issue + 0) 0 (wth.thread 0) 4 false = .ok (.narrow 5, th) ∧ readSrc wfh (wfh.issue + 0) 0 th 2 false = .ok (.narrow 9, th.drop 2)) ∧
      (Operand.narrow 5).lo = tic1.tag ∧ (wtr [ori1]).active &&& ~~~(BitVec.ofNat 16 (2 ^ ori1.thread)) ≠ 0 ∧ ori1.async = false ∧
      wordAt (wsh [ori1]) 1 (wtr [ori1]) 4096 0 = some 0x08008300 ∧ uniformWord 0x08008300 = false ∧
      (∃ th, supplyThread 100 0x08008300 9 ((wtr [ori1]).thread 0) = some (th, none)) ∧ ori1.thread < (wtr [ori1]).threads.length ∧ (wsh [ori1]).focus = some wfh) ∧
    (let l : Late := { engine := 1, promise := 9, id := 3, cmd := 0 }
     let o : Origin := { ori1 with async := true, id := 2 }
     let t : Troupe := { wt with late := [l] }
     let u : Troupe := { wt with late := [l], async := [o] }
     let v : Troupe := { u with spec := { Spec.none with sketches := [(0, 3)] } }
     ((at_ t 1).troupe 0 = some t ∧ t.handler = false ∧ t.split = none ∧ t.late = l :: [] ∧ (∀ o, o ∈ t.async → l.id < o.id) ∧ l.engine < 256 ∧
       t.active ≠ 0 ∧ t.spec.sketches = []) ∧
     ((at_ u 1).troupe 0 = some u ∧ u.async = o :: [] ∧ (∀ l, l ∈ u.late → o.id ≤ l.id) ∧ o.cause < 256 ∧ o.detail < 256 ∧
       u.active.getLsbD o.thread = true ∧ o.thread < 16) ∧
     ((at_ v 1).troupe 0 = some v ∧ v.handler = false ∧ v.split = none ∧ v.active ≠ 0 ∧ v.spec.sketches ≠ [] ∧ (v.late ≠ [] ∨ v.async ≠ []))) ∧
    (let o : Origin := { ori1 with arrived := false }
     (wsh [o]).troupe 1 = some (wtr [o]) ∧ (wtr [o]).origins = [o] ∧ o.arrived = false ∧ o.res = none ∧ o.thread < 16 ∧
       OneOrigin (wsh [o]) 1 (wtr [o]) o ∧ ((wsh [o]).ctx 0).trapvec.toNat / 2 ^ 12 % 2 ^ 44 = 0 ∧
       (let s : State := { wsh [o] with ctxs := [(0, { Ctx.init with trapvec := 0x5000 })] }
        s.troupe 1 = some (wtr [o]) ∧ (s.ctx 0).trapvec.toNat / 2 ^ 12 % 2 ^ 44 ≠ 0)) ∧
    (let s (n at_ : Nat) : State := { ws with cores := [(0, { Core.init with collector := List.replicate n { tic1 with arrived := at_ } })], now := 4000 }
     (∀ n a, (s n a).troupe 32 = none ∧ (s n a).troupe 33 = none ∧ ((s n a).core 0).hslots = []) ∧
       ((s 16 50).core 0).collector.length = 16 ∧ ((s 1 50).core 0).collector.length < 16 ∧ (s 1 50).now ≥ 50 + 3600 ∧
       (s 15 3999).now < 3999 + 3600 ∧ ((s 15 3999).core 0).collector.length < 16) := by
  refine ⟨⟨at_ws, ⟨rfl, rfl, by decide⟩, by decide, reads1_ws, by decide, rfl, ⟨⟨rfl, rfl, rfl⟩, rfl, rfl⟩, ⟨rfl, rfl, rfl⟩, ⟨rfl, rfl, by decide⟩, by decide⟩,
    ⟨⟨rfl, rfl, rfl⟩, by decide, rfl, rfl, rfl, by decide, oneOrigin_wsh _ rfl, rfl, rfl, ⟨by decide, rfl⟩, ⟨_, rfl, rfl⟩, rfl, by decide, rfl, by decide +kernel,
      by decide, ⟨_, rfl⟩, by decide, rfl⟩,
    ⟨⟨rfl, rfl, rfl, rfl, (fun _ h => by cases h), by decide, by decide, rfl⟩, ⟨rfl, rfl, mem_one (by decide), by decide, by decide, by decide, by decide⟩,
      ⟨rfl, rfl, rfl, by decide, by decide, .inl (by decide)⟩⟩, ⟨rfl, rfl, rfl, rfl, by decide, oneOrigin_wsh _ rfl, by decide, rfl, by decide⟩,
    ⟨fun n a => ⟨rfl, rfl, rfl⟩, by decide, by decide, by decide, by decide, by decide⟩⟩

/-- A MEMC or `tlbinv` slot in mapped pages (base 0, span 0x1000) with quotas of 4096 and of none, with a pin and without; in a context that is
not privileged; a legal length, zero and one over 16 MiB; and an absent page. -/
def tlb4 : Tlb := { tlb1 with span := 0x1000 }
def wsc (tlb : List Tlb) (c : Ctx) (pins : List Pin) (t : Troupe) : State :=
  { at_ t 1 with ctxs := [(t.ctx, c)], keys := [(0, { loaded := true, key := 0 })], cores := [(0, { Core.init with tlb := tlb })],
                 units := [(0, { TileUnit.init with l1 := { TileUnit.init.l1 with pins := pins } })] }

theorem quiet_wsc (tlb : List Tlb) (c : Ctx) (pins : List Pin) (t : Troupe) (hh : t.spec.held = []) :
    Quiet (wsc tlb c pins t) 0 :=
  ⟨done_of rfl rfl (mem_one ⟨rfl, rfl⟩) rfl (mem_one rfl) (mem_one hh), rfl⟩

theorem cacheReady (tlb : List Tlb) (c : Ctx) (pins : List Pin) (t : Troupe) (h : t.handler = false) (hs : t.spec.sketches = [])
    (hl : t.threads.length = 16) (hh : t.spec.held = []) : CacheReady (wsc tlb c pins t) (foc t 1) t :=
  ⟨⟨rfl, rfl, hl⟩, by show (1#16) ≠ 0; decide, ⟨h, hs, by show (0 : Nat) < 8; decide⟩, rfl,
   by have h : (foc t 1).troupe = 0 := rfl
      rw [h]
      exact quiet_wsc tlb c pins t hh,
   fun p hp => by cases hp⟩

theorem witness_CacheSlotsActOnLinesAndPages :
    let c : Ctx := { Ctx.init with ptroot := 0x1001 }
    let t : Troupe := { wt with g := [(0, 0x40), (1, 64)] }
    let pin1 : Pin := { ctx := 0, line := 0x400040 / 128, way := 0 }
    CacheReady (wsc [tlb4] c [] t) (foc t 1) t ∧ CacheReady (wsc [tlb4] c [pin1] t) (foc t 1) t ∧
      CacheReady (wsc [] c [] { t with ctx := 16 }) (foc { t with ctx := 16 } 1) { t with ctx := 16 } ∧ UName 32 ∧ UName 33 ∧
      gVal (foc t 1) 32 = 0x40 ∧ gVal (foc t 1) 33 = 64 ∧
      Mapped (wsc [tlb4] c [] t) (foc t 1) t 0x40 tlb4 ∧ Mapped (wsc [tlb4] c [pin1] t) (foc t 1) t 0x40 tlb4 ∧
      (∃ lv s₁, translateEa (wsc [] c [] t) 0 0 0x40 .read = (.absent lv, s₁)) ∧
      ((64 : Nat) / 2 ^ 32 = 0 ∧ 1 ≤ (64 : Nat) ∧ tlb4.span % 4096 = 0 ∧ tlb4.base % 4096 = 0 ∧ tlb4.pa % 4096 = 0 ∧
        0x400040 / 128 = (tlb4.pa + (0x40 - tlb4.base)) / 128 ∧ tlb4.base % tlb4.span = 0 ∧ 0x40 % 128 + 64 ≤ 128) ∧
      (pinsHeld (wsc [tlb4] c [] t) 0 < c.pinQuota.toNat ∧ pinsHeld (wsc [tlb4] { c with pinQuota := 0 } [] t) 0 = 0 ∧
        ((wsc [tlb4] c [] t).tile 0).l1.sched = none ∧ ((wsc [tlb4] c [pin1] t).tile 0).l1.pins = [pin1] ∧ pin1.ctx = t.ctx) ∧
      (let m : State := wsc [tlb4] c [] t
       min (physNat m 0 0x1000 2) 256 = 0 ∧ memFault m 0x1000 16 = none ∧ (scheduleOf (physList m 0 0x1000 16)).isSome = true) ∧
      (∀ p, p ∈ (wsc [tlb4] c [] t).units → p.2.partials = []) ∧ t.replay = [] ∧ (2 : Nat) ^ 18 / 2 ^ 18 ≠ 0 ∧
      (let f : Focus := { foc t 1 with acted := true }
       At { wsc [tlb4] c [] t with focus := some f } f t ∧ f.run ≠ 0 ∧ Plain t ∧ f.acted = true) := by
  refine ⟨cacheReady _ _ _ _ rfl rfl rfl rfl, cacheReady _ _ _ _ rfl rfl rfl rfl, cacheReady _ _ _ _ rfl rfl rfl rfl, .inl (.inl (by decide)), .inl (.inl (by decide)), by decide, by decide,
    ⟨rfl, by decide, by decide, rfl, by decide, by decide, rfl, rfl, rfl, by decide⟩,
    ⟨rfl, by decide, by decide, rfl, by decide, by decide, rfl, rfl, rfl, by decide⟩, absent_of (by decide +kernel), by decide, ⟨by decide, by decide, rfl, rfl, rfl⟩,
    by decide +kernel, mem_one rfl, rfl, by decide, ⟨⟨rfl, rfl, rfl⟩, by decide, ⟨rfl, rfl⟩, rfl⟩⟩

/-- A troupe at 4096 of a kernel in one frame: three adds and a float add of `z`, the last three of them, the same at a split; outside its kernel; waits that end and
that do not; an arrival of one word. -/
def wtb : Troupe := { wt with pc := 4096, text := 4096, segs := 1 }
def wsb (t : Troupe) (ws : List Word) : State :=
  { at_ t 1 with focus := none, cores := [(0, { Core.init with frames := [{ ctx := 0, text := 4096, seg := 0, words := ws }] })],
                 parts := [(0, { running := true, ctx := 0, rows := 1, refused := none, holds := [] })] }
def adds4 : List Word := [0x0B8E3800, 0x0B8E3800, 0x0B8E3800, 0xA38E3800]

theorem mayFetch_wsb (t : Troupe) (l : List Word) (h : t.handler = false) (hs : t.spec.sketches = []) (ha : t.late = []) (hb : t.async = [])
    (hr : t.surfaced = false) (hf : t.fell = false) (hp : t.pc = 4096) (ht : t.text = 4096) (hc : t.ctx = 0) (hn : t.segs = 1)
    (hq : t.threads = wt.threads) : MayFetch (wsb t l) 0 t :=
  ⟨rfl, ⟨h, hs⟩, ⟨ha, hb, hr⟩, by
     rw [hq]
     intro th hth
     have h1 := List.eq_of_mem_replicate hth
     subst h1
     decide,
   ⟨hf, by simp [inKernel, hp, ht, hn]⟩, ⟨_, rfl, by rw [hc], by rw [ht], by rw [hp, ht], rfl⟩⟩

theorem witness_BundlesIssueAndResultsArrive :
    let sp : Split := { slot := 1, pass := 1, redo := 0, op := none, preds := List.replicate 16 5, scopesel := 7, answer := none }
    (MayFetch (wsb wtb adds4) 0 wtb ∧ legalBundle (wordAt (wsb wtb adds4) 0 wtb 4096) = true ∧ wtb.split = none ∧
      MayFetch (wsb { wtb with split := some sp } adds4) 0 { wtb with split := some sp } ∧ wtb.origins = [] ∧
      MayFetch (wsb wtb (adds4.drop 1)) 0 wtb ∧ legalBundle (wordAt (wsb wtb (adds4.drop 1)) 0 wtb 4096) = false ∧
      guardOf (wsb wtb (adds4.drop 1)) 0 wtb = none ∧ wtb.active ≠ 0) ∧
    (inKernel { wtb with pc := 8192 } 8192 = false ∧ inKernel { wtb with pc := 4092 } 4092 = false ∧ inKernel { wtb with pc := 8191 } 8191 = true) ∧
    (∀ l : List Out, let t : Troupe := { wtb with wait := some (.header 0x800), outs := l }
      (wsb t []).troupe 0 = some t ∧ t.halt ≠ .halted ∧ t.stopped = false ∧ kfind (wsb t []).holds 0 = none ∧ unitServes (wsb t []) 0 0 = true) ∧
    (0x800#12).getLsbD 11 = true ∧
    (∀ c : Nat, let f : Focus := foc wtb 1
      let t : Troupe := { wtb with wait := some (.until c) }
      let s : State := { wsb t [] with holds := [(0, { focus := f, wait := .until c })] }
      s.troupe 0 = some t ∧ kfind s.holds 0 = some { focus := f, wait := .until c } ∧ s.now = 100) ∧
    (let t : Troupe := { wtb with outs := [{ op := 5, flag := 0, pend := 1 }], threads := List.replicate 16 { Thread.init with qs := [(3, [⟨.reserved 9, false, false⟩])] } }
     let a : Arrival := { troupe := 0, gen := 0, op := 5, fills := [{ thread := 15, queue := 3, id := 9, val := .word 8 }], gdst := none, fp := 0, last := true }
     (wsb t []).genOf 0 = a.gen ∧ (wsb t []).troupe 0 = some t ∧ t.drains = false ∧ 15 < t.threads.length ∧
       (∀ e, e ∈ (t.thread 15).queue 3 → ∀ c v, e.pos ≠ .timed 9 c v) ∧ { a with gen := 1 }.gen ≠ (wsb t []).genOf 0) := by
  refine ⟨⟨mayFetch_wsb _ _ rfl rfl rfl rfl rfl rfl rfl rfl rfl rfl rfl, by decide +kernel, rfl, mayFetch_wsb _ _ rfl rfl rfl rfl rfl rfl rfl rfl rfl rfl rfl, rfl,
      mayFetch_wsb _ _ rfl rfl rfl rfl rfl rfl rfl rfl rfl rfl rfl, by decide +kernel, by decide +kernel, by decide⟩, ⟨by decide, by decide, by decide⟩,
    fun l => ⟨rfl, by show Halt.running ≠ Halt.halted; decide, rfl, rfl, rfl⟩, by decide, fun c => ⟨rfl, rfl, rfl⟩, ⟨rfl, rfl, rfl, by decide, ?_, by decide⟩⟩
  intro e he c v h
  have he : e ∈ [(⟨.reserved 9, false, false⟩ : Entry)] := he
  rw [List.mem_singleton] at he
  rw [he] at h
  cases h

/-- The window of queue 1 of thread 0 of troupe 0, open, with one word; a push with room, one behind another, a load, and scratch. -/
theorem witness_WindowsReachQueuesAndScratch :
    let t : Troupe := { wt with wopen := 2 }
    let s : State :=
      { at_ t 1 with cores := [(0, { Core.init with gens := [(0, 3)] })],
                     parts := [(0, { running := true, ctx := 0, rows := 1, refused := none, holds := [] })] }
    let p : PushReq := { ctx := 0, addr := 4, words := [7, 8], gen := 3 }
    let held (n : Nat) : State := { s with cores := [(0, { Core.init with gens := [(0, 3)], pushes := [{ p with words := List.replicate n 7 }] })] }
    let w : WinReq := { ctx := 0, addr := 4, store := false, size := 4, data := 0, troupe := 0, thread := 0, queue := 3, id := 0 }
    Names s p.ctx p.addr 0 0 1 t ∧ s.genOf 0 = p.gen ∧ p.gen < 16 ∧ waitingPushes s (coreOf 0) = [] ∧
      ((t.thread 0).queue 1).length + p.words.length ≤ 4 ∧ ¬ ((t.thread 0).queue 1).length + 4 ≤ 4 ∧
      (∀ n, waitingPushes (held n) (coreOf 0) = { p with words := List.replicate n 7 } :: [] ∧ Names (held n) 0 4 0 0 1 t) ∧ s.genOf 0 ≠ 2 ∧ windowFar s (2 ^ 36) = false ∧
      (∀ tk i q u, ¬ Names s 0 (2 ^ 36) tk i q u) ∧ (∀ k u, s.troupe k = some u → u.threads.length = 16) ∧
      (s.troupe w.troupe = some t ∧ w.thread < t.threads.length) ∧
      windowScratch s 0 0x8000020 = some (0, 0x20) ∧ s.badScr = [] ∧ windowScratch s 1 0x8000020 = none := by
  refine ⟨⟨by decide, by decide, rfl, rfl, rfl, rfl, rfl, rfl, rfl, by decide, rfl⟩, rfl, by decide, rfl, by decide, by decide,
    fun n => ⟨rfl, ⟨by decide, by decide, rfl, rfl, rfl, rfl, rfl, rfl, rfl, by decide, rfl⟩⟩, by decide, by decide, fun tk i q u h => absurd h.1 (by decide), ?_,
    ⟨rfl, by decide⟩, by decide +kernel, rfl, by decide +kernel⟩
  · intro k u h
    have h : (if 0 = k then some ({ wt with wopen := 2 } : Troupe) else none) = some u := h
    split at h
    · cases h; rfl
    · cases h

/-- A pick from a list with an entry is one of its entries. -/
theorem pick_some {α : Type} (l : List α) (x : Nat) (h : 0 < l.length) : ∃ r, r ∈ l ∧ l[x % max 1 l.length]? = some r := by
  have hi : x % max 1 l.length < l.length := by
    have : x % max 1 l.length < max 1 l.length := Nat.mod_lt _ (by omega)
    omega
  exact ⟨l[x % max 1 l.length], List.getElem_mem hi, List.getElem?_eq_getElem hi⟩

/-- Tables down to a 4 KiB leaf of page 0x400 for loads and stores. -/
def tables4 : Memory :=
  [(0x1000, 1), (0x1001, 0x20), (0x2000, 1), (0x2001, 0x30), (0x3000, 1), (0x3001, 0x40), (0x4000, 1), (0x4001, 0x50), (0x5000, 0x1B), (0x5002, 0x40)]

/-- A troupe with one replay entry; an ensemble whose one troupe is still; one that has swapped out of guide cluster 288. -/
def wtp1 (l : List Replay) : Troupe := { wt with replay := l }
def ldA : Act := .load 0x40 2 1 0 0 [0] false
def stA : Act := .store 0x40 2 1 9 true none
def sto (t : Troupe) (e : Ensemble) : State := { ws with troupes := [(0, t)], enss := [(1, e)], focus := none }
def still1 : Ensemble := { ens1 with size := 3, desc := { Desc.init with scratch := 1 } }

theorem still_sto (t : Troupe) (e : Ensemble) (h : Plain t) (he : e.troupes = [0]) (hu : e.unit = 0) (hr : t.stopped = false ∧ t.wait = none)
    (hj : e.joins = []) (hh : t.spec.held = []) : Still (sto t e) 1 0 e t :=
  ⟨rfl, he, rfl, h, rfl, hr, by rw [hu]; exact ⟨done_of rfl rfl (fun p h => by cases h) rfl (mem_one hj) (mem_one hh), rfl⟩, fun p h => (by cases h),
   fun p h => (by cases h), rfl, by rw [hu]; exact ⟨rfl, rfl, rfl⟩, rfl, fun c h => (by cases h)⟩

def sve1 : SavedEns :=
  { ens := { still1 with unit := 288, size := 1, naccs := 0 }, troupes := [(0, wt)], scratch := [], banks := [], holds := [], ops := [], tracked := [], first := 1,
    units := 2, since := 0, ready := some 50 }
def wsr : State :=
  { ws with troupes := [], enss := [], saved := [(1, sve1)], comps := [(1, cmp1)], focus := none,
            parts := [(0, { running := true, ctx := 0, rows := 2 ^ 24, refused := none, holds := [] })] }
def wtr1 : Waiter :=
  { readmit := true, key := 1, prio := 0, cls := 0, age := 0, since := 50, rows := 2 ^ 24, room := savedRoom sve1 }
def rooms1 (s : State) (w : Waiter) : List (Nat × List Nat × Nat) :=
  (unitsIn (w.rows &&& rowsOf s 0)).filterMap (fun u =>
    if Nat.testBit (closedRows s 0 w) (rowOfUnit u) || (s.comps.flatMap (fun p => unitsHeld s p.2)).contains u then none
    else (unitRoom s u w.room).map (fun r => (u, r.1, r.2)))

theorem savedPlace_wsr : ∃ u k base, savedPlace wsr 1 = some (sve1, 0, u, [k], base) := by
  obtain ⟨r, hr, he⟩ := pick_some (rooms1 wsr wtr1) (Config.pick wsr.draws) (by decide +kernel)
  have hs : ∀ r ∈ rooms1 wsr wtr1, r.2.1.length = 1 := by decide +kernel
  have h1 := hs r hr
  have h2 : savedPlace wsr 1 = ((rooms1 wsr wtr1)[Config.pick wsr.draws % max 1 (rooms1 wsr wtr1).length]?).map (fun r => (sve1, 0, r)) := rfl
  obtain ⟨u, l, b⟩ := r
  obtain ⟨k, hk⟩ := List.length_eq_one_iff.mp h1
  simp only at hk
  exact ⟨u, k, b, by rw [h2, he, hk]; rfl⟩

theorem witness_WalksReplaysGapsAndSwapsAct :
    (let s : State := { ws with ctxs := [(0, { Ctx.init with ptroot := 0x1001 })] }
     (s.ctx 0).ptroot.getLsbD 0 = true ∧ physNat s 0 (0x1000 + 8 * (0x40 / 2 ^ 48 % 512)) 8 % 2 = 0 ∧
       (let s : State := { s with mem := tables4 }
        physNat s 0 0x1000 8 = 4096 * 2 + 1 ∧ physNat s 0 0x2000 8 = 4096 * 3 + 1 ∧ physNat s 0 0x3000 8 = 4096 * 4 + 1 ∧
          physNat s 0 0x4000 8 = 4096 * 5 + 1 ∧ physNat s 0 0x5000 8 = 3 + 8 * 1 + 16 * 1 + 4096 * 0x400 ∧
          ∀ a ∈ [0x1000, 0x2000, 0x3000, 0x4000, 0x5000], memFault s a 8 = none)) ∧
    (let t := wtp1 [{ thread := 0, faults := 1, act := ldA }]
     (sto t ens1).troupe 0 = some t ∧ t.woken = false) ∧
    (let t := { wtp1 [{ thread := 0, faults := 255, act := ldA }] with woken := true }
     let s : State := { sto t ens1 with ctxs := [(0, { Ctx.init with ptroot := 0x1001 })] }
     s.troupe 0 = some t ∧ Plain t ∧ StoresDone s 0 ∧ t.woken = true ∧ (0x40 : Nat) % 2 ^ 2 = 0 ∧ (∃ l s₁, translateEa s 0 0 0x40 .read = (.absent l, s₁)) ∧
       (s.ctx 0).pfring.toNat / 2 ^ 12 % 2 ^ 44 = 0) ∧
    (let t := { wtp1 [{ thread := 0, faults := 255, act := stA }] with woken := true }
     let s : State := { sto t ens1 with mem := tables, keys := [(0, { loaded := true, key := 0 })], ctxs := [(0, { Ctx.init with ptroot := 0x1001 })], cores := [(0, { Core.init with tlb := [tlb1] })] }
     s.troupe 0 = some t ∧ Plain t ∧ Quiet s 0 ∧ t.woken = true ∧ t.surfaced = false ∧ (∃ pm s₁, translateEa s 0 0 0x40 .write = (.ok 0x400040 0 pm, s₁))) ∧
    (∀ e, e ∈ ws.sections → e.gapStart = none) ∧
    (let t : Troupe := { wt with threads := List.replicate 16 { Thread.init with qs := [(0, [⟨.filled 5 false, false, false⟩, ⟨.filled 7 false, false, false⟩])] } }
     let e : Section := { ctx := 0, key := 5, e := 6, held := false, holder := 0, abandoned := false, gapStart := some 1, spilled := none }
     let f : Focus := foc t 1
     let s : State := { at_ t 1 with now := 2000000, sections := [e], holds := [(0, { focus := f, wait := .osenter [(0, 5, 7)] })], focus := none }
     s.troupe 0 = some t ∧ t.threads.length = 16 ∧ Plain t ∧ f.latch.ctx = e.ctx ∧ t.ctx = e.ctx ∧ f.sent = [] ∧ e.abandoned = false ∧ f.k < 8 ∧ Alone f 0 ∧
       (s.ctx 0).ctxcfg.toNat / 2 ^ 24 % 2 ^ 16 = 1000 ∧ 1 + 1800 * 1000 < s.now ∧ (7 : Word) ≠ e.e ∧ ((7 : Word) - e.e).toNat < 2 ^ 31 ∧
       f.word = 0 ∧ f.troupe = 0 ∧ (enterFields 0).a = 0 ∧ (enterFields 0).b = 0 ∧
       (∃ m th, readSrc f (f.issue + 0) 0 (t.thread 0) 0 false = .ok (.narrow 5, m) ∧ readSrc f (f.issue + 0) 0 m 0 false = .ok (.narrow 7, th))) ∧
    (let t : Troupe := { wtp1 [{ thread := 0, faults := 1, act := ldA }] with parkedAt := some 0 }
     Still (sto t still1) 1 0 still1 t ∧ t.halt ≠ .halted ∧ still1.size = 3 ∧ t.replay ≠ [] ∧
       (let s : State := { sto t still1 with now := 72001 }
        0 < parkT s 0 ∧ 0 + parkT s 0 < s.now ∧ ¬ 0 + parkT s 0 < 72000)) ∧
    (let t : Troupe := { wt with parkedAt := some 0 }
     Still (sto t still1) 1 0 still1 t ∧ t.replay = []) ∧
    (let s : State := { sto wt still1 with ctxs := [(0, { Ctx.init with swparea := 8 })] }
     Still (sto wt still1) 1 0 still1 wt ∧ still1.desc.barriers = 0 ∧ still1.banks = [] ∧ s.memOk = true ∧
       saveRun s 0 ((saveBytes s still1 + 65535) / 65536) = some 1) ∧
    savedPlace ws 1 = none ∧
    ((∃ u k base, savedPlace wsr 1 = some (sve1, 0, u, [k], base)) ∧ sve1.troupes = [(0, wt)] ∧ (∀ k, wsr.troupe k = none) ∧ wsr.memOk = true ∧
      Memory.wf sve1.scratch = true ∧ (∀ c, c ∈ sve1.scratch → c.1 < 65536 * sve1.ens.count) ∧ wt.replay = []) := by
  refine ⟨⟨by decide, by decide +kernel, by decide +kernel⟩, ⟨rfl, rfl⟩,
    ⟨rfl, ⟨rfl, rfl⟩, done_of rfl rfl (fun p h => by cases h) rfl (mem_one rfl) (mem_one rfl), rfl, by decide, absent_of (by decide +kernel), by decide⟩,
    ⟨rfl, ⟨rfl, rfl⟩, ⟨done_of rfl rfl (mem_one ⟨rfl, rfl⟩) rfl (mem_one rfl) (mem_one rfl), rfl⟩, rfl, rfl, ⟨_, _, rfl⟩⟩, fun e h => (by cases h),
    ⟨rfl, rfl, ⟨rfl, rfl⟩, rfl, rfl, rfl, rfl, by decide, ⟨by decide, rfl⟩, by decide, by decide, by decide, by decide, rfl, rfl, rfl, rfl, ⟨_, _, rfl, rfl⟩⟩,
    ⟨still_sto _ _ ⟨rfl, rfl⟩ rfl rfl ⟨rfl, rfl⟩ rfl rfl, by decide, rfl, by decide, by decide⟩,
    ⟨still_sto _ _ ⟨rfl, rfl⟩ rfl rfl ⟨rfl, rfl⟩ rfl rfl, rfl⟩, ⟨still_sto _ _ ⟨rfl, rfl⟩ rfl rfl ⟨rfl, rfl⟩ rfl rfl, rfl, rfl, by decide, by decide +kernel⟩, rfl,
    ⟨savedPlace_wsr, rfl, fun k => rfl, by decide, by decide, fun c h => (by cases h), rfl⟩⟩

/-- A company of two ensembles of two troupes on the guide row, and room for its next. -/
def cmpg : Company := { cmp1 with desc := { Desc.init with place := 2 ^ 24, troupes := 2, scratch := 1 }, next := 0, total := 2 }
def wsn : State :=
  { ws with troupes := [], enss := [], comps := [(1, cmpg)], focus := none,
            parts := [(0, { running := true, ctx := 0, rows := 2 ^ 24, refused := none, holds := [] })] }
def wtrn : Waiter :=
  { readmit := false, key := 1, prio := 0, cls := 2, age := 0, since := 0, rows := 2 ^ 24, room := roomOf cmpg.desc }

theorem companyRoom_wsn : ∃ u l base, companyRoom wsn 1 = some (cmpg, u, l, base) ∧ l.Nodup := by
  obtain ⟨r, hr, he⟩ := pick_some (rooms1 wsn wtrn) (Config.pick wsn.draws) (by decide +kernel)
  have hs : ∀ r ∈ rooms1 wsn wtrn, r.2.1.Nodup := by decide +kernel
  have h2 : companyRoom wsn 1 = ((rooms1 wsn wtrn)[Config.pick wsn.draws % max 1 (rooms1 wsn wtrn).length]?).map (fun r => (cmpg, r)) := rfl
  exact ⟨r.1, r.2.1, r.2.2, by rw [h2, he]; rfl, hs r hr⟩

/-- The sequencer with the records of its partitions at 0x8000, the one of partition 0 as given: EN and the other bits of byte 6, its
context and its block, at 0x9000 (LOG 4, ACTIVE) or none. -/
def recMem (flags ctx qhead : Nat) : Memory :=
  writeNat (writeNat (writeNat (writeNat (writeNat (writeNat [] 0x8000 4 1) 0x8004 2 ctx) 0x8006 1 flags) 0x8008 8 qhead) 0x9008 1 4) 0x9009 1 1
def prt (running : Bool) : Part := { running := running, ctx := 0, rows := 1, refused := none, holds := [] }
def wsq (m : Memory) (ps : KV Part) : State :=
  { ws with troupes := [], enss := [], focus := none, seqEn := true, ptbase := 0x8000, mem := m, parts := ps, shovf := 300 }
def recBytes (flags ctx qhead : Nat) (ps : KV Part) : List Byte := physList (wsq (recMem flags ctx qhead) ps) 0 0x8000 64

theorem hasRecord_wsq (f c q : Nat) (ps : KV Part) : HasRecord (wsq (recMem f c q) ps) 0 (recBytes f c q ps) :=
  ⟨by
    have h : memFault (wsq [] []) 0x8000 64 = none := by decide +kernel
    have hl : ∀ n, lineFault (wsq (recMem f c q) ps) n = lineFault (wsq [] []) n := fun _ => rfl
    have hw : ∀ a n, wordBad (wsq (recMem f c q) ps) a n = wordBad (wsq [] []) a n := fun _ _ => rfl
    show memFault (wsq (recMem f c q) ps) 0x8000 64 = none
    simp only [memFault, hl, hw] at h ⊢
    exact h, rfl, fun _ _ _ => rfl, by show (0x8000 : Dword).toNat % 1024 = 0; decide, by show (0x8000 : Dword).toNat < 2 ^ 56; decide⟩

theorem takes_wsq (c q : Nat) (ps : KV Part)
    (h : (partRec (recBytes 1 c q ps)).en = true ∧ (partRec (recBytes 1 c q ps)).legal = true ∧
      rowsReady (wsq (recMem 1 c q) ps) (partRec (recBytes 1 c q ps)).rows = true ∧
      ∀ k, k < 16 → k ≠ 0 → (readPart (wsq (recMem 1 c q) ps) k).map (fun r => r.en) = some false) :
    Takes (wsq (recMem 1 c q) ps) 0 (recBytes 1 c q ps) := by
  refine ⟨hasRecord_wsq _ _ _ _, h.1, h.2.1, h.2.2.1, ?_, rfl⟩
  intro k hk h0 r hr
  have := h.2.2.2 k hk h0
  rw [hr] at this
  simpa using this

theorem witness_SequencerAdmitsAndRetires :
    companyRoom ws 1 = none ∧ ((∃ u l base, companyRoom wsn 1 = some (cmpg, u, l, base) ∧ l.Nodup) ∧ cmpg.parent = none) ∧
    (let s (n : Nat) : State := { wsn with now := n }
     (∀ n, (s n).saved = [] ∧ waitersIn (s n) 0 = [wtrn]) ∧ (s 179999).now < wtrn.since + 180000 ∧ wtrn.since + 180000 ≤ (s 180000).now) ∧
    (∃ bs, (virtFetch { wsm 0 with cores := [] } 0 0 (4096 + 4096 * 0) 4096).1 = .ok bs) ∧
    (let s : State := { wsb wtb [] with cores := [] }
     (s.core 0).frames = [] ∧ (∃ e, (virtFetch s 0 0 (4096 + 4096 * 0) 4096).1 = .error e ∧ e.kind ≠ 3) ∧ s.troupes = [(0, wtb)] ∧ Plain wtb ∧
       needsSegment s 0 wtb = true ∧ segmentOf wtb = (0, 4096, 0) ∧ wtb.active ≠ 0) ∧
    (let s (n : Nat) : State := { ws with enss := [(1, { ens1 with exited := n })], comps := [(1, cmp1)] }
     ((s 0).ens 1 = some { ens1 with exited := 0 } ∧ (0 : Nat) < ens1.size) ∧ retirable (s 1) 1 { ens1 with exited := 1 } = true ∧ Quiet (s 1) 0 ∧
       (s 1).comp ens1.comp = some cmp1 ∧ ((s 1).tile 0).rtab = [] ∧ ens1.joins = [] ∧ ens1.banks = []) ∧
    (let c : Company := { cmp1 with parent := some 2, retired := 1 }
     let q : Company := { cmp1 with kids := [{ comp := 1, status := none }] }
     let s : State := { ws with comps := [(1, c), (2, q)] }
     s.comp 1 = some c ∧ c.total ≤ c.retired ∧ c.kids = [] ∧ c.desc.done = 0 ∧ s.comp 2 = some q ∧ cmp1.retired < cmp1.total) ∧
    (let c : Company := { cmp1 with retired := 1, desc := { Desc.init with done := 0x48 } }
     let s : State := { wsm 0 with comps := [(1, c)] }
     s.comp 1 = some c ∧ c.total ≤ c.retired ∧ c.desc.done ≠ 0 ∧ c.desc.done.toNat % 8 = 0 ∧ s.storeQ = [] ∧ (s.tile (noCore / 4)).partials = [] ∧
       (∃ pm, (walkTranslate s noCore 0 0x48 .write).1 = .ok 0x400048 0 pm) ∧ inBlocks 0x400048 = false ∧ memFault s 0x400048 8 = none ∧ Held s 0 0x400048 8) ∧
    ws.seqEn = false ∧
    ((∀ f c q ps, HasRecord (wsq (recMem f c q) ps) 0 (recBytes f c q ps)) ∧ (wsq (recMem 1 0 0) []).memOk = true ∧
      (partRec (recBytes 0 0 0 [])).en = false ∧ (partRec (recBytes 9 0 0 [])).en = true ∧ (partRec (recBytes 9 0 0 [])).legal = false ∧
      (Takes (wsq (recMem 1 0 0) []) 0 (recBytes 1 0 0 []) ∧ (partRec (recBytes 1 0 0 [])).qhead = 0 ∧ (wsq (recMem 1 0 0) []).rowCtx = [] ∧
        (wsq (recMem 1 0 0) []).savedUnits = []) ∧
      (Takes (wsq (recMem 1 3 0) [(0, prt true)]) 0 (recBytes 1 3 0 [(0, prt true)]) ∧ (prt true).ctx ≠ (partRec (recBytes 1 3 0 [(0, prt true)])).ctx ∧ (prt true).incoming = none) ∧
      (let ps : KV Part := [(0, prt true)]
       let s := wsq (recMem 1 0 0x9000) ps
       let r := partRec (recBytes 1 0 0x9000 ps)
       let blk := physList s 0 0x9000 64
       Takes s 0 (recBytes 1 0 0x9000 ps) ∧ (prt true).ctx = r.ctx ∧ (prt true).rows = r.rows ∧ r.qhead = 0x9000 ∧ memFault s 0x9000 64 = none ∧
         Held s 0 0x9000 64 ∧ blockLegal blk = true ∧ leAt blk 9 1 = 1 ∧ leAt blk 16 8 = leAt blk 24 8 ∧ leAt blk 32 8 = 0 ∧ s.tails = [])) ∧
    (let s := wsq (recMem 1 3 0) [(0, prt true)]
     s.savedUnits = [] ∧ s.rowCtx = [] ∧ 300 ≤ s.shovf.toNat % 2 ^ 16 ∧ s.agenda = [] ∧ s.storeQ = [] ∧ s.waitQ = [] ∧ s.units = [] ∧ s.cores = [] ∧
       ∀ q, q ∈ s.troupes → stands q.2 = true) := by
  refine ⟨rfl, ⟨companyRoom_wsn, rfl⟩, ⟨fun n => ⟨rfl, rfl⟩, by decide, by decide⟩, ?_,
    ⟨rfl, ?_, rfl, ⟨rfl, rfl⟩, by decide +kernel, rfl,
     by decide⟩,
    ⟨⟨rfl, by decide⟩, by decide +kernel, ⟨done_of rfl rfl (fun p h => by cases h) rfl (mem_one rfl) (mem_one rfl), rfl⟩, rfl, rfl, rfl, rfl⟩, ⟨rfl, by decide, rfl, rfl, rfl, by decide⟩,
    ⟨rfl, by decide, by decide, by decide, rfl, rfl, ?_, by decide, by decide +kernel, fun _ _ _ => rfl⟩, rfl,
    ⟨hasRecord_wsq, by decide, by decide +kernel, by decide +kernel, by decide +kernel, ⟨takes_wsq _ _ _ (by decide +kernel), by decide +kernel, rfl, rfl⟩,
      ⟨takes_wsq _ _ _ (by decide +kernel), by decide +kernel, rfl⟩,
      ⟨takes_wsq _ _ _ (by decide +kernel), by decide +kernel, by decide +kernel, by decide +kernel, by decide +kernel, fun _ _ _ => rfl, by decide +kernel,
       by decide +kernel, by decide +kernel, by decide +kernel, rfl⟩⟩,
    ⟨rfl, rfl, by decide, rfl, rfl, rfl, rfl, rfl, fun q h => (by cases h)⟩⟩
  · obtain ⟨s₁, h, _⟩ := virtFetch_page (s := { wsm 0 with cores := [] }) (core := 0) (ctx := 0) (ea := 4096 + 4096 * 0) (n := 4096)
      (pa := 0x401000) (key := 0) (pm := false) (fun p h => by cases h) (by decide +kernel) (by decide) (by decide) rfl (by decide) (by decide +kernel)
    exact ⟨_, by rw [h]⟩
  · have h : ∃ e, (virtFetch { wsb wtb [] with cores := [] } 0 0 (4096 + 4096 * 0) 4096).1 = .error e ∧ e.kind ≠ 3 :=
      (error_such (fun e => e.kind != 3) (by decide +kernel)).imp (fun _ h => ⟨h.1, by simpa using h.2⟩)
    exact h
  · rw [(walkTranslate_answer (fun p h => by cases h) _ _ _ _).1]
    exact gives_of (by decide +kernel)

/-- A timetable of one ensemble of company 1, as given. -/
def tt1 : Timetable :=
  { addr := 0x100, rev := 1, steps := [aStep 10000 0, aStep 10000 2, aStep 10000 1, aStep 10000 0], deadline := 44000, margin := 2000, place := [],
    mesh := [], bridge := [], slipOff := 64, slipCap := 4, slipCnt := 0, frame := 3, start := 1000, step := 0, released := false,
    held := false, dropped := [], switched := [], done := [], finished := false, missed := false, overrun := false, admitted := true, waiting := false,
    phases := [], zero := 0 }
def cmpt (tt : Timetable) (ctx : Nat) : Company := { cmp1 with ctx := ctx, tt := some tt }
def wst (tt : Timetable) (ctx now : Nat) (outs : KV Output) : State :=
  { ws with now := now, comps := [(1, cmpt tt ctx)], frame := { FrameBlock.init with en := true }, outputs := outs,
            parts := [(0, { running := true, ctx := ctx, rows := 1, refused := none, holds := [] })] }

theorem timed_wst (tt : Timetable) (ctx now : Nat) (outs : KV Output) (h : tt.admitted = true) :
    Timed (wst tt ctx now outs) 1 (cmpt tt ctx) tt 1 ens1 :=
  ⟨rfl, rfl, h, rfl, by simp [compRuns, wst, cmpt, cmp1, kfind], rfl, rfl, by decide⟩

/-- An image, an output that is on, and frames that begin, end, complete a step and miss a deadline. -/
def img1 : Image := { width := 1, height := 1, format := 0, pixels := [7] }
def out1 (ps : List (Word × Image)) : Output := { Output.init with cfg := 0x0010000100000000, presents := ps }

theorem witness_FramesRunTimetables :
    ws.frame.en = false ∧
    (let s (outs : KV Output) : State := { ws with comps := [], outputs := outs, frame := { FrameBlock.init with en := true } }
     (∀ l, (s l).frame.en = true ∧ (s l).frame.lock = false ∧ (s l).comps = [] ∧ (s l).frame.number = 0 ∧ (s l).outputs = l ∧ (s l).frame.failed = []) ∧
       (∀ l, (out1 l).cfg.getLsbD 32 = true) ∧ (out1 [(0, img1)]).presents = [(0, img1)] ∧ (∀ p, p ∈ (out1 [(1, img1)]).presents → p.1 ≠ 0) ∧
       (∀ l, ((out1 l).cfg.extractLsb' 48 12).toNat = 16) ∧ (16, (0 : Word)) ∈ ({ FrameBlock.init with failed := [(16, 0)] } : FrameBlock).failed) ∧
    (let tt : Timetable := { tt1 with finished := true }
     let s := wst tt 0 1100 []
     s.frame.en = true ∧ s.frame.lock = false ∧ s.outputs = [] ∧ s.comps = [(1, cmpt tt 0)] ∧ tt.admitted = true ∧ compRuns s (cmpt tt 0) = true) ∧
    (tt1.finished = false ∧ allExited (wst tt1 0 1100 []) 1 = false) ∧
    (let f : FrameBlock := { FrameBlock.init with en := true, lock := true, master := 1 }
     let s (n : Nat) : State := { ws with frame := f, now := n }
     (s 0).frame.lock = true ∧ (s 0).frame.master ≠ (s 0).mgmt.deviceNo.toNat ∧ (s 1799999).now < f.lastMeasure + 1800000 ∧
       f.lastMeasure + 1800000 ≤ (s 1800000).now ∧ (90#32).toInt.natAbs ≤ 90 ∧ 90 < (-91 : Word).toInt.natAbs ∧ (-180 : Word).toInt.natAbs ≤ 180 ∧
       180 < (181#32).toInt.natAbs ∧ (-90 : Word).toInt.natAbs ≤ 90 ∧
       ((s 0).frame.en = true ∧ (s 0).mgmt.deviceNo.toNat < 1 ∧ 0 ≤ (s 0).mgmt.deviceNo.toNat)) ∧
    (∀ now outs, Timed (wst tt1 16 now outs) 1 (cmpt tt1 16) tt1 1 ens1 ∧
      Timed (wst { tt1 with released := true } 16 now outs) 1 (cmpt { tt1 with released := true } 16) { tt1 with released := true } 1 ens1) ∧
    (16 ≤ (cmpt tt1 16).ctx ∧ ((wst tt1 16 1000 []).tile (noCore / 4)).partials = [] ∧ tt1.steps[tt1.step]? = some (aStep 10000 0) ∧ tt1.released = false ∧ (aStep 10000 0).release = 0 ∧ tt1.slipOff ≠ 0 ∧
      tt1.start ≤ 1000 ∧ (1000 : Nat) - tt1.start = 0 ∧ 0 < 1001 - tt1.start ∧
      (let x : TStep := { aStep 10000 0 with release := 5 }
       ({ tt1 with steps := [x] } : Timetable).steps[0]? = some x ∧ 1004 - tt1.start < x.release)) ∧
    (let p : KV (BitVec 16) := [(1, 5)]
     (ens1.bar 0).phases = 0 ∧ (5 : BitVec 16) ≠ (ens1.bar 0).phases ∧
       (let tt : Timetable := { tt1 with released := true, phases := p }
        tt.phases = [(1, 5)] ∧ (wst tt 0 11500 []).now - tt.start ≤ 10500 ∧ (wst tt 0 24000 []).now - tt.start = 23000 ∧
          Timed (wst tt 0 11500 []) 1 (cmpt tt 0) tt 1 ens1 ∧ Timed (wst { tt with phases := [(1, 0)] } 0 11500 []) 1
            (cmpt { tt with phases := [(1, 0)] } 0) { tt with phases := [(1, 0)] } 1 ens1 ∧
          (let u : Timetable := { tt with done := [(10500, 0)], step := 1 }
           Timed (wst u 0 24000 []) 1 (cmpt u 0) u 1 ens1) ∧
          (let u : Timetable := { tt with steps := [aStep 7 1] }
           Timed (wst u 0 24000 []) 1 (cmpt u 0) u 1 ens1))) ∧
    (let outs : KV Output := [(0, out1 [])]
     Timed (wst tt1 16 45000 outs) 1 (cmpt tt1 16) tt1 1 ens1 ∧ tt1.deadline ≤ (wst tt1 16 45000 outs).now - tt1.start ∧
       (wst tt1 16 44999 outs).now - tt1.start < tt1.deadline ∧ (tt1.frame - (wst tt1 16 45000 outs).frame.number).toNat < 2 ^ 31 ∧
       tt1.missed = false ∧ tt1.finished = false) := by
  refine ⟨rfl, ⟨fun l => ⟨rfl, rfl, rfl, rfl, rfl, rfl⟩, fun l => (by show (0x0010000100000000 : Dword).getLsbD 32 = true; decide), rfl, by decide,
      fun l => (by show ((0x0010000100000000 : Dword).extractLsb' 48 12).toNat = 16; decide), .head _⟩,
    ⟨rfl, rfl, rfl, rfl, rfl, rfl⟩, ⟨rfl, by decide⟩, ⟨rfl, by decide, by decide, by decide, by decide, by decide, by decide, by decide, by decide, by decide⟩,
    fun now outs => ⟨timed_wst _ _ _ _ rfl, timed_wst _ _ _ _ rfl⟩, by decide,
    ⟨by decide, by decide, rfl, by decide, by decide, timed_wst _ _ _ _ rfl, timed_wst _ _ _ _ rfl, timed_wst _ _ _ _ rfl, timed_wst _ _ _ _ rfl⟩,
    ⟨timed_wst _ _ _ _ rfl, by decide, by decide, by decide, rfl, rfl⟩⟩

/-- The management controller before and after each request, boot and join; a function whose stage has passed, and one in recovery; a drain
that a collective of the domain awaits; throttling that has ended; writes of the register blocks. -/
def wsv' (m : Mgmt) : State := { ws with mgmt := m }

theorem witness_ServicesActOnDevice :
    let img : BootImage := { digest := 5, version := Config.fusedVersion 1, rsaOk := true, slhOk := true }
    (ws.mgmt.matHold ≤ ws.now ∧ ws.mgmt.vecHold ≤ ws.now ∧ ws.now ≤ 200) ∧
    (let m : Mgmt := { Mgmt.init with recovery := true }
     (wsv' m).mgmt.recovery = true ∧ (wsv' Mgmt.init).mgmt.recovery = false ∧ (31 : Nat) ≠ 32 ∧ (32 : Nat) < 33) ∧
    (let m : Mgmt := { Mgmt.init with bootNext := Config.stageOf 31 + 1 }
     (wsv' m).mgmt.recovery = false ∧ Config.stageOf 31 < (wsv' m).mgmt.bootNext ∧ (wsv' Mgmt.init).mgmt.bootNext ≤ Config.stageOf 31) ∧
    (let x : Core := { Core.init with engines := [(3, [{ cmd1 with words := [0, 0, 0, 0, 0, 0, 0, 0, 0, 0, 4, 0, 0] }])] }
     let s : State := { wsv' { Mgmt.init with member := true, ready := 0x7FFFFFFFF } with cores := [(2, x)] }
     s.mgmt.drained = [] ∧ s.mgmt.member = true ∧ s.linked = true ∧ s.cores = [(2, x)] ∧
       headCmd s 2 3 = some { cmd1 with words := [0, 0, 0, 0, 0, 0, 0, 0, 0, 0, 4, 0, 0] } ∧ ∀ p, p ∈ ws.cores → headCmd ws p.1 3 = none) ∧
    (let m : Mgmt := { Mgmt.init with bootNext := 1 }
     m.recovery = false ∧ kfind m.firmware 1 = none ∧ img.rsaOk = true ∧ img.slhOk = true ∧ Config.fusedVersion 1 ≤ img.version ∧
       ({ img with slhOk := false } : BootImage).slhOk = false ∧ Mgmt.init.bootNext = 0) ∧
    (let m : Mgmt := { Mgmt.init with spdmVersion := true, spdmCaps := true, spdmAlgs := true, handshake := some 7, session := some 8 }
     m.spdmVersion = true ∧ m.spdmCaps = true ∧ m.spdmAlgs = true ∧ m.handshake = some 7 ∧ m.session = some 8 ∧ m.handshake ≠ some 8 ∧
       m.session ≠ some 7 ∧ Mgmt.init.spdmVersion = false ∧ Mgmt.init.spdmCaps = false ∧ Mgmt.init.spdmAlgs = false) ∧
    (let m : Mgmt := { Mgmt.init with member := true, drained := [3] }
     m.member = true ∧ m.deviceNo.toNat ∉ m.drained ∧ 3 ∈ m.drained ∧ 0 ∉ m.drained ∧ Mgmt.init.member = false ∧ Mgmt.init.drained = []) ∧
    ((0xFFFFFE00004000 : Nat) ≤ 0xFFFFFE00004000 ∧ ws.seqEn = false ∧ (1 : Dword).getLsbD 0 = true ∧ ws.frame.en = false ∧
      (0x100000000 : Dword).getLsbD 32 = true ∧ (wst tt1 0 0 []).frame.en = true) :=
  ⟨by decide, by decide, ⟨rfl, Nat.lt_succ_self _, Nat.zero_le _⟩, ⟨rfl, rfl, by decide, rfl, by decide, fun _ h => (by cases h)⟩,
   ⟨rfl, rfl, rfl, rfl, Nat.le_refl _, rfl, rfl⟩, by decide, by decide, by decide⟩

theorem selects_dbg {s : State} {u : Troupe} (hd : s.dbg = { Debug.init with en := true }) (ht : s.troupe 0 = some u) (hc : u.ctx = 0)
    (hl : u.threads.length = 16) : Selects s 0 0 u :=
  ⟨by rw [hd], by rw [hd]; decide, by rw [hd]; decide, by rw [hd]; decide, ht, by rw [hd]; exact hc, hl⟩

/-- A halted troupe with a filled, a reserved and a tagged position, and a running one, under the debug block. -/
theorem witness_DebuggerReadsAndWrites :
    (∀ h : Halt, ∀ p : Pos,
      let t : Troupe := { wt with halt := h, threads := List.replicate 16 { Thread.init with qs := [(0, [⟨p, false, false⟩])] } }
      let s : State := { at_ t 1 with dbg := { Debug.init with en := true } }
      Selects s 0 0 t ∧ ((t.thread 0).queue 0)[0]? = some ⟨p, false, false⟩ ∧ ((t.thread 1).queue 1)[0]? = none ∧ t.halt = h ∧ t.split = none ∧
        kfind s.holds 0 = none ∧ t.replay = [] ∧ t.origins = [] ∧
        (let p : Split := { slot := 7, pass := 3, redo := 1, op := none, preds := [], scopesel := 3, answer := none }
         let u : Troupe := { t with split := some p }
         let s : State := { s with troupes := [(0, u)] }
         Selects s 0 0 u ∧ u.split = some p ∧ kfind s.holds 0 = none ∧ u.replay = [] ∧ u.origins = []) ∧
        t.late = [] ∧
        (let u : Troupe := { t with late := [{ engine := 1, promise := 9, id := 3, cmd := 0 }] }
         let s : State := { s with troupes := [(0, u)] }
         Selects s 0 0 u ∧ u.late ≠ [] ∧ u.wait = none ∧ kfind s.holds 0 = none) ∧
        (let p : Split := { slot := 0, pass := 3, redo := 1, op := none, preds := [], scopesel := 3, answer := none }
         let u : Troupe := { t with split := some p, origins := [{ ori1 with cause := 2 }] }
         let s : State := { s with troupes := [(0, u)] }
         Selects s 0 0 u ∧ u.split = some p ∧ p.slot = 0 ∧ ∃ o, o ∈ u.origins ∧ o.async = false ∧ o.cause = 0x02)) ∧
    (255 : Nat) < 256 ∧ (0x18000000 : Dword).toNat / 2 ^ 27 % 4 = 3 ∧ ws.dbg.en = false ∧ ws.dbg.sel.toNat / 2 ^ 27 % 4 ≠ 3 :=
  ⟨fun h p => ⟨selects_dbg rfl rfl rfl rfl, rfl, rfl, rfl, rfl, rfl, rfl, rfl, ⟨selects_dbg rfl rfl rfl rfl, rfl, rfl, rfl, rfl⟩, rfl,
    ⟨selects_dbg rfl rfl rfl rfl, (fun h => by cases h), rfl, rfl⟩, ⟨selects_dbg rfl rfl rfl rfl, rfl, rfl, _, .head _, rfl, rfl⟩⟩,
   by decide, by decide, rfl, by decide⟩

/-- Slot 0 is `add q0, q2, q3`, which the core has; its answer stays in the bundle, in a state with and without the last slot; and a word
that no row lists, at an ordinary slot and as the header of a bundle whose guard is `!p0`; a slot that completes a hold. -/
theorem witness_StepRunsDecodedSlot :
    (let s : State := { wsb wtb [0x08008300, 0x88008300, 0x7C000000] with focus := some (foc wtb 1) }
     s.focus = some (foc wtb 1) ∧ wordAt s 0 wtb 4096 0 = some 0x08008300 ∧ decodeWord 0x08008300 = .ok (.add ⟨0, 0, 2, 3, 0, 0, 0⟩) ∧
       slotRuns (readSlot s (foc wtb 1)).1 0x08008300 (.add ⟨0, 0, 2, 3, 0, 0, 0⟩) = true ∧
       (∃ t h, exec (.add ⟨0, 0, 2, 3, 0, 0, 0⟩) { s with focus := some (readSlot s (foc wtb 1)).1 } = .next t ∧ t.focus = some h ∧ h.troupe = 0 ∧
         h.last = false ∧ h.resuming = false) ∧
       wordAt s 0 wtb 4096 2 = some 0x7C000000 ∧ (∃ r, decodeWord 0x7C000000 = .reject r) ∧ s.troupe 0 = some wtb ∧ PlainTrap (foc wtb 1) wtb ∧
       (foc wtb 1).run ≠ 0) ∧
    (let s : State := { wsb wtb [0x33C0, 0x84400000] with focus := some (foc wtb 1) }
     wordAt s 0 wtb 4096 0 = some 0x33C0 ∧ classOf 0x33C0 = 0 ∧ guardOf s 0 wtb = some (0, true) ∧ passing wtb 1 0 true = 1 ∧
       (match decodeWord 0x33C0 with | .ok i => !slotRuns (readSlot s (foc wtb 1)).1 0x33C0 i | .reject _ => true) = true) ∧
    (let f : Focus := { foc wtb 1 with resuming := true, word := 0x08008300 }
     ({ wsb wtb [] with focus := some f } : State).focus = some f ∧ f.word = 0x08008300 ∧
       slotRuns (readSlot { wsb wtb [] with focus := some f } f).1 0x08008300 (.add ⟨0, 0, 2, 3, 0, 0, 0⟩) = true) ∧
    (let f : Focus := { foc wtb 1 with k := 1, target := some 8192 }
     let s : State := { wsb wtb [0x08008300, 0x88008300] with focus := some f }
     ∃ t h u, exec (.add ⟨1, 0, 2, 3, 0, 0, 0⟩) { s with focus := some (readSlot s f).1 } = .next t ∧ t.focus = some h ∧ h.troupe = 0 ∧ h.last = true ∧
       h.target = some 8192 ∧ t.troupe 0 = some u ∧ u.halt = .running) := by
  refine ⟨⟨rfl, by decide +kernel, by decide, by decide +kernel, ⟨_, _, rfl, rfl, rfl, rfl, rfl⟩, by decide +kernel, ⟨_, rfl⟩, rfl, ⟨rfl, rfl, by decide⟩, by decide⟩,
    ⟨by decide +kernel, by decide, by decide +kernel, by decide +kernel, by decide +kernel⟩, ⟨rfl, rfl, by decide +kernel⟩,
    ⟨_, _, _, rfl, rfl, rfl, rfl, rfl, rfl, rfl⟩⟩

/-- A well-formed slot with its word. -/
theorem witness_EncodeDecodeRoundTrip :
    wellFormed (.add ⟨0, 3, 1, 36, 0, 0, 0⟩) = true ∧ encode (.add ⟨0, 3, 1, 36, 0, 0, 0⟩) = some 0x08306400 ∧
      decodeWord 0x08306400 = .ok (.add ⟨0, 3, 1, 36, 0, 0, 0⟩) := by decide

/-- A step of a canonical state whose slot stores to scratch: the store is at the port. -/
theorem witness_StepKeepsMemoryCanonical :
    let s : State := { wsm 65532 with cores := [(0, { Core.init with frames := [{ ctx := 0, text := 0, seg := 1, words := [0x402E0010] }] })] }
    s.memOk = true ∧ ∃ s', step s = .next s' := by
  refine ⟨by decide, ?_⟩
  have h : after (step ({ wsm 65532 with cores := [(0, { Core.init with frames := [{ ctx := 0, text := 0, seg := 1, words := [0x402E0010] }] })] })) (fun t => (t.core 0).port.length == 1) = true := by
    decide +kernel
  revert h
  unfold after
  split
  · rename_i t ht
    exact fun _ => ⟨t, ht⟩
  · exact fun h => absurd h (by decide)

end Sys2Proof.Tests
end

section
/-! SUPPORT. The masks of threads as lists and as bits, and what a slot that changes its troupe alone, sets a branch target or
traps leaves of the state: the rules that the statements of 04_work rest on. -/

namespace Sys2Proof.Laws
open Sys2Proof.Machine Sys2Proof.Claims

variable {s : State} {f : Focus} {t : Troupe}

/-! ## Masks of threads -/

@[simp] theorem mem_threadsOf {m : BitVec 16} {i : Nat} : i ∈ threadsOf m ↔ i < 16 ∧ m.getLsbD i = true := by
  simp [threadsOf, upTo]

theorem threadsOf_ne_nil {m : BitVec 16} (h : m ≠ 0) : threadsOf m ≠ [] := by
  intro hn
  refine h (BitVec.eq_of_getLsbD_eq fun i hi => ?_)
  have hi' : i ∉ threadsOf m := hn ▸ List.not_mem_nil
  exact (Bool.eq_false_iff.mpr fun hb => hi' (mem_threadsOf.mpr ⟨hi, hb⟩)).trans BitVec.getLsbD_zero.symm

theorem getLsbD_ofNat_two_pow (k : Nat) {i : Nat} (hi : i < 16) : (BitVec.ofNat 16 (2 ^ k)).getLsbD i = decide (k = i) := by
  rw [BitVec.getLsbD_ofNat, Nat.testBit_two_pow, decide_eq_true hi, Bool.true_and]

theorem getLsbD_foldl_setThread (l : List Nat) (m : BitVec 16) {i : Nat} (hi : i < 16) :
    (l.foldl (fun m t => m ||| BitVec.ofNat 16 (2 ^ t)) m).getLsbD i = (m.getLsbD i || decide (i ∈ l)) := by
  induction l generalizing m with
  | nil => simp
  | cons k l ih =>
    rw [List.foldl_cons, ih, BitVec.getLsbD_or, getLsbD_ofNat_two_pow k hi, Bool.or_assoc]
    simp only [List.mem_cons, Bool.decide_or, eq_comm (a := k) (b := i)]

theorem getLsbD_maskOf (l : List Nat) {i : Nat} (hi : i < 16) : (maskOf l).getLsbD i = decide (i ∈ l) :=
  (getLsbD_foldl_setThread l 0#16 hi).trans (by rw [BitVec.getLsbD_zero, Bool.false_or])

@[simp] theorem maskOf_threadsOf (m : BitVec 16) : maskOf (threadsOf m) = m :=
  BitVec.eq_of_getLsbD_eq fun i hi => by
    rw [getLsbD_maskOf _ hi, Bool.eq_iff_iff, decide_eq_true_eq, mem_threadsOf]
    exact and_iff_right hi

theorem getLsbD_passing (u : Troupe) (m : BitVec 16) (p : BitVec 3) (neg : Bool) {i : Nat} (hi : i < 16) :
    (passing u m p neg).getLsbD i = (m.getLsbD i && ((u.thread i).pred p.toNat != neg)) := by
  rw [passing, getLsbD_maskOf _ hi, Bool.eq_iff_iff, decide_eq_true_eq, List.mem_filter, mem_threadsOf, Bool.and_eq_true,
    and_iff_right hi]

/-! ## Slots that change the troupe alone -/

theorem onlyTroupe_modTroupe (g : Troupe → Troupe) {k : Nat} (ht : s.troupe k = some t) :
    OnlyTroupe s (s.modTroupe k g) k (g t) where
  this := by rw [modTroupe_troupe_same, ht]; rfl
  others _ hk := modTroupe_troupe_other s g hk
  rest := rfl

theorem branchTo_eq_withTarget (a : Nat) : branchTo s f a = withTarget s f a := rfl

/-- The target is set in the focus, the troupe beside it: neither sees the other. -/
theorem onlyTroupe_branchTo_modTroupe (g : Troupe → Troupe) (a : Nat) {k : Nat} (ht : s.troupe k = some t) :
    OnlyTroupe (withTarget s f a) (branchTo (s.modTroupe k g) f a) k (g t) :=
  onlyTroupe_modTroupe (s := withTarget s f a) g ht

/-! ## Precise traps -/

/-- Of faults that all have one cause the first has it. -/
theorem firstFault_const (c : Cause) {l : List Nat} (hl : l ≠ []) : (firstFault (l.map (fun i => (i, c)))).2 = c := by
  have fold (l : List Nat) (b : Nat × Cause) (hb : b.2 = c) :
      ((l.map (fun i => (i, c))).foldl (fun b y => if y.1 < b.1 then y else b) b).2 = c := by
    induction l generalizing b with
    | nil => exact hb
    | cons k l ih =>
      rw [List.map_cons, List.foldl_cons]
      refine ih _ ?_
      split
      · rfl
      · exact hb
  cases l with
  | nil => exact absurd rfl hl
  | cons k l => exact fold l (k, c) rfl

theorem originsOf_threads (id k : Nat) (async : Bool) (l : List (Nat × Cause)) :
    (originsOf id k async l).map (fun o => o.thread) = l.map (fun x => x.1) :=
  calc (originsOf id k async l).map (fun o => o.thread)
      = (l.zipIdx.map Prod.fst).map (fun x => x.1) := by rw [originsOf, List.map_map, List.map_map]; rfl
    _ = l.map (fun x => x.1) := by rw [List.zipIdx_map_fst]

/-- The troupe that `takeTrap` leaves is one after a precise trap (R402, R405, R409). -/
theorem trapTaken_writeTrapRegs {faults : List (Nat × Cause)} {redo : BitVec 16} {c : Cause} {value : Option Dword} (id : Nat)
    (hk : f.k < 8) (hl : faults.map (fun x => x.1) = threadsOf redo) (hc : c.detail * 256 + c.cause < 65536)
    (hv : ∀ v, value = some v → c.value = v) :
    TrapTaken f t { writeTrapRegs f.k f.k f.base f.pass redo c (splitAt f f.k f.pass redo f.op t) with
      origins := t.origins ++ originsOf id f.k false faults } c.cause c.detail value redo where
  causeReg := by
    show (BitVec.ofNat 16 (c.detail * 256 + c.cause)).toNat = _
    rw [BitVec.toNat_ofNat, Nat.mod_eq_of_lt hc, Nat.mul_comm]
  epc := rfl
  slot := by
    have h : (BitVec.ofNat 4 f.k).toNat = f.k := by rw [BitVec.toNat_ofNat]; omega
    exact ⟨h, h⟩
  eaddr := hv
  masks := ⟨rfl, rfl⟩
  split := rfl
  origins := by rw [List.drop_left, originsOf_threads, hl]
  kept := rfl

/-- A slot that answers with a trap in the threads of `redo` traps as the statements say. -/
theorem traps_of_takeTrap {i : Instr} {faults : List (Nat × Cause)} {redo : BitVec 16} {c : Cause} {value : Option Dword}
    (hat : At s f t) (hp : PlainTrap f t) (he : exec i s = .next (takeTrap s f faults))
    (hl : faults.map (fun x => x.1) = threadsOf redo) (hf : (firstFault faults).2 = c)
    (hc : c.detail * 256 + c.cause < 65536) (hv : ∀ v, value = some v → c.value = v) :
    Traps i s f t c.cause c.detail value redo := by
  obtain ⟨hh, hs, hk⟩ := hp
  have hthis := takeTrap_troupe faults hat.troupe hh hs
  rw [hl, maskOf_threadsOf, hf] at hthis
  refine ⟨_, _, he, hthis, trapTaken_writeTrapRegs s.ids hk hl hc hv, fun k hkt => takeTrap_other faults hat.troupe hh hs hkt,
    takeTrap_focus faults hat.troupe hh hs, ?_⟩
  rw [takeTrap_plain faults hat.troupe hh hs]
  rfl

/-- A uniform slot traps alike in every thread that runs it (R102). -/
theorem traps_of_trapAll {i : Instr} {c : Cause} {value : Option Dword} (hat : At s f t) (hp : PlainTrap f t) (hr : f.run ≠ 0)
    (he : exec i s = .next (trapAll s f c)) (hc : c.detail * 256 + c.cause < 65536) (hv : ∀ v, value = some v → c.value = v) :
    Traps i s f t c.cause c.detail value f.run :=
  traps_of_takeTrap hat hp he (by simp [Function.comp_def]) (firstFault_const c (threadsOf_ne_nil hr)) hc hv

end Sys2Proof.Laws
end

section
/-! PROOFS. 04_work and 02_words: headers, guards, branches, and the mask stack. -/

namespace Sys2Proof.Work
open Sys2Proof Sys2Proof.Machine Sys2Proof.Claims Sys2Proof.Laws

variable {s : State} {f : Focus} {t : Troupe}

/-! ## What the control slots compute -/

theorem targetOf_eq_branchTarget (off : BitVec 18) : targetOf f.base off = branchTarget f off := by
  rw [targetOf, branchTarget, BitVec.toNat_ofInt]
  rfl

theorem getLsbD_condMask (p : BitVec 3) (neg : BitVec 1) {i : Nat} (hi : i < 16) :
    (condMask f p neg).getLsbD i = condAt f p neg i := getLsbD_passing _ _ _ _ hi

/-- A mask with the bits of c(t) is the mask that the slots compute (R73). -/
theorem eq_condMask {c : BitVec 16} {p : BitVec 3} {neg : BitVec 1} (hc : ∀ i, i < 16 → c.getLsbD i = condAt f p neg i) :
    c = condMask f p neg :=
  BitVec.eq_of_getLsbD_eq fun i hi => by rw [hc i hi, getLsbD_condMask p neg hi]

/-- No thread has c(t) (R74, `bpn`). -/
theorem condMask_eq_zero_iff (p : BitVec 3) (neg : BitVec 1) :
    condMask f p neg = 0 ↔ (List.range 16).all (fun i => !condAt f p neg i) = true := by
  rw [BitVec.eq_of_getLsbD_eq_iff, List.all_eq_true]
  simp only [List.mem_range]
  exact forall₂_congr fun i hi => by rw [getLsbD_condMask p neg hi]; simp

/-- Every thread that passes the guard has c(t) (R74, `bpa`); the others never have it. -/
theorem condMask_eq_pass_iff (p : BitVec 3) (neg : BitVec 1) :
    condMask f p neg = f.pass ↔ (List.range 16).all (fun i => !f.pass.getLsbD i || condAt f p neg i) = true := by
  rw [BitVec.eq_of_getLsbD_eq_iff, List.all_eq_true]
  simp only [List.mem_range]
  exact forall₂_congr fun i hi => by
    rw [getLsbD_condMask p neg hi, condAt]
    cases f.pass.getLsbD i <;> simp

/-- The address that `call` pushes (R66, R75, R392; log 50). -/
theorem next_fst (s : State) (f : Focus) (t : Troupe) : (f.next s t).1 = bundleAfter s f t := by
  unfold Focus.next bundleAfter fallThrough Focus.after
  cases h : s.frameOf f.troupe t f.base with
  | none => rfl
  | some r =>
    dsimp only [Option.isSome]
    rw [if_pos rfl]
    by_cases hend : t.text + 4096 * r.seg + 4 * r.words.length ≤ f.base + 4 * (f.k + f.width)
    · by_cases hseg : r.seg + 1 < t.segs
      · rw [if_pos hend, if_pos hseg, if_pos ⟨hend, hseg⟩]
      · rw [if_pos hend, if_neg hseg, if_neg fun h => hseg h.2]
    · rw [if_neg hend, if_neg fun h => hend h.1]

theorem uniformVal_lit : uniformVal f 61 = f.lit.signExtend 64 := by simp [uniformVal, fixedOperand]

theorem uniformVal_g {x : BitVec 6} (h : x.toNat < 48) : uniformVal f x = f.latch.gread (x.toNat - 32) := by
  simp [uniformVal, fixedOperand, h]

/-- The decremented counter is 0 when the counter was 1 (R76). -/
theorem sub_one_eq_zero_iff (v : Dword) : v - 1 = 0 ↔ v = 1 := by bv_omega

/-- Flags whose counts are 0 are clear (R36). -/
theorem flagsClear_of_flagCount {m : BitVec 12} (h : ∀ i, i < 12 → m.getLsbD i = true → t.flagCount i = 0) :
    t.flagsClear m = true := by
  rw [Troupe.flagsClear, List.all_eq_true]
  intro o ho
  rw [Bool.not_eq_true', Bool.eq_false_iff]
  intro hset
  obtain ⟨hlt, hm⟩ : o.flag < 12 ∧ m.getLsbD o.flag = true := by
    rwa [Bool.and_eq_true, decide_eq_true_eq] at hset
  have hnone : ¬(o.flag == o.flag) = true :=
    List.filter_eq_nil_iff.mp (List.length_eq_zero_iff.mp (h o.flag hlt hm)) o ho
  exact hnone (beq_self_eq_true _)

/-! ## The control slots at a focus -/

section Slots
variable (hat : At s f t)
include hat

theorem exec_clause {x : HdrF} (hw : ∀ i, i < 12 → x.wait.getLsbD i = true → t.flagCount i = 0) :
    exec (.clause x) s = .next (s.modTroupe f.troupe (fun t =>
      { t with clause := { setx := x.setx.toNat, sety := x.sety.toNat, len := x.len.toNat } })) := by
  change execClause x s = _
  rw [execClause, atSlot_next _ hat.focus hat.troupe, if_pos (flagsClear_of_flagCount hw)]

theorem exec_guard (x : GrdF) (hf : f.first = true) :
    exec (.guard x) s = .next { s with focus := some { f with pass := condMask f x.pred x.neg, run := condMask f x.pred x.neg } } := by
  change execGuard x s = _
  rw [execGuard, atSlot_next _ hat.focus hat.troupe, if_pos hf]
  rfl

/-- `nop` changes nothing, whether or not a thread passes its guard (R42, R52). -/
theorem exec_nop (x : StopF) : exec (.nop x) s = .next s := by
  change execNop x s = _
  rw [execNop, atUniform, atSlot_next _ hat.focus hat.troupe, ite_self]

variable (hr : f.run ≠ 0)
include hr

theorem exec_br (x : JumpF) : exec (.br x) s = .next (withTarget s f (branchTarget f x.off)) := by
  change execBr x s = _
  rw [execBr, atUniform_next _ hat.focus hat.troupe hr, targetOf_eq_branchTarget, branchTo_eq_withTarget]

theorem exec_bpa (x : CondF) : exec (.bpa x) s = .next
    (if condMask f x.pred x.neg = f.pass then withTarget s f (branchTarget f x.off) else s) := by
  change execBpa x s = _
  rw [execBpa, atUniform_next _ hat.focus hat.troupe hr, targetOf_eq_branchTarget, branchTo_eq_withTarget]

theorem exec_bpn (x : CondF) : exec (.bpn x) s = .next
    (if condMask f x.pred x.neg = 0 then withTarget s f (branchTarget f x.off) else s) := by
  change execBpn x s = _
  rw [execBpn, atUniform_next _ hat.focus hat.troupe hr, targetOf_eq_branchTarget, branchTo_eq_withTarget]

theorem exec_call (x : JumpF) (hd : t.retStack.length < 16) :
    exec (.call x) s = .next (branchTo (s.modTroupe f.troupe (fun u => { u with retStack := bundleAfter s f u :: u.retStack })) f
      (branchTarget f x.off)) := by
  change execCall x s = _
  rw [execCall, atUniform_next _ hat.focus hat.troupe hr, if_neg (by omega), targetOf_eq_branchTarget]
  simp only [next_fst]

theorem exec_ret (x : StopF) {a : Nat} {rest : List Nat} (hd : t.retStack = a :: rest) :
    exec (.ret x) s = .next (branchTo (s.modTroupe f.troupe (fun u => { u with retStack := rest })) f a) := by
  change execRet x s = _
  rw [execRet, atUniform_next _ hat.focus hat.troupe hr, hd]

theorem exec_brx (x : SrcF) (ha : (uniformVal f x.a).toNat % 4 = 0) :
    exec (.brx x) s = .next (withTarget s f (uniformVal f x.a).toNat) := by
  change execBrx x s = _
  rw [execBrx, atUniform_next _ hat.focus hat.troupe hr]
  simp [ha, branchTo_eq_withTarget]

theorem exec_loop (x : LoopF) :
    exec (.loopG x) s = .next
      (let s' := s.modTroupe f.troupe (fun u => u.gwrite (8 + x.ctr.toNat) (f.latch.gread (8 + x.ctr.toNat) - 1))
       if f.latch.gread (8 + x.ctr.toNat) = 1 then s' else branchTo s' f (branchTarget f x.off)) := by
  change execLoop x s = _
  rw [execLoop, atUniform_next _ hat.focus hat.troupe hr, targetOf_eq_branchTarget]
  simp only [sub_one_eq_zero_iff]

theorem exec_bif (x : CondF) (hd : t.maskStack.length < 16) :
    exec (.bif x) s = .next
      (let c := condMask f x.pred x.neg
       if c = 0 then
        branchTo (s.modTroupe f.troupe (fun u => { u with maskStack := (u.active, 0) :: u.maskStack, active := t.active &&& ~~~c })) f
          (branchTarget f x.off)
       else s.modTroupe f.troupe (fun u => { u with maskStack := (u.active, t.active &&& ~~~c) :: u.maskStack, active := c })) := by
  change execBif x s = _
  rw [execBif, atUniform_next _ hat.focus hat.troupe hr, if_neg (by omega), targetOf_eq_branchTarget]

theorem exec_belse (x : JumpF) {m e : BitVec 16} {rest : List (BitVec 16 × BitVec 16)} (hd : t.maskStack = (m, e) :: rest) :
    exec (.belse x) s = .next
      (if e = 0 then withTarget s f (branchTarget f x.off)
       else s.modTroupe f.troupe (fun u => { u with maskStack := (m, 0) :: rest, active := e })) := by
  change execBelse x s = _
  rw [execBelse, atUniform_next _ hat.focus hat.troupe hr, targetOf_eq_branchTarget, branchTo_eq_withTarget, hd]

theorem exec_bjoin (x : StopF) {m e : BitVec 16} {rest : List (BitVec 16 × BitVec 16)} (hd : t.maskStack = (m, e) :: rest) :
    exec (.bjoin x) s = .next (s.modTroupe f.troupe (fun u => { u with maskStack := rest, active := m })) := by
  change execBjoin x s = _
  rw [execBjoin, atUniform_next _ hat.focus hat.troupe hr, hd]

theorem exec_bif_full (x : CondF) (hd : 16 ≤ t.maskStack.length) :
    exec (.bif x) s = .next (trapAll s f (openCause cQueueOver 2 f.issue)) := by
  change execBif x s = _
  rw [execBif, atUniform_next _ hat.focus hat.troupe hr, if_pos hd]

theorem exec_belse_empty (x : JumpF) (hd : t.maskStack = []) :
    exec (.belse x) s = .next (trapAll s f (openCause cQueueUnder 2 f.issue)) := by
  change execBelse x s = _
  rw [execBelse, atUniform_next _ hat.focus hat.troupe hr, hd]

theorem exec_bjoin_empty (x : StopF) (hd : t.maskStack = []) :
    exec (.bjoin x) s = .next (trapAll s f (openCause cQueueUnder 2 f.issue)) := by
  change execBjoin x s = _
  rw [execBjoin, atUniform_next _ hat.focus hat.troupe hr, hd]

/-- A trap of the mask stack, whose fault value the manual does not state (R75, log 14). -/
theorem traps_of_stack {i : Instr} {cause : Nat} (hp : PlainTrap f t) (hc : cause < 256)
    (he : exec i s = .next (trapAll s f (openCause cause 2 f.issue))) : Traps i s f t cause 2 none f.run :=
  traps_of_trapAll hat hp hr he (show 2 * 256 + cause < 65536 by omega) (fun _ h => nomatch h)

end Slots

/-! ## The obligations -/

/-- Settles O12: each slot's equation above, with the frame of the update that it answers. -/
theorem headersGuardsAndBranchesAct : Obligations.HeadersGuardsAndBranchesAct := by
  refine ⟨fun s f t x hat hw => ⟨_, exec_clause hat hw, onlyTroupe_modTroupe _ hat.troupe⟩,
    fun s f t x hat hf => ⟨condMask f x.pred x.neg, fun i hi => getLsbD_condMask _ _ hi, exec_guard hat x hf⟩,
    fun s f t x hat => exec_nop hat x,
    fun s f t hat hr => ⟨exec_br hat hr, fun x => ?bpa, fun x => ?bpn,
      fun x hd => ⟨_, exec_call hat hr x hd, onlyTroupe_branchTo_modTroupe _ _ hat.troupe⟩,
      fun x a rest hd => ⟨_, exec_ret hat hr x hd, onlyTroupe_branchTo_modTroupe _ _ hat.troupe⟩,
      fun x v hv ha => ?brx, fun x => ⟨_, exec_loop hat hr x, ?loop⟩⟩⟩
  case bpa => simp only [exec_bpa hat hr, condMask_eq_pass_iff]
  case bpn => simp only [exec_bpn hat hr, condMask_eq_zero_iff]
  case brx =>
    have hval : uniformVal f x.a = v := by
      obtain ⟨hlit, rfl⟩ | ⟨-, hlt, rfl⟩ := ha
      · rw [hlit, uniformVal_lit]
      · exact uniformVal_g hlt
    rw [exec_brx hat hr x (by rw [hval]; exact hv), hval]
  case loop =>
    dsimp only
    split
    · exact onlyTroupe_modTroupe _ hat.troupe
    · exact onlyTroupe_branchTo_modTroupe _ _ hat.troupe

/-- Settles O13: the mask c of the statement is the one that `bif` computes; each slot's equation gives the rest. -/
theorem divergenceKeepsMaskStack : Obligations.DivergenceKeepsMaskStack := by
  refine fun s f t hat hr => ⟨fun x c hd hc => ⟨_, exec_bif hat hr x hd, ?divide⟩,
    fun x m e rest hd => ⟨_, exec_belse hat hr x hd, ?belse⟩,
    fun x m e rest hd => ⟨_, exec_bjoin hat hr x hd, onlyTroupe_modTroupe _ hat.troupe⟩,
    fun hp => ⟨fun x hd => traps_of_stack hat hr hp (by decide) (exec_bif_full hat hr x hd),
      fun x hd => traps_of_stack hat hr hp (by decide) (exec_belse_empty hat hr x hd),
      fun x hd => traps_of_stack hat hr hp (by decide) (exec_bjoin_empty hat hr x hd)⟩⟩
  case divide =>
    rw [← eq_condMask hc]
    dsimp only
    split
    · exact onlyTroupe_branchTo_modTroupe _ _ hat.troupe
    · exact onlyTroupe_modTroupe _ hat.troupe
  case belse =>
    split
    · rfl
    · exact onlyTroupe_modTroupe _ hat.troupe

end Sys2Proof.Work
end

section
/-! SUPPORT. What a per-thread slot leaves of its troupe and of the state, when each thread that runs it either writes D once or
meets a cause: every scalar slot that commits, and every one that traps in some of its threads (R68, R99, R106, R147). -/

namespace Sys2Proof.Laws
open Sys2Proof.Machine Sys2Proof.Claims

variable {s : State} {f : Focus} {t : Troupe}

/-! ## Writing D in one thread -/

/-- A thread after write(D, v): a queue gets bits [31:0] as its youngest entry (R97, R109). -/
def pushedThread (th : Thread) (d : BitVec 6) (v : Dword) : Thread :=
  if d.toNat < 32 then
    th.setQueue d.toNat (th.queue d.toNat ++ [{ pos := .filled (v.setWidth 32) false, fresh := true }])
  else th

/-- What write(D, v) of R109 does in a thread with room. -/
def writtenFx (th : Thread) (d : BitVec 6) (v : Dword) : Fx :=
  { th := pushedThread th d v, g := if 32 ≤ d.toNat ∧ d.toNat < 48 then some (d.toNat - 32, v) else none, fp := 0, sat := false }

theorem isG_iff {d : BitVec 6} : isG d = true ↔ 32 ≤ d.toNat ∧ d.toNat < 48 := by simp [isG]

theorem writeDst_room {th : Thread} {d : BitVec 6} (cyc : Nat) (v : Dword) (hr : d.toNat < 32 → (th.queue d.toNat).length + 1 ≤ 4) :
    writeDst cyc th d v = .ok (writtenFx th d v) := by
  unfold writeDst writtenFx pushedThread
  by_cases hq : d.toNat < 32
  · simp [hq, Thread.pushAll, hr hq, Nat.not_le.mpr hq]
  · by_cases hg : d.toNat < 48
    · simp [hq, hg, Nat.le_of_not_lt hq]
    · simp [hq, hg]

/-! ## Running a body in every thread -/

/-- The body writes v to D in the threads that run it, from `th` on, but for those of `bad`, where it fails for cause `c`, which is not
FP_EXC. -/
def WritesOrFails (f : Focus) (t : Troupe) (body : Nat → Thread → Except Cause Fx) (bad : BitVec 16) (c : Nat → Cause)
    (d : BitVec 6) (th : Nat → Thread) (v : Nat → Dword) : Prop :=
  (∀ i, Runs f i → body i (t.thread i) = if bad.getLsbD i then .error (c i) else .ok (writtenFx (th i) d (v i))) ∧
  (∀ i, i < 16 → bad.getLsbD i = true → f.run.getLsbD i = true) ∧
  ∀ i, (c i).cause ≠ cFpExc

/-- What such a slot did in thread i: a value of a g register gives way to that of a higher thread which has committed the slot
before (R106). -/
def writtenOrFailed (f : Focus) (bad : BitVec 16) (c : Nat → Cause) (d : BitVec 6) (th : Nat → Thread) (v : Nat → Dword)
    (i : Nat) : Ran :=
  if f.run.getLsbD i then
    if bad.getLsbD i then .failed (c i)
    else .done { writtenFx (th i) d (v i) with g := if f.above i then none else (writtenFx (th i) d (v i)).g }
  else .idle

/-- The focus of the threads that do not fail. -/
def without (f : Focus) (bad : BitVec 16) : Focus := { f with run := f.run &&& ~~~bad }

variable {body : Nat → Thread → Except Cause Fx} {bad : BitVec 16} {c : Nat → Cause} {d : BitVec 6} {th : Nat → Thread}
  {v : Nat → Dword}

theorem getLsbD_and_not {a b : BitVec 16} {i : Nat} (hi : i < 16) : (a &&& ~~~b).getLsbD i = (a.getLsbD i && !b.getLsbD i) := by
  simp [hi]

theorem keepG_ranOf (ht : t.threads.length = 16) (hb : WritesOrFails f t body bad c d th v) :
    keepG f (ranOf f.run t.threads body) = (upTo 16).map (writtenOrFailed f bad c d th v) := by
  obtain ⟨hbody, -, -⟩ := hb
  refine List.ext_getElem (by simp [keepG, ranOf, upTo, ht]) fun i hi _ => ?_
  have hlt : i < t.threads.length := by simpa [keepG, ranOf] using hi
  simp only [keepG, ranOf, upTo, List.getElem_mapIdx, List.getElem_map, List.getElem_range, writtenOrFailed]
  cases hrun : f.run.getLsbD i with
  | false => rfl
  | true =>
    have hbi := hbody i ⟨ht ▸ hlt, hrun⟩
    rw [Troupe.thread, List.getD_eq_getElem?_getD, List.getElem?_eq_getElem hlt, Option.getD_some] at hbi
    cases hbad : bad.getLsbD i <;> cases f.above i <;> simp [hbi, hbad]

theorem ranThreads_written (ht : t.threads.length = 16) :
    ranThreads t.threads ((upTo 16).map (writtenOrFailed f bad c d th v)) = pushed (without f bad) t d th v := by
  refine List.ext_getElem (by simp [ranThreads, pushed, upTo, ht]) fun i hi _ => ?_
  have hlt : i < 16 := by simpa [ranThreads, upTo, ht] using hi
  simp only [ranThreads, pushed, upTo, List.getElem_zipWith, List.getElem_mapIdx, List.getElem_map, List.getElem_range,
    without, getLsbD_and_not hlt, writtenOrFailed]
  cases f.run.getLsbD i <;> cases bad.getLsbD i <;> rfl

/-- The value, if any, that the outcome of a thread leaves for a g register. -/
def gWriteOf : Ran → Option (Nat × Dword)
  | .done x => x.g
  | _ => none

theorem ranG_eq_foldl (g : KV Dword) (rs : List Ran) :
    ranG g rs = (rs.filterMap gWriteOf).foldl (fun g p => kset g p.1 p.2) g := by
  induction rs generalizing g with
  | nil => rfl
  | cons r rs ih =>
    rw [ranG, List.foldl_cons, ← ranG, ih]
    cases r with
    | idle => rfl
    | failed c => rfl
    | done x => obtain ⟨_, _ | ⟨i, v⟩, _, _, _⟩ := x <;> rfl

theorem kset_kset_same {α : Type} (l : KV α) (k : Nat) (v w : α) : kset (kset l k v) k w = kset l k w := by
  induction l with
  | nil => simp [kset]
  | cons p r ih =>
    obtain ⟨j, u⟩ := p
    by_cases h : j = k
    · simp [kset, h]
    · simp [kset, h, ih]

/-- Of several writes of one key the last remains. -/
theorem foldl_kset_last {α : Type} (g : KV α) (k : Nat) (l : List α) (x : α) :
    (l ++ [x]).foldl (fun g v => kset g k v) g = kset g k x := by
  have hover (l : List α) : ∀ g, kset (l.foldl (fun g v => kset g k v) g) k x = kset g k x := by
    induction l with
    | nil => exact fun _ => rfl
    | cons y l ih => exact fun g => by rw [List.foldl_cons, ih, kset_kset_same]
  rw [List.foldl_append, List.foldl_cons, List.foldl_nil, hover]

theorem overtaken_eq_above (i : Nat) : overtaken f i = f.above i := by
  rw [Bool.eq_iff_iff]
  simp only [overtaken, Focus.above, List.any_eq_true, mem_threadsOf, List.mem_range, Bool.and_eq_true, decide_eq_true_eq]
  refine exists_congr fun j => and_congr_right_iff.mpr ?_ |>.trans and_assoc.symm
  intro hj
  rw [getLsbD_and_not hj, Bool.and_eq_true]
  exact ⟨fun ⟨⟨hij, hp⟩, hr⟩ => ⟨⟨hp, hr⟩, hij⟩, fun ⟨⟨hp, hr⟩, hij⟩ => ⟨⟨hij, hp⟩, hr⟩⟩

/-- A thread below one that is overtaken is overtaken too. -/
theorem above_mono {i j : Nat} (hij : i ≤ j) (hj : f.above j = true) : f.above i = true := by
  simp only [Focus.above, List.any_eq_true, decide_eq_true_eq] at hj ⊢
  obtain ⟨k, hk, hjk⟩ := hj
  exact ⟨k, hk, Nat.lt_of_le_of_lt hij hjk⟩

/-- The threads of a mask, the highest apart. -/
theorem threadsOf_eq_append_highest {m : BitVec 16} (h : m ≠ 0) :
    ∃ l, threadsOf m = l ++ [highest m] ∧ ∀ i ∈ l, i < highest m := by
  have hne := threadsOf_ne_nil h
  have heq : threadsOf m = (threadsOf m).dropLast ++ [highest m] := by
    rw [highest, List.getLastD_eq_getLast?, List.getLast?_eq_some_getLast hne, Option.getD_some, List.dropLast_concat_getLast]
  have hs : (threadsOf m).Pairwise (· < ·) := List.pairwise_lt_range.filter _
  rw [heq, List.pairwise_append] at hs
  exact ⟨_, heq, fun i hi => hs.2.2 i hi _ (List.mem_singleton_self _)⟩

theorem filterMap_eq_map_filter {α β : Type} {h : α → Option β} (p : α → Bool) (g : α → β) {l : List α}
    (hl : ∀ i ∈ l, h i = if p i then some (g i) else none) : l.filterMap h = (l.filter p).map g := by
  induction l with
  | nil => rfl
  | cons i l ih =>
    have htail := ih fun j hj => hl j (List.mem_cons_of_mem _ hj)
    have hhead := hl i List.mem_cons_self
    cases hp : p i with
    | true => rw [List.filterMap_cons_some (by rw [hhead, if_pos hp]), htail, List.filter_cons_of_pos hp, List.map_cons]
    | false =>
      have hnot : ¬p i = true := Bool.eq_false_iff.mp hp
      rw [List.filterMap_cons_none (by rw [hhead, if_neg hnot]), htail, List.filter_cons_of_neg hnot]

/-- The writes of a slot to a g register, by rising thread (R106). -/
theorem filterMap_written (hd : 32 ≤ d.toNat ∧ d.toNat < 48) :
    ((upTo 16).map (writtenOrFailed f bad c d th v)).filterMap gWriteOf =
      (((threadsOf (without f bad).run).filter (fun i => !f.above i)).map v).map (fun x => (d.toNat - 32, x)) := by
  rw [List.filterMap_map, threadsOf, List.filter_filter, List.map_map]
  refine filterMap_eq_map_filter _ _ fun i hi => ?_
  simp only [Function.comp_apply, writtenOrFailed, writtenFx, if_pos hd, without, getLsbD_and_not (List.mem_range.mp hi)]
  cases f.run.getLsbD i <;> cases bad.getLsbD i <;> cases f.above i <;> rfl

theorem filterMap_written_notG (hd : ¬(32 ≤ d.toNat ∧ d.toNat < 48)) :
    ((upTo 16).map (writtenOrFailed f bad c d th v)).filterMap gWriteOf = [] := by
  rw [List.filterMap_map]
  refine List.filterMap_eq_nil_iff.mpr fun i _ => ?_
  simp only [Function.comp_apply, writtenOrFailed, writtenFx, if_neg hd, ite_self]
  cases f.run.getLsbD i <;> cases bad.getLsbD i <;> rfl

theorem ranG_written :
    ranG t.g ((upTo 16).map (writtenOrFailed f bad c d th v)) = gWritten f t d v (without f bad).run := by
  rw [ranG_eq_foldl, gWritten, overtaken_eq_above]
  by_cases hd : 32 ≤ d.toNat ∧ d.toNat < 48
  case neg => rw [filterMap_written_notG hd, if_neg fun h => hd ⟨h.1, h.2.1⟩]; rfl
  rw [filterMap_written hd, List.foldl_map]
  by_cases hrun : (without f bad).run = 0
  case pos =>
    have hnil : threadsOf 0 = [] := by decide
    rw [hrun, hnil, if_neg fun h => h.2.2.1 rfl, List.filter_nil, List.map_nil, List.foldl_nil]
  obtain ⟨l, hl, hlt⟩ := threadsOf_eq_append_highest hrun
  rw [hl, List.filter_append]
  cases ha : f.above (highest (without f bad).run) with
  | true =>
    have hnil : l.filter (fun i => !f.above i) = [] :=
      List.filter_eq_nil_iff.mpr fun i hi => by simp [above_mono (Nat.le_of_lt (hlt i hi)) ha]
    simp [hnil, ha]
  | false =>
    have hlast : [highest (without f bad).run].filter (fun i => !f.above i) = [highest (without f bad).run] := by simp [ha]
    rw [hlast, List.map_append, List.map_singleton, foldl_kset_last, if_pos ⟨hd.1, hd.2, hrun, rfl⟩]

/-- The faults of a slot that fails in the threads of `bad`, by rising thread. -/
theorem ranFaults_written (hb : WritesOrFails f t body bad c d th v) :
    ranFaults ((upTo 16).map (writtenOrFailed f bad c d th v)) = (threadsOf bad).map (fun i => (i, c i)) := by
  obtain ⟨-, hruns, -⟩ := hb
  have hzip : ((upTo 16).map (writtenOrFailed f bad c d th v)).zipIdx =
      (upTo 16).map (fun i => (writtenOrFailed f bad c d th v i, i)) :=
    List.ext_getElem (by simp [upTo]) fun i _ _ => by simp [upTo]
  rw [ranFaults, hzip, List.filterMap_map, threadsOf]
  refine filterMap_eq_map_filter _ _ fun i hi => ?_
  have hrun := hruns i (List.mem_range.mp hi)
  simp only [Function.comp_apply, writtenOrFailed]
  cases hbad : bad.getLsbD i with
  | true => rw [hrun hbad]; rfl
  | false => cases f.run.getLsbD i <;> rfl

/-- No IEEE signal: a slot of these forms fails for causes other than FP_EXC. -/
theorem ranFp_written (hc : ∀ i, (c i).cause ≠ cFpExc) : ranFp ((upTo 16).map (writtenOrFailed f bad c d th v)) = 0 := by
  rw [ranFp, List.foldl_map]
  refine List.foldlRecOn (motive := (· = 0)) _ _ rfl fun m hm i _ => ?_
  rw [hm, writtenOrFailed]
  cases f.run.getLsbD i <;> cases bad.getLsbD i <;> simp [writtenFx, hc i]

theorem ranSat_written : ranSat ((upTo 16).map (writtenOrFailed f bad c d th v)) = false := by
  rw [ranSat, List.any_map, List.any_eq_false]
  intro i _
  simp only [Function.comp_apply, writtenOrFailed]
  cases f.run.getLsbD i <;> cases bad.getLsbD i <;> simp [writtenFx]

/-- The troupe after a slot that writes D in the threads that do not fail, and nothing else (R106, R109). -/
def wroteTroupe (f : Focus) (t : Troupe) (bad : BitVec 16) (d : BitVec 6) (th : Nat → Thread) (v : Nat → Dword) : Troupe :=
  { t with threads := pushed (without f bad) t d th v, g := gWritten f t d v (without f bad).run }

theorem applyRan_written (ht : t.threads.length = 16) (hc : ∀ i, (c i).cause ≠ cFpExc) :
    applyRan t ((upTo 16).map (writtenOrFailed f bad c d th v)) = wroteTroupe f t bad d th v := by
  rw [applyRan, ranThreads_written ht, ranG_written, ranFp_written hc, ranSat_written, wroteTroupe]
  simp

/-- A per-thread slot whose body writes D or fails: its troupe takes the writes, and the faults are settled (R147). -/
theorem perThread_written (hat : At s f t) (hb : WritesOrFails f t body bad c d th v) :
    ∃ s₁, OnlyTroupe s s₁ f.troupe (wroteTroupe f t bad d th v) ∧
      perThread s f t body = settleSlot s₁ f ((threadsOf bad).map (fun i => (i, c i))) := by
  obtain ⟨-, -, hcause⟩ := id hb
  refine ⟨_, applyRan_written hat.threads hcause ▸ onlyTroupe_modTroupe (fun u => applyRan u _) hat.troupe, ?_⟩
  rw [perThread, keepG_ranOf hat.threads hb, ranFaults_written hb]

theorem wroteTroupe_zero :
    wroteTroupe f t 0 d th v = { t with threads := pushed f t d th v, g := gWritten f t d v } := by
  have hrun : f.run &&& ~~~(0 : BitVec 16) = f.run := BitVec.and_allOnes
  rw [wroteTroupe, without, hrun]

/-- A slot whose body writes D in every thread that runs it commits. -/
theorem writes_of_perThread {i : Instr} (hat : At s f t) (he : exec i s = .next (perThread s f t body))
    (hb : ∀ i, Runs f i → body i (t.thread i) = .ok (writtenFx (th i) d (v i))) : Writes i s f t d th v := by
  have hnone : WritesOrFails f t body 0 (fun _ => openCause 0 0 0) d th v :=
    ⟨fun i hi => by simp [hb i hi], by simp, fun _ => show (0 : Nat) ≠ cFpExc by decide⟩
  obtain ⟨s₁, honly, hs⟩ := perThread_written hat hnone
  rw [hs, show threadsOf 0 = [] by decide, List.map_nil, settleSlot_nil] at he
  rw [wroteTroupe_zero] at honly
  refine ⟨s₁, he, ?_⟩
  simpa using honly

/-! ## A slot that traps in some of its threads -/

/-- Of faults by rising thread the first is that of the leader (R402). -/
theorem firstFault_threadsOf {m : BitVec 16} (h : m ≠ 0) (c : Nat → Cause) :
    (firstFault ((threadsOf m).map (fun i => (i, c i)))).2 = c (leaderOf m) := by
  have fold (k : Nat) (l : List Nat) (hl : ∀ i ∈ l, k < i) :
      (l.map (fun i => (i, c i))).foldl (fun b y => if y.1 < b.1 then y else b) (k, c k) = (k, c k) := by
    refine List.foldlRecOn (motive := (· = (k, c k))) _ _ rfl fun b hb y hy => ?_
    obtain ⟨i, hi, rfl⟩ := List.mem_map.mp hy
    rw [hb, if_neg (Nat.lt_asymm (hl i hi))]
  have hs : (threadsOf m).Pairwise (· < ·) := List.pairwise_lt_range.filter _
  rw [leaderOf]
  cases hm : threadsOf m with
  | nil => exact absurd hm (threadsOf_ne_nil h)
  | cons k l =>
    rw [hm, List.pairwise_cons] at hs
    rw [List.map_cons, firstFault, fold k l hs.1, List.headD_cons]

/-- A slot that fails in some threads commits in the others, and traps with the cause of the lowest-indexed one that failed
(R147, R405). -/
theorem trapTaken_of_perThread {i : Instr} (hat : At s f t) (hp : PlainTrap f t) (he : exec i s = .next (perThread s f t body))
    (hb : WritesOrFails f t body bad c d th v) (hne : bad ≠ 0)
    (hc : (c (leaderOf bad)).detail * 256 + (c (leaderOf bad)).cause < 65536) :
    ∃ s' t', exec i s = .next s' ∧ s'.troupe f.troupe = some t' ∧
      TrapTaken f (wroteTroupe f t bad d th v) t' (c (leaderOf bad)).cause (c (leaderOf bad)).detail
        (some (c (leaderOf bad)).value) bad ∧
      (∀ k, k ≠ f.troupe → s'.troupe k = s.troupe k) ∧ s'.focus = none ∧
      { s' with troupes := s.troupes, focus := s.focus, ids := s.ids, agenda := s.agenda } = s := by
  obtain ⟨hh, hsk, hk⟩ := hp
  obtain ⟨s₁, ⟨hthis, hothers, hrest⟩, hs⟩ := perThread_written hat hb
  have hl : ((threadsOf bad).map (fun i => (i, c i))).map (fun x => x.1) = threadsOf bad := by simp [Function.comp_def]
  have htrap := takeTrap_troupe ((threadsOf bad).map (fun i => (i, c i))) hthis hh hsk
  rw [hl, maskOf_threadsOf, firstFault_threadsOf hne] at htrap
  have hsettle : settleSlot s₁ f ((threadsOf bad).map (fun i => (i, c i))) =
      takeTrap s₁ f ((threadsOf bad).map (fun i => (i, c i))) :=
    if_neg (by simpa using threadsOf_ne_nil hne)
  rw [hs, hsettle] at he
  refine ⟨_, _, he, htrap, trapTaken_writeTrapRegs s₁.ids hk hl hc (fun _ h => Option.some.inj h),
    fun k hkt => (takeTrap_other _ hthis hh hsk hkt).trans (hothers k hkt), takeTrap_focus _ hthis hh hsk, ?_⟩
  rw [takeTrap_plain _ hthis hh hsk, ← hrest]
  rfl

end Sys2Proof.Laws
end

section
/-! PROOFS. 07_scalar: the width arithmetic, bit fields, multiply-add and division. -/

namespace Sys2Proof.Scalar
open Sys2Proof Sys2Proof.Machine Sys2Proof.Claims Sys2Proof.Laws

variable {s : State} {f : Focus} {t : Troupe}

/-! ## Sources and destination of a slot -/

section Forms
variable {x : RegF} {va vb vd : Nat → Operand} {th : Nat → Thread}

theorem body2_reads (hr : Reads2 f t x.a x.b x.ka x.kb va vb th) (hroom : HasRoom f x.d 1 th)
    (op : Operand → Operand → Dword) {i : Nat} (hi : Runs f i) : body2 f x op i (t.thread i) = .ok (writtenFx (th i) x.d (op (va i) (vb i))) := by
  obtain ⟨m, ha, hb⟩ := hr
  rw [body2, ha i hi]
  dsimp only
  rw [hb i hi]
  exact writeDst_room _ _ (hroom i hi)

theorem body3_reads (hr : Reads3 f t x.a x.b x.d x.ka x.kb va vb vd th) (hroom : HasRoom f x.d 1 th)
    (op : Operand → Operand → Operand → Dword) {i : Nat} (hi : Runs f i) :
    body3 f x op i (t.thread i) = .ok (writtenFx (th i) x.d (op (va i) (vb i) (vd i))) := by
  obtain ⟨n, ⟨m, ha, hb⟩, hd⟩ := hr
  rw [body3, ha i hi]
  dsimp only
  rw [hb i hi]
  dsimp only
  rw [hd i hi]
  exact writeDst_room _ _ (hroom i hi)

/-- A division in a thread: it writes its result, or fails with the dividend where the divisor is 0 (R151). -/
theorem body2e_divide (hr : Reads2 f t x.a x.b x.ka x.kb va vb th) (hroom : HasRoom f x.d 1 th) (op : Word → Word → Word) {i : Nat}
    (hi : Runs f i) : body2e f x (divide op) i (t.thread i) =
      if (vb i).lo = 0 then .error ⟨cIntDiv0, 0, word (va i).lo⟩
      else .ok (writtenFx (th i) x.d (word (op (va i).lo (vb i).lo))) := by
  obtain ⟨m, ha, hb⟩ := hr
  rw [body2e, ha i hi]
  dsimp only
  rw [hb i hi]
  dsimp only
  rw [divide]
  by_cases hz : (vb i).lo = 0
  · rw [if_pos hz, if_pos hz]
    rfl
  · rw [if_neg hz, if_neg hz]
    dsimp only
    rw [writeDst_room _ _ (hroom i hi)]
    rfl

/-- A slot of two sources commits with its result in D (R148). -/
theorem writes_of_exec2 {i : Instr} {op : Operand → Operand → Dword} {v : Nat → Dword} (hat : At s f t)
    (hr : Reads2 f t x.a x.b x.ka x.kb va vb th) (hroom : HasRoom f x.d 1 th) (he : exec i s = exec2 x op s)
    (hv : ∀ i, op (va i) (vb i) = v i) : Writes i s f t x.d th v :=
  writes_of_perThread hat (he.trans (atSlot_next _ hat.focus hat.troupe)) fun i hi => by rw [body2_reads hr hroom op hi, hv]

/-- An accumulating slot commits with its result in D (R101). -/
theorem writes_of_exec3 {i : Instr} {op : Operand → Operand → Operand → Dword} {v : Nat → Dword} (hat : At s f t)
    (hr : Reads3 f t x.a x.b x.d x.ka x.kb va vb vd th) (hroom : HasRoom f x.d 1 th) (he : exec i s = exec3 x op s)
    (hv : ∀ i, Runs f i → op (va i) (vb i) (vd i) = v i) : Writes i s f t x.d th v :=
  writes_of_perThread hat (he.trans (atSlot_next _ hat.focus hat.troupe)) fun i hi => by rw [body3_reads hr hroom op hi, hv i hi]

end Forms

/-! ## Results at a width -/

theorem atWidth_eq_atW (d : BitVec 6) (op : (n : Nat) → BitVec n → BitVec n → BitVec n) (a b : Operand) :
    atWidth d op a b = atW d op a b := by simp only [atWidth, atW, isG_iff]

theorem shlBy_eq_shlN {n : Nat} (a : BitVec n) (c : Nat) : shlBy a c = shlN n a c := by
  have hshift : shlBy a c = a <<< c := ite_eq_left_iff.mpr fun h => (BitVec.shiftLeft_eq_zero (Nat.not_lt.mp h)).symm
  refine hshift.trans (BitVec.eq_of_toNat_eq ?_)
  rw [BitVec.toNat_shiftLeft, Nat.shiftLeft_eq, shlN, BitVec.toNat_ofNat]

theorem shrBy_eq_shrN {n : Nat} (a : BitVec n) (c : Nat) : shrBy a c = shrN n a c := by
  have hshift : shrBy a c = a >>> c := ite_eq_left_iff.mpr fun h => (BitVec.ushiftRight_eq_zero (Nat.not_lt.mp h)).symm
  rw [hshift, shrN, ← Nat.shiftRight_eq_div_pow, ← BitVec.toNat_ushiftRight, BitVec.ofNat_toNat, BitVec.setWidth_eq]

theorem sarBy_eq_sarN {n : Nat} (a : BitVec n) (c : Nat) : sarBy a c = sarN n a c := by
  have hshift : sarBy a c = a.sshiftRight c := by
    rw [sarBy]
    split
    · rfl
    · next h =>
      refine BitVec.eq_of_getLsbD_eq fun i hi => ?_
      have hout : ¬c + i < n := by omega
      have hbit := BitVec.getLsbD_sshiftRight a c i
      rw [if_neg hout, decide_eq_false (Nat.not_le.mpr hi)] at hbit
      rw [hbit]
      cases a.msb <;> simp [hi]
  rw [hshift, sarN, ← BitVec.ofInt_toInt (x := a.sshiftRight c), BitVec.toInt_sshiftRight, Int.shiftRight_eq_div_pow]
  rfl

theorem shiftWidth_eq_shiftW (d : BitVec 6) {op op' : (n : Nat) → BitVec n → Nat → BitVec n} (h : ∀ n a c, op n a c = op' n a c)
    (a b : Operand) : shiftWidth d op a b = shiftW d op' a b := by simp only [shiftWidth, shiftW, isG_iff, h]

/-- Settles O1: each slot is one of two sources whose operation is the statement's, the shifts by the three lemmas above. -/
theorem widthArithmeticWritesResult : Obligations.WidthArithmeticWritesResult := by
  intro s f t x va vb th hat hr hroom
  have hwidth {i : Instr} {op : (n : Nat) → BitVec n → BitVec n → BitVec n} (he : exec i s = exec2 x (atWidth x.d op) s) :
      Writes i s f t x.d th (fun i => atW x.d op (va i) (vb i)) :=
    writes_of_exec2 hat hr hroom he fun _ => atWidth_eq_atW _ _ _ _
  have hshift {i : Instr} {op op' : (n : Nat) → BitVec n → Nat → BitVec n} (he : exec i s = exec2 x (shiftWidth x.d op) s)
      (h : ∀ n a c, op n a c = op' n a c) : Writes i s f t x.d th (fun i => shiftW x.d op' (va i) (vb i)) :=
    writes_of_exec2 hat hr hroom he fun _ => shiftWidth_eq_shiftW _ h _ _
  exact ⟨hwidth rfl, hwidth rfl, hwidth rfl, hwidth rfl, hwidth rfl, hwidth rfl, hshift rfl fun _ => shlBy_eq_shlN,
    hshift rfl fun _ => shrBy_eq_shrN, hshift rfl fun _ => sarBy_eq_sarN, hwidth rfl⟩

/-! ## Bit fields (R152) -/

theorem fieldPos_eq (b : Word) : (b.extractLsb' 0 8).toNat = fieldPos b := by simp [fieldPos, BitVec.extractLsb'_toNat]

theorem fieldLen_eq (b : Word) : min (b.extractLsb' 8 8).toNat 32 = fieldLen b := by
  simp [fieldLen, BitVec.extractLsb'_toNat, Nat.shiftRight_eq_div_pow]

/-- A shift count above 63 leaves of a word what 63 leaves (R152). -/
theorem toNat_div_two_pow_min (a : Word) (p : Nat) : a.toNat / 2 ^ min p 63 = a.toNat / 2 ^ p := by
  have hzero (q : Nat) (hq : 63 ≤ q) : a.toNat / 2 ^ q = 0 :=
    Nat.div_eq_of_lt (Nat.lt_of_lt_of_le a.isLt (Nat.pow_le_pow_right (by decide) (by omega)))
  rcases Nat.le_total p 63 with h | h
  · rw [Nat.min_eq_left h]
  · rw [Nat.min_eq_right h, hzero p h, hzero 63 (Nat.le_refl _)]

theorem toInt_div_two_pow_min (a : Word) (p : Nat) : a.toInt / 2 ^ min p 63 = a.toInt / 2 ^ p := by
  have hsign (q : Nat) (hq : 63 ≤ q) : a.toInt / 2 ^ q = if a.toInt < 0 then -1 else 0 := by
    have hlo := BitVec.le_two_mul_toInt (x := a)
    have hhi := BitVec.two_mul_toInt_lt (x := a)
    have hbig : (2 : Int) ^ 63 ≤ 2 ^ q := by
      have hnat := Int.ofNat_le.mpr (Nat.pow_le_pow_right (n := 2) (by decide) hq)
      rwa [Int.natCast_pow, Int.natCast_pow] at hnat
    split
    · next h => exact Int.ediv_eq_neg_one_of_neg_of_le h (by omega)
    · next h => exact Int.ediv_eq_zero_of_lt (by omega) (by omega)
  rcases Nat.le_total p 63 with h | h
  · rw [Nat.min_eq_left h]
  · rw [Nat.min_eq_right h, hsign p h, hsign 63 (Nat.le_refl _)]

theorem toNat_extract_ushiftRight (a : Word) (p l : Nat) :
    ((a.setWidth 64 >>> min p 63).extractLsb' 0 l).toNat = a.toNat / 2 ^ p % 2 ^ l := by
  rw [BitVec.extractLsb'_toNat, BitVec.toNat_ushiftRight, BitVec.toNat_setWidth, Nat.mod_eq_of_lt (Nat.lt_trans a.isLt (by decide)),
    Nat.shiftRight_zero, Nat.shiftRight_eq_div_pow, toNat_div_two_pow_min]

theorem toInt_extract_sshiftRight (a : Word) (p : Nat) {l : Nat} (hl : l ≤ 64) :
    (((a.signExtend 64).sshiftRight (min p 63)).extractLsb' 0 l).toInt = Int.bmod (a.toInt / 2 ^ p) (2 ^ l) := by
  rw [← BitVec.setWidth_eq_extractLsb' hl, BitVec.toInt_setWidth, ← Int.bmod_bmod_of_dvd (Nat.pow_dvd_pow 2 hl),
    ← BitVec.toInt_eq_toNat_bmod, BitVec.toInt_sshiftRight, BitVec.toInt_signExtend_of_le (by decide), Int.shiftRight_eq_div_pow,
    ← toInt_div_two_pow_min]
  rfl

theorem bfeResult_unsigned (a b : Word) :
    bfeResult false a b = BitVec.ofNat 32 (a.toNat / 2 ^ fieldPos b % 2 ^ fieldLen b) := by
  rw [← fieldPos_eq, ← fieldLen_eq, bfeResult]
  split
  · next h => rw [h, Nat.pow_zero, Nat.mod_one]; rfl
  · rw [if_neg Bool.false_ne_true, ← toNat_extract_ushiftRight, BitVec.ofNat_toNat]; rfl

theorem bfeResult_signed (a b : Word) :
    bfeResult true a b = BitVec.ofInt 32 (Int.bmod (a.toInt / 2 ^ fieldPos b) (2 ^ fieldLen b)) := by
  rw [← fieldPos_eq, ← fieldLen_eq, bfeResult]
  split
  · next h => rw [h, Nat.pow_zero, Int.bmod_one]; rfl
  · rw [if_pos rfl, ← toInt_extract_sshiftRight a _ (by omega)]; rfl

/-- One step of `bfi`: bit j is set to v, and no other bit changes. -/
theorem getLsbD_setBit (r : Word) (j : Nat) (v : Bool) {k : Nat} (hk : k < 32) :
    ((r &&& ~~~(BitVec.ofNat 32 (2 ^ j))) ||| (if v then BitVec.ofNat 32 (2 ^ j) else 0)).getLsbD k =
      if j = k then v else r.getLsbD k := by
  have hbit : (BitVec.ofNat 32 (2 ^ j)).getLsbD k = decide (j = k) := by
    rw [BitVec.getLsbD_ofNat, Nat.testBit_two_pow, decide_eq_true hk, Bool.true_and]
  rw [BitVec.getLsbD_or, BitVec.getLsbD_and, BitVec.getLsbD_not, decide_eq_true hk, hbit, apply_ite (BitVec.getLsbD · k), hbit]
  by_cases h : j = k <;> simp [h]

theorem getLsbD_bfiResult (a b base : Word) {k : Nat} (hk : k < 32) : (bfiResult a b base).getLsbD k =
    if fieldPos b ≤ k ∧ k < fieldPos b + fieldLen b then a.getLsbD (k - fieldPos b) else base.getLsbD k := by
  simp only [bfiResult, fieldPos_eq, fieldLen_eq, upTo]
  induction fieldLen b with
  | zero => rw [if_neg (by omega)]; rfl
  | succ n ih =>
    rw [List.range_succ, List.foldl_append, List.foldl_cons, List.foldl_nil]
    by_cases hin : fieldPos b + n ≤ 31
    · rw [if_pos hin, getLsbD_setBit _ _ _ hk, ih]
      by_cases hlast : fieldPos b + n = k
      · rw [if_pos hlast, if_pos (by omega), ← hlast, Nat.add_sub_cancel_left]
      · rw [if_neg hlast]
        exact ite_congr (propext (by omega)) (fun _ => rfl) fun _ => rfl
    · rw [if_neg hin, ih]
      exact ite_congr (propext (by omega)) (fun _ => rfl) fun _ => rfl

/-- Settles O4: `bfe` by its field as a number, `bfi` bit by bit; `mad` is its definition at the width of R146. -/
theorem fieldAndAccumulatingFormsWriteResult : Obligations.FieldAndAccumulatingFormsWriteResult := by
  refine ⟨fun s f t x va vb th hat hr hroom => ⟨?unsigned, ?signed⟩,
    fun s f t x va vb vd th hat hr hroom => ⟨?mad, fun v hin _ => ?bfi⟩⟩
  case unsigned => exact writes_of_exec2 hat hr hroom rfl fun i => congrArg word (bfeResult_unsigned _ _)
  case signed => exact writes_of_exec2 hat hr hroom rfl fun i => congrArg word (bfeResult_signed _ _)
  case mad => exact writes_of_exec3 hat hr hroom rfl fun i _ => by simp only [madResult, isG_iff, word]
  case bfi =>
    refine writes_of_exec3 hat hr hroom rfl fun i hi => congrArg word (BitVec.eq_of_getLsbD_eq fun k hk => ?_)
    rw [getLsbD_bfiResult _ _ _ hk, hin i hi k hk]

/-! ## Division (R151) -/

theorem sdiv_eq_ofInt (a b : Word) : a.sdiv b = BitVec.ofInt 32 (Int.tdiv a.toInt b.toInt) :=
  BitVec.eq_of_toInt_eq (by rw [BitVec.toInt_sdiv, BitVec.toInt_ofInt])

theorem srem_eq_ofInt (a b : Word) : a.srem b = BitVec.ofInt 32 (Int.tmod a.toInt b.toInt) := by
  rw [← BitVec.toInt_srem, BitVec.ofInt_toInt]

theorem udiv_eq_ofNat (a b : Word) : a.udiv b = BitVec.ofNat 32 (a.toNat / b.toNat) := by
  rw [← BitVec.toNat_udiv, BitVec.ofNat_toNat, BitVec.setWidth_eq, BitVec.udiv_eq]

theorem umod_eq_ofNat (a b : Word) : a.umod b = BitVec.ofNat 32 (a.toNat % b.toNat) := by
  rw [← BitVec.toNat_umod, BitVec.ofNat_toNat, BitVec.setWidth_eq, BitVec.umod_eq]

/-- The natural quotient as the truncating one of integers. -/
theorem udiv_eq_ofInt (a b : Word) : a.udiv b = BitVec.ofInt 32 (Int.tdiv a.toNat b.toNat) := by
  rw [udiv_eq_ofNat, ← Int.ofNat_tdiv, BitVec.ofInt_natCast]

theorem umod_eq_ofInt (a b : Word) : a.umod b = BitVec.ofInt 32 (Int.tmod a.toNat b.toNat) := by
  rw [umod_eq_ofNat, ← Int.ofNat_tmod, BitVec.ofInt_natCast]

section Division
variable {x : RegF} {va vb : Nat → Operand} {th : Nat → Thread}

/-- With no divisor of 0 a division commits (R151). -/
theorem writes_of_division {i : Instr} {op : Word → Word → Word} {v : Nat → Dword} (hat : At s f t)
    (hr : Reads2 f t x.a x.b x.ka x.kb va vb th) (hroom : HasRoom f x.d 1 th) (he : exec i s = exec2e x (divide op) s)
    (hnz : ∀ i, Runs f i → (vb i).lo ≠ 0) (hv : ∀ i, word (op (va i).lo (vb i).lo) = v i) : Writes i s f t x.d th v :=
  writes_of_perThread hat (he.trans (atSlot_next _ hat.focus hat.troupe)) fun i hi => by
    rw [body2e_divide hr hroom op hi, if_neg (hnz i hi), hv]

/-- A division fails in the threads whose divisor is 0, each with its dividend, and writes its result in the others (R151). -/
theorem writesOrFails_division {op : Word → Word → Word} {v : Nat → Dword} {zero : BitVec 16}
    (hr : Reads2 f t x.a x.b x.ka x.kb va vb th) (hroom : HasRoom f x.d 1 th)
    (hz : ∀ i, i < 16 → zero.getLsbD i = (f.run.getLsbD i && decide ((vb i).lo = 0)))
    (hv : ∀ i, word (op (va i).lo (vb i).lo) = v i) :
    WritesOrFails f t (body2e f x (divide op)) zero (fun i => ⟨cIntDiv0, 0, word (va i).lo⟩) x.d th v := by
  refine ⟨fun i hi => ?body, fun i hi hb => (Bool.and_eq_true_iff.mp (hz i hi ▸ hb)).1, fun _ => show cIntDiv0 ≠ cFpExc by decide⟩
  rw [body2e_divide hr hroom op hi, hz i hi.1, hi.2, hv, Bool.true_and]
  simp only [decide_eq_true_eq]

end Division

/-- Settles O15: the four operations are truncating division and remainder of the operands as numbers; a divisor of 0 fails its thread
alone, and the slot traps for the lowest-indexed of them. -/
theorem divisionTruncatesAndTrapsOnZero : Obligations.DivisionTruncatesAndTrapsOnZero := by
  refine ⟨fun s f t x va vb th hat hr hroom hnz => ⟨?divI, ?divN, ?remI, ?remN⟩, ?_⟩
  case divI => exact writes_of_division hat hr hroom rfl hnz fun i => congrArg word (sdiv_eq_ofInt _ _)
  case divN => exact writes_of_division hat hr hroom rfl hnz fun i => congrArg word (udiv_eq_ofNat _ _)
  case remI => exact writes_of_division hat hr hroom rfl hnz fun i => congrArg word (srem_eq_ofInt _ _)
  case remN => exact writes_of_division hat hr hroom rfl hnz fun i => congrArg word (umod_eq_ofNat _ _)
  intro s f t x va vb th zero hat hp hr hroom hz hne g i q signed hmem num out
  have htrap {op : Word → Word → Word} (he : exec (i x) s = exec2e x (divide op) s)
      (hop : ∀ a b, op a b = BitVec.ofInt 32 (q (num a) (num b))) :=
    trapTaken_of_perThread hat hp (he.trans (atSlot_next _ hat.focus hat.troupe))
      (writesOrFails_division (v := out) hr hroom hz fun k => congrArg word (hop _ _)) hne (by show 0 * 256 + 13 < 65536; decide)
  simp only [List.mem_cons, List.not_mem_nil, or_false, Prod.mk.injEq] at hmem
  obtain ⟨rfl, rfl, rfl⟩ | ⟨rfl, rfl, rfl⟩ | ⟨rfl, rfl, rfl⟩ | ⟨rfl, rfl, rfl⟩ := hmem
  · exact htrap (op := BitVec.sdiv) rfl sdiv_eq_ofInt
  · exact htrap (op := BitVec.udiv) rfl udiv_eq_ofInt
  · exact htrap (op := BitVec.srem) rfl srem_eq_ofInt
  · exact htrap (op := BitVec.umod) rfl umod_eq_ofInt

end Sys2Proof.Scalar
end
